-- ==== Sys2Proof/Word.lean ====
section
/-! DEFINITION. The machine word, the byte, and keyed tables of plain data. -/

namespace Sys2Proof

/-- A register, a descriptor or an instruction word (03 R40, 01 R12). -/
abbrev W64 := BitVec 64

/-- One byte of any memory. -/
abbrev Byte := BitVec 8

/-- A table from numbers to values, as a list of pairs with rising keys.
A key that is not listed holds the table's default value. -/
abbrev Tab (α : Type) := List (Nat × α)

end Sys2Proof
end

