-- ==== Sys2Proof/Syntax.lean ====
section
/-! DEFINITION. The steps of the part, whole: one constructor of Instr for each row of
spec/opcode_table.json. Rows 0 to 208 are words of a slot (03 R61 to R66); the others are moves and
events, whose arguments carry every choice the spec leaves to the device or to its surroundings. -/

namespace Sys2Proof

/-- The four slots in the order of 01 R12. -/
inductive Slot where
  | c | a | v | m
  deriving DecidableEq, Repr, Inhabited

/-- A source position (03 R45): a scalar register, an exchange register, the load data queue, the
constant of PFX.K, or one of the eight constants of codes 56 to 63. -/
inductive Src where
  | s (n : Fin 32)
  | x (n : Fin 8)
  | lq
  | k
  | con (n : Fin 8)
  deriving DecidableEq, Repr

/-- A destination position (05 R95): a scalar register, or SQ in slot C. -/
inductive Dst where
  | s (n : Fin 32)
  | sq
  deriving DecidableEq, Repr

/-- The destination of XMOV (05 R95): also an exchange register. -/
inductive XDst where
  | s (n : Fin 32)
  | x (n : Fin 8)
  | sq
  deriving DecidableEq, Repr

/-- Rounding modes (03 R46, 04 R72). -/
inductive Rnd where
  | rne | rtz | rup | rdn | rna | sr
  deriving DecidableEq, Repr, Inhabited

/-- The mode field: ROUND and OVF (03 R46). -/
structure Mode where
  rnd : Rnd
  ovf : Bool
  deriving DecidableEq, Repr, Inhabited

/-- Cache hints (03 R44). -/
inductive Hint where
  | norm | stream | keep | nordc
  deriving DecidableEq, Repr, Inhabited

/-- Scopes (10 R201). -/
inductive Scope where
  | slot | tile | die | pkg | sys
  deriving DecidableEq, Repr, Inhabited

/-- A guard field: invert bit and index (03 R40, R42). -/
structure GuardF where
  inv : Bool
  idx : Fin 8
  deriving DecidableEq, Repr, Inhabited

/-- The token action (03 R43). The peer is slot (self + k) mod 4, with k from 1 to 3. -/
inductive Tok where
  | none
  | pop  (k : Fin 3)
  | push (k : Fin 3)
  deriving DecidableEq, Repr, Inhabited

/-- The control fields of a word other than HINT (03 R40). -/
structure Ctl where
  idle : BitVec 10
  sync : Bool
  ga   : GuardF
  gb   : GuardF
  tok  : Tok
  deriving DecidableEq, Repr, Inhabited

/-- One source modifier of PFX.SM (03 R48), as its three fields. -/
structure SMod where
  cls  : BitVec 2
  seg  : BitVec 3
  dist : BitVec 7
  deriving DecidableEq, Repr, Inhabited

/-- What a memory word carries beside its operands: HINT and the alias class of F4 (03 R44). -/
structure MemF where
  hint : Hint
  cls  : BitVec 4
  deriving DecidableEq, Repr, Inhabited

/-- Operands of a load, a store or PF (11 R223). -/
structure LdSt where
  a  : Src
  b  : Src
  sh : Fin 4
  mf : MemF
  deriving DecidableEq, Repr

/-- Operands of a far atomic (11 R226); dbl is SZ[0]. -/
structure Atom where
  a   : Src
  b   : Src
  dbl : Bool
  mf  : MemF
  deriving DecidableEq, Repr

/-- A named error that a checker or a link reports from outside (19 R353 to R358): its class, its
source number, and where it was found. -/
structure ErrSite where
  cls    : Nat
  source : Nat
  unit   : Nat
  slot   : Nat
  addr   : Nat
  detail : Nat
  deriving DecidableEq, Repr, Inhabited

/-- The steps of the part. -/
inductive Instr where
  -- class 0x0 (05 R97, R98)
  | add (d : Dst) (a b : Src)
  | sub (d : Dst) (a b : Src)
  | mul (d : Dst) (a b : Src)
  | mulh (d : Dst) (a b : Src)
  | mulhs (d : Dst) (a b : Src)
  | div (d : Dst) (a b : Src)
  | divs (d : Dst) (a b : Src)
  | rem (d : Dst) (a b : Src)
  | rems (d : Dst) (a b : Src)
  | min (d : Dst) (a b : Src)
  | mins (d : Dst) (a b : Src)
  | max (d : Dst) (a b : Src)
  | maxs (d : Dst) (a b : Src)
  | sel (d : Dst) (g : Fin 8) (a b : Src)
  | movk (d : Dst) (imm : BitVec 24)
  | movkh (d : Fin 32) (imm : BitVec 20)
  | xmov (d : XDst) (a : Src)
  | rgn (d : Dst) (base stride count : Src) (fmt : BitVec 4) (list : Bool)
  -- class 0x1 (05 R99)
  | and (d : Dst) (a b : Src)
  | or (d : Dst) (a b : Src)
  | xor (d : Dst) (a b : Src)
  | andn (d : Dst) (a b : Src)
  | shl (d : Dst) (a b : Src)
  | shr (d : Dst) (a b : Src)
  | sra (d : Dst) (a b : Src)
  | rot (d : Dst) (a b : Src)
  | clz (d : Dst) (a : Src)
  | ctz (d : Dst) (a : Src)
  | popc (d : Dst) (a : Src)
  | extr (d : Dst) (a : Src) (pos lenm1 : BitVec 6)
  | ins (d : Fin 32) (a : Src) (pos lenm1 : BitVec 6)
  | clmul (d : Dst) (a b : Src)
  | clmulh (d : Dst) (a b : Src)
  | gand (d g1 g2 : Fin 8)
  | gor (d g1 g2 : Fin 8)
  | gnot (d g1 : Fin 8)
  | cmpEq (d : Fin 8) (a b : Src)
  | cmpNe (d : Fin 8) (a b : Src)
  | cmpLt (d : Fin 8) (a b : Src)
  | cmpLts (d : Fin 8) (a b : Src)
  | cmpLe (d : Fin 8) (a b : Src)
  | cmpLes (d : Fin 8) (a b : Src)
  -- class 0x2 (05 R106; 03 R47, R48)
  | nop
  | br (disp : BitVec 24)
  | bri (a : Src)
  | call (d : Fin 32) (disp : BitVec 24)
  | ret (a : Src)
  | loop (a : Src) (endw : BitVec 18)
  | taskend
  | pfxK (k : BitVec 44)
  | pfxSm (m1 m2 m3 : SMod)
  /-- START is issued by the dispatcher (05 R111, 03 R62): the tile that starts. -/
  | start (tile : Nat)
  -- class 0x3 (05 R117)
  | trap (a : Src)
  | eret
  | mfsr (d : Dst) (num : BitVec 6)
  | mtsr (num : BitVec 6) (a : Src)
  | mtsrSrseed (a : Src)
  | mtsrBfmt (n : Fin 12) (a : Src)
  | mtsrBscl (n : Fin 12) (a : Src)
  | mtsrCntsel (n : Fin 8) (a : Src)
  | halt
  | iclr
  -- classes 0x4 to 0x7 (05 R120); a Fin 32 in a region position is a scalar register of slot V
  | vadd (d a b : Fin 32) (md : Mode)
  | vsub (d a b : Fin 32) (md : Mode)
  | vmul (d a b : Fin 32) (md : Mode)
  | vfma (d a b c : Fin 32) (md : Mode)
  | vfms (d a b c : Fin 32) (md : Mode)
  | vfnma (d a b c : Fin 32) (md : Mode)
  | vmin (d a b : Fin 32) (md : Mode)
  | vmax (d a b : Fin 32) (md : Mode)
  | vabs (d a : Fin 32) (md : Mode)
  | vneg (d a : Fin 32) (md : Mode)
  | vand (d a b : Fin 32)
  | vor (d a b : Fin 32)
  | vxor (d a b : Fin 32)
  | vshl (d a b : Fin 32)
  | vshr (d a b : Fin 32)
  | vsra (d a b : Fin 32)
  | vcmpEq (d a b : Fin 32)
  | vcmpNe (d a b : Fin 32)
  | vcmpLt (d a b : Fin 32)
  | vcmpLts (d a b : Fin 32)
  | vcmpLe (d a b : Fin 32)
  | vcmpLes (d a b : Fin 32)
  | vsel (d m a b : Fin 32)
  | vcvt (d a : Fin 32) (md : Mode)
  | vqnt (d a : Fin 32) (rnd : Rnd)
  | vdqnt (d a t : Fin 32) (md : Mode)
  | vrcpe (d a : Fin 32)
  | vrsqe (d a : Fin 32)
  | vrcps (d a b : Fin 32) (rnd : Rnd)
  | vrsqs (d a b : Fin 32) (rnd : Rnd)
  | vexp2e (d a : Fin 32)
  | vlog2e (d a : Fin 32)
  | vsum (d a : Fin 32) (md : Mode)
  | vdot (d a b : Fin 32) (md : Mode)
  | vmaxr (d a : Fin 32)
  | vminr (d a : Fin 32)
  | viota (d : Fin 32) (a b : Src)
  | vfill (d : Fin 32) (a : Src)
  | vcopy (d a : Fin 32)
  | vpart (d0 d1 d2 d3 o : Fin 32)
  | vgath (d a l : Fin 32)
  | vscat (d a l : Fin 32)
  -- classes 0x8 and 0x9 (06 R149)
  | mln (lvl : Fin 6) (a : Src)
  | mopa (src : Fin 3) (a b : Src)
  | mopb (src : Fin 3) (a b : Src)
  | macc (acc : Fin 4) (init : Bool)
  | mlda (reg : Bool) (a b : Src)
  | mldb (reg : Bool) (a b : Src)
  | mgo (a : Src)
  | mwait
  | mdrain (a b : Src) (acc : Fin 4) (zero : Bool) (md : Mode)
  | mbya (reg : Bool) (acc : Fin 4) (zero : Bool) (fmt : BitVec 6) (md : Mode)
  | mxp (d e a b p : Src)
  | msave (a : Src)
  | mrest (a : Src)
  | mstat (d : Fin 32) (b : Src)
  -- class 0xA (07 R170)
  | cset (a : Src)
  | cldc (a : Src)
  | crun (a : Src)
  | cleaf (d a : Src)
  | cidx (d : Src)
  | cstatContour (d : Fin 32) (b : Src)
  -- class 0xB (11 R223, R225, R232, R236)
  | ldB (o : LdSt)
  | ldH (o : LdSt)
  | ldW (o : LdSt)
  | ldD (o : LdSt)
  | ldsB (o : LdSt)
  | ldsH (o : LdSt)
  | ldsW (o : LdSt)
  | stB (o : LdSt)
  | stH (o : LdSt)
  | stW (o : LdSt)
  | stD (o : LdSt)
  | pf (o : LdSt)
  | qmark
  | fenceSlot
  | fenceTile
  | fenceDie
  | fencePkg
  | fenceSys
  /-- The retirement of a FENCE of a tile (11 R225, 10 R202). -/
  | fenceRetire (tile : Nat)
  | acqSlot
  | acqTile
  | acqDie
  | acqPkg
  | acqSys
  | relSlot
  | relTile
  | relDie
  | relPkg
  | relSys
  -- class 0xC (11 R226)
  | aadd (o : Atom)
  | amin (o : Atom)
  | amins (o : Atom)
  | amax (o : Atom)
  | amaxs (o : Atom)
  | aand (o : Atom)
  | aor (o : Atom)
  | axor (o : Atom)
  | aswp (o : Atom)
  | acas (o : Atom)
  | aaddF32 (o : Atom)
  | aaddBf16 (o : Atom)
  | aaddNr (o : Atom)
  | aminNr (o : Atom)
  | aminsNr (o : Atom)
  | amaxNr (o : Atom)
  | amaxsNr (o : Atom)
  | aandNr (o : Atom)
  | aorNr (o : Atom)
  | axorNr (o : Atom)
  | aswpNr (o : Atom)
  | acasNr (o : Atom)
  | aaddF32Nr (o : Atom)
  | aaddBf16Nr (o : Atom)
  | cpygs (sd ga shape pitch : Src) (mf : MemF)
  | cpysg (sd ga shape pitch : Src) (mf : MemF)
  | chainTail (a : Src)
  | chainWait (d : Fin 32) (a : Src) (clr : Bool)
  -- class 0xD (12 R252, R258, R260; 14 R322)
  | put (tgt adr ctl : Src) (mf : MemF)
  | get (tgt adr ctl : Src) (mf : MemF)
  | arradd (d : Fin 32) (a b : Src)
  | arrset (a b : Src)
  | arrw (d : Fin 32) (a b : Src) (subt : Bool)
  | bcbPost (d : Fin 32) (a b : Src)
  | bcbWait (d : Fin 32) (a b : Src) (clr : Bool)
  | ctbl (a b : Src)
  | cready (a : Src)
  | cevw (d : Fin 32) (a b : Src)
  | cabort (a : Src)
  | cstatColl (d : Fin 32) (a : Src) (clr : Bool)
  -- class 0xE (13 R276)
  | bara (d : Fin 32) (b : Src)
  | barw (b p : Src)
  | bars (d : Fin 32) (b : Src)
  | barcfg (b n : Src)
  | mlock (m : Src)
  | mtry (d : Fin 32) (m : Src)
  | munlk (m : Src)
  | semp (m : Src)
  | semv (m n : Src)
  | semtry (d : Fin 32) (m : Src)
  | tokcnt (d : Fin 32) (src dst : Fin 4)
  | yield (a : Src)
  | qpt
  | dsend (a b : Src)
  | lrpatch (d : Fin 32) (a b : Src) (fld : Fin 21)
  | lrarm (d : Fin 32) (a : Src)
  -- moves of the abstract machine (10 R188 to R200)
  | deq (tile : Nat) (store : Bool)
  | entryTranslate (tile : Nat) (store : Bool) (index : Nat)
  | pageWalk (die asid va : Nat)
  | hop (die path : Nat) (keep : Bool)
  | rdcEvict (die line : Nat)
  | send (src dst path : Nat)
  | packetArrive (src dst : Nat)
  | deliver (party index : Nat)
  | deliveryReport (party src : Nat)
  | reportReceive (party index : Nat)
  | perform (die index : Nat)
  | returnVal (tile : Nat)
  | commit (tile count : Nat)
  | hostCompletion (index : Nat)
  | hostWrite (addr : Nat) (bytes : List Byte)
  | copyBegin (tile : Nat)
  | copySector (tile cmd index : Nat)
  | copySeqCommit (tile : Nat)
  | chainEntryRead (tile : Nat)
  | putBegin (tile : Nat)
  | putArrive (tile index : Nat)
  | getrqArrive (tile index : Nat)
  | getrsArrive (tile index : Nat)
  | packArrive (tile index : Nat)
  | routerTimeout (index : Nat)
  -- links and routing (14 R303 to R313, 19 R364)
  | flitReceive (port : Nat)
  | ackTimer (port : Nat)
  | retryReceive (port : Nat)
  | retryRepeat (port : Nat)
  | laneShed (port lane : Nat)
  | rshreqReceive (port : Nat)
  | rshackReceive (port : Nat)
  | rshreqRepeat (port : Nat)
  | linkTimeout (port : Nat)
  | retrain (port : Nat) (lanes : BitVec 8)
  | packetForward (index port : Nat)
  | escapeEntry (index : Nat)
  | treeInstall (version : Nat) (links : List (Nat × Nat))
  | treeRetire (version : Nat)
  | livenessSend (port : Nat)
  | livenessReceive (port : Nat)
  | groupTimeout (group : Nat)
  | holdTimeout (party index : Nat)
  | interdieLinkError (p q : Nat)
  | resurveyResume
  -- collectives (14 R317 to R320, 21 R404)
  | contribBegin (tile : Nat)
  | contribReceive (tile index : Nat)
  | cackReceive (tile index : Nat)
  | contribResend (tile entry : Nat)
  | finReceive (tile index : Nat)
  | brelReceive (tile index : Nat)
  | allfinRelease (tile entry : Nat)
  | abortReceive (tile index : Nat)
  -- tasks (13)
  | dispatchDecision
  | reservationTimeout (part : Nat)
  | taskEnd (run : Nat)
  | preemptArrive (tile : Nat)
  | preemptInhTimeout (tile : Nat)
  | stubTimeout (tile : Nat) (slot : Slot)
  | frameComplete (tile : Nat)
  | qptWatchdog (tile : Nat)
  | stallWatchdog (tile : Nat) (slot : Slot)
  -- isolation and recovery (18, 19, 20)
  | invalDone (index : Nat)
  | faultRingFlush (part : Nat)
  | errorDetected (e : ErrSite)
  | viralSideband (party : Nat)
  | freezePacketArrive (tile : Nat)
  | freezeTimeout (ring : Nat)
  | cartoucheAssemble (part : Nat)
  | sealDeadline
  | debugHold (die : Nat)
  | debugRelease (die : Nat)
  | dieQuiesceTimeout (die : Nat)
  | dieRetrainDone (die : Nat) (ok : Bool)
  | dieDropThreshold (die : Nat)
  | snapshotBegin
  | snapshotResend (index : Nat)
  | trainingComplete
  | fullServiceBegin
  | coldReset
  -- the host (21 R396, R397)
  | qtailWrite (fn q : Nat) (value : BitVec 32)
  | queueRestart (fn q : Nat)
  | hostRegWrite (fn reg : Nat) (value : W64)
  | cmdNop (fn q : Nat)
  | build (fn q : Nat)
  | arm (fn q : Nat)
  | release (fn q : Nat)
  | preempt (fn q : Nat)
  | resolve (fn q : Nat)
  | inval (fn q : Nat)
  | jread (fn q : Nat)
  | capsList (fn q : Nat)
  | capsRead (fn q : Nat)
  | partset (fn q : Nat)
  | partsetDone (part : Nat)
  | sevset (fn q : Nat)
  | tmoset (fn q : Nat)
  | wdset (fn q : Nat)
  | power (fn q : Nat)
  | diereset (fn q : Nat)
  | diedrop (fn q : Nat)
  | snapshot (fn q : Nat)
  | snaprest (fn q : Nat)
  | pkgreset (fn q : Nat)
  | fabsetPctl (fn q : Nat)
  | fabsetRcfg (fn q : Nat)
  | fabsetTcw (fn q : Nat)
  | packageNumberAssign (group : BitVec 17) (member : BitVec 9)
  | debuggerAttach (part : Nat) (on : Bool)
  | viralNoticeReceive (port : Nat)
  | snapshotPacketReceive (port : Nat)
  | snapshotAckReceive (port : Nat)
  | removalOfAParty (party : Nat)
  deriving DecidableEq, Repr


end Sys2Proof
end

