-- ==== Sys2Proof/WellFormed.lean ====
section
/-! DEFINITION. Which instructions, with which control fields, have an encoding in a slot: the limits that
the types of Syntax.lean do not hold already (03 R45 to R48, R51, R62 to R66, and the entries' tables). -/

namespace Sys2Proof

/-- The system register numbers that MFSR and MTSR may name (05 R112). -/
def sregDefined (n : BitVec 6) : Bool :=
  let k := n.toNat
  k < 14 || (16 ≤ k && k < 28) || (32 ≤ k && k < 44) || 48 ≤ k

/-- The register numbers whose MTSR is a row of its own in the opcode table. -/
def sregOwnRow (n : BitVec 6) : Bool :=
  let k := n.toNat
  k == 7 || (16 ≤ k && k < 28) || (32 ≤ k && k < 44) || (48 ≤ k && k < 56)

/-- The formats that MBYA can write: I8, BF16, F16, E4M3, E5M2 and N8 (06 R155, 04 R68). -/
def mbyaFmt (f : BitVec 6) : Bool :=
  f == 1 || f == 5 || f == 6 || f == 7 || f == 8 || f == 13

/-- A source modifier that 03 R48 allows. -/
def SMod.legal (m : SMod) : Bool :=
  if m.cls == 0 then m.seg == 0 && m.dist == 0
  else 1 ≤ m.seg.toNat && m.seg.toNat ≤ 6 && m.dist.toNat < 2 ^ m.seg.toNat

/-- A source position that accepts LQ, which only slot C has (03 R45). -/
def Src.okS (s : Slot) : Src → Bool
  | .lq => s == .c
  | .s _ | .x _ | .k | .con _ => true

/-- A source position that does not accept LQ. -/
def Src.okQ : Src → Bool
  | .lq => false
  | .s _ | .x _ | .k | .con _ => true

/-- A destination of classes 0x0 to 0x3 (05 R95). -/
def Dst.ok (s : Slot) : Dst → Bool
  | .sq => s == .c
  | .s _ => true

/-- XMOV's destination. -/
def XDst.ok (s : Slot) : XDst → Bool
  | .sq => s == .c
  | .s _ | .x _ => true

def LdSt.ok (o : LdSt) : Bool := o.a.okQ && o.b.okQ
def Atom.ok (o : Atom) : Bool := o.a.okQ && o.b.okQ

/-- Whether an instruction has an encoding that slot s accepts. -/
def Instr.wfIn (s : Slot) : Instr → Bool
  | .add d a b => d.ok s && a.okS s && b.okS s
  | .sub d a b => d.ok s && a.okS s && b.okS s
  | .mul d a b => d.ok s && a.okS s && b.okS s
  | .mulh d a b => d.ok s && a.okS s && b.okS s
  | .mulhs d a b => d.ok s && a.okS s && b.okS s
  | .div d a b => d.ok s && a.okS s && b.okS s
  | .divs d a b => d.ok s && a.okS s && b.okS s
  | .rem d a b => d.ok s && a.okS s && b.okS s
  | .rems d a b => d.ok s && a.okS s && b.okS s
  | .min d a b => d.ok s && a.okS s && b.okS s
  | .mins d a b => d.ok s && a.okS s && b.okS s
  | .max d a b => d.ok s && a.okS s && b.okS s
  | .maxs d a b => d.ok s && a.okS s && b.okS s
  | .sel d _ a b => d.ok s && a.okS s && b.okS s
  | .movk d _ => d.ok s
  | .movkh _ _ => true
  | .xmov d a => d.ok s && a.okS s
  | .rgn d b st n _ _ => d.ok s && b.okS s && st.okS s && n.okS s
  | .and d a b => d.ok s && a.okS s && b.okS s
  | .or d a b => d.ok s && a.okS s && b.okS s
  | .xor d a b => d.ok s && a.okS s && b.okS s
  | .andn d a b => d.ok s && a.okS s && b.okS s
  | .shl d a b => d.ok s && a.okS s && b.okS s
  | .shr d a b => d.ok s && a.okS s && b.okS s
  | .sra d a b => d.ok s && a.okS s && b.okS s
  | .rot d a b => d.ok s && a.okS s && b.okS s
  | .clz d a => d.ok s && a.okS s
  | .ctz d a => d.ok s && a.okS s
  | .popc d a => d.ok s && a.okS s
  | .extr d a p l => d.ok s && a.okS s && p.toNat + l.toNat + 1 ≤ 64
  | .ins _ a p l => a.okS s && p.toNat + l.toNat + 1 ≤ 64
  | .clmul d a b => d.ok s && a.okS s && b.okS s
  | .clmulh d a b => d.ok s && a.okS s && b.okS s
  | .gand _ _ _ => true
  | .gor _ _ _ => true
  | .gnot _ _ => true
  | .cmpEq _ a b => a.okS s && b.okS s
  | .cmpNe _ a b => a.okS s && b.okS s
  | .cmpLt _ a b => a.okS s && b.okS s
  | .cmpLts _ a b => a.okS s && b.okS s
  | .cmpLe _ a b => a.okS s && b.okS s
  | .cmpLes _ a b => a.okS s && b.okS s
  | .nop => true
  | .br _ => true
  | .bri a => a.okS s
  | .call _ _ => true
  | .ret a => a.okS s
  | .loop a e => a.okS s && e != 0
  | .taskend => true
  | .trap a => a.okS s
  | .eret => s == .c
  | .mfsr d n => d.ok s && sregDefined n
  | .mtsr n a => a.okS s && sregDefined n && !sregOwnRow n
  | .mtsrSrseed a => a.okS s
  | .mtsrBfmt _ a => a.okS s
  | .mtsrBscl _ a => a.okS s
  | .mtsrCntsel _ a => a.okS s
  | .halt => true
  | .iclr => s == .c
  | .vadd _ _ _ _ => s == .v
  | .vsub _ _ _ _ => s == .v
  | .vmul _ _ _ _ => s == .v
  | .vfma _ _ _ _ _ => s == .v
  | .vfms _ _ _ _ _ => s == .v
  | .vfnma _ _ _ _ _ => s == .v
  | .vmin _ _ _ _ => s == .v
  | .vmax _ _ _ _ => s == .v
  | .vabs _ _ _ => s == .v
  | .vneg _ _ _ => s == .v
  | .vand _ _ _ => s == .v
  | .vor _ _ _ => s == .v
  | .vxor _ _ _ => s == .v
  | .vshl _ _ _ => s == .v
  | .vshr _ _ _ => s == .v
  | .vsra _ _ _ => s == .v
  | .vcmpEq _ _ _ => s == .v
  | .vcmpNe _ _ _ => s == .v
  | .vcmpLt _ _ _ => s == .v
  | .vcmpLts _ _ _ => s == .v
  | .vcmpLe _ _ _ => s == .v
  | .vcmpLes _ _ _ => s == .v
  | .vsel _ _ _ _ => s == .v
  | .vcvt _ _ _ => s == .v
  | .vqnt _ _ _ => s == .v
  | .vdqnt _ _ _ _ => s == .v
  | .vrcpe _ _ => s == .v
  | .vrsqe _ _ => s == .v
  | .vrcps _ _ _ _ => s == .v
  | .vrsqs _ _ _ _ => s == .v
  | .vexp2e _ _ => s == .v
  | .vlog2e _ _ => s == .v
  | .vsum _ _ _ => s == .v
  | .vdot _ _ _ _ => s == .v
  | .vmaxr _ _ => s == .v
  | .vminr _ _ => s == .v
  | .viota _ a b => s == .v && a.okQ && b.okQ
  | .vfill _ a => s == .v && a.okQ
  | .vcopy _ _ => s == .v
  | .vpart a b c d _ => s == .v && decide [a, b, c, d].Nodup
  | .vgath _ _ _ => s == .v
  | .vscat _ _ _ => s == .v
  | .mln _ a => s == .m && a.okQ
  | .mopa k a b => s == .m && a.okQ && b.okQ && (k == 0 || (a == .s 0 && b == .s 0))
  | .mopb k a b => s == .m && a.okQ && b.okQ && (k == 0 || (a == .s 0 && b == .s 0))
  | .macc _ _ => s == .m
  | .mlda _ a b => s == .m && a.okQ && b.okQ
  | .mldb _ a b => s == .m && a.okQ && b.okQ
  | .mgo a => s == .m && a.okQ
  | .mwait => s == .m
  | .mdrain a b _ _ _ => s == .m && a.okQ && b.okQ
  | .mbya _ _ _ fm _ => s == .m && mbyaFmt fm
  | .mxp d e a b p => s == .m && d.okQ && e.okQ && a.okQ && b.okQ && p.okQ
  | .msave a => s == .m && a.okQ
  | .mrest a => s == .m && a.okQ
  | .mstat _ a => s == .m && a.okQ
  | .cset a => s == .m && a.okQ
  | .cldc a => s == .m && a.okQ
  | .crun a => s == .m && a.okQ
  | .cleaf d a => s == .m && d.okQ && a.okQ
  | .cidx d => s == .m && d.okQ
  | .cstatContour _ a => s == .m && a.okQ
  | .ldB o => s == .a && o.ok
  | .ldH o => s == .a && o.ok
  | .ldW o => s == .a && o.ok
  | .ldD o => s == .a && o.ok
  | .ldsB o => s == .a && o.ok
  | .ldsH o => s == .a && o.ok
  | .ldsW o => s == .a && o.ok
  | .stB o => s == .a && o.ok
  | .stH o => s == .a && o.ok
  | .stW o => s == .a && o.ok
  | .stD o => s == .a && o.ok
  | .pf o => s == .a && o.ok
  | .qmark => s == .a
  | .cpygs d e g h _ => s == .a && d.okQ && e.okQ && g.okQ && h.okQ
  | .cpysg d e g h _ => s == .a && d.okQ && e.okQ && g.okQ && h.okQ
  | .chainTail a => s == .a && a.okQ
  | .chainWait _ a _ => s == .a && a.okQ
  | .fenceSlot => s == .a
  | .fenceTile => s == .a
  | .fenceDie => s == .a
  | .fencePkg => s == .a
  | .fenceSys => s == .a
  | .acqSlot => s == .a
  | .acqTile => s == .a
  | .acqDie => s == .a
  | .acqPkg => s == .a
  | .acqSys => s == .a
  | .relSlot => s == .a
  | .relTile => s == .a
  | .relDie => s == .a
  | .relPkg => s == .a
  | .relSys => s == .a
  | .aadd o => s == .a && o.ok
  | .amin o => s == .a && o.ok
  | .amins o => s == .a && o.ok
  | .amax o => s == .a && o.ok
  | .amaxs o => s == .a && o.ok
  | .aand o => s == .a && o.ok
  | .aor o => s == .a && o.ok
  | .axor o => s == .a && o.ok
  | .aswp o => s == .a && o.ok
  | .acas o => s == .a && o.ok
  | .aaddF32 o => s == .a && o.ok && !o.dbl
  | .aaddBf16 o => s == .a && o.ok && !o.dbl
  | .aaddNr o => s == .a && o.ok
  | .aminNr o => s == .a && o.ok
  | .aminsNr o => s == .a && o.ok
  | .amaxNr o => s == .a && o.ok
  | .amaxsNr o => s == .a && o.ok
  | .aandNr o => s == .a && o.ok
  | .aorNr o => s == .a && o.ok
  | .axorNr o => s == .a && o.ok
  | .aswpNr o => s == .a && o.ok
  | .acasNr o => s == .a && o.ok
  | .aaddF32Nr o => s == .a && o.ok && !o.dbl
  | .aaddBf16Nr o => s == .a && o.ok && !o.dbl
  | .put d a b _ => s == .a && d.okQ && a.okQ && b.okQ
  | .get d a b _ => s == .a && d.okQ && a.okQ && b.okQ
  | .arradd _ a b => s == .a && a.okQ && b.okQ
  | .arrset a b => s == .a && a.okQ && b.okQ
  | .arrw _ a b _ => s == .a && a.okQ && b.okQ
  | .bcbPost _ a b => s == .a && a.okQ && b.okQ
  | .bcbWait _ a b _ => s == .a && a.okQ && b.okQ
  | .ctbl a b => s == .a && a.okQ && b.okQ
  | .cready a => s == .a && a.okQ
  | .cevw _ a b => s == .a && a.okQ && b.okQ
  | .cabort a => s == .a && a.okQ
  | .cstatColl _ a _ => s == .a && a.okQ
  | .bara _ a => a.okQ
  | .barw a b => a.okQ && b.okQ
  | .bars _ a => a.okQ
  | .barcfg a b => a.okQ && b.okQ
  | .mlock a => a.okQ
  | .mtry _ a => a.okQ
  | .munlk a => a.okQ
  | .semp a => a.okQ
  | .semv a b => a.okQ && b.okQ
  | .semtry _ a => a.okQ
  | .tokcnt _ i j => i != j
  | .yield a => a.okQ
  | .qpt => true
  | .dsend a b => a.okQ && b.okQ
  | .lrpatch _ a b _ => a.okQ && b.okQ
  | .lrarm _ a => a.okQ
  | .pfxK _ => true
  | .pfxSm m1 m2 m3 => m1.legal && m2.legal && m3.legal
  | _ => false

/-- Whether an instruction with its control fields is well-formed in slot s: it has an encoding there, and a
prefix has no control fields of its own (03 R47, R48). -/
def wellFormed (s : Slot) (c : Ctl) (i : Instr) : Bool :=
  match i with
  | .pfxK _ | .pfxSm _ _ _ => i.wfIn s && c == ⟨0, false, ⟨false, 0⟩, ⟨false, 0⟩, .none⟩
  | i => i.wfIn s

end Sys2Proof
end

