-- ==== Sys2Proof/Decode.lean ====
section
/-! DEFINITION. The 64-bit word (03 R40 to R66): its fields, the decoder and the encoder.
decode is total; what it refuses carries the step of 03 R51 that failed. -/

namespace Sys2Proof

/-- The fields of a word (03 R40), as bits. -/
structure Fields where
  idle : BitVec 10
  sync : BitVec 1
  ga   : BitVec 4
  gb   : BitVec 4
  tok  : BitVec 3
  hint : BitVec 2
  op   : BitVec 10
  f0   : BitVec 6
  f1   : BitVec 6
  f2   : BitVec 6
  f3   : BitVec 6
  f4   : BitVec 6
  deriving DecidableEq, Repr

/-- The word that holds given fields (03 R40). -/
def Fields.toWord (f : Fields) : W64 :=
  f.idle ++ f.sync ++ f.ga ++ f.gb ++ f.tok ++ f.hint ++ f.op ++ f.f0 ++ f.f1 ++ f.f2 ++ f.f3 ++ f.f4

/-- The fields of a word (03 R40). -/
def Fields.ofWord (w : W64) : Fields where
  idle := w.extractLsb' 54 10
  sync := w.extractLsb' 53 1
  ga   := w.extractLsb' 49 4
  gb   := w.extractLsb' 45 4
  tok  := w.extractLsb' 42 3
  hint := w.extractLsb' 40 2
  op   := w.extractLsb' 30 10
  f0   := w.extractLsb' 24 6
  f1   := w.extractLsb' 18 6
  f2   := w.extractLsb' 12 6
  f3   := w.extractLsb' 6 6
  f4   := w.extractLsb' 0 6

/-- What a field of a word is (03 R45, R48): it must be zero; a destination, source, guard or region
operand; a region register that no source modifier reaches (05 R126, R134, R135); or an immediate. -/
inductive FieldKind where
  | zero | dst | src | grd | reg | regN | imm
  deriving DecidableEq, Repr

/-- Whether a field of the kind holds an operand code (03 R45). -/
def FieldKind.isOperand : FieldKind → Bool
  | .zero | .imm => false
  | .dst | .src | .grd | .reg | .regN => true

/-- Why a word does not decode: the first failing step of 03 R51. -/
inductive DecErr where
  /-- Step 1: class 0xF, an unassigned minor or START; raises ILL with DETAIL 1. -/
  | unassigned
  /-- Step 2: an opcode not legal in the slot, or LQ or SQ outside slot C; raises ILLSLOT. -/
  | illSlot
  /-- Step 3: another reserved or illegal field value; raises ILL with DETAIL 3. -/
  | badField
  deriving DecidableEq, Repr

/-! ### Codes of single fields, read -/

/-- A source operand code (03 R45). -/
def codeSrc (c : BitVec 6) : Option Src :=
  if c.toNat < 32 then some (.s (Fin.ofNat 32 c.toNat))
  else if 40 ≤ c.toNat ∧ c.toNat < 48 then some (.x (Fin.ofNat 8 (c.toNat - 40)))
  else if c.toNat = 48 then some .lq
  else if c.toNat = 50 then some .k
  else if 56 ≤ c.toNat then some (.con (Fin.ofNat 8 (c.toNat - 56)))
  else none

/-- A source operand code without LQ. -/
def codeQ (c : BitVec 6) : Option Src :=
  if c.toNat = 48 then none else codeSrc c

/-- A destination operand code (05 R95). -/
def codeDst (c : BitVec 6) : Option Dst :=
  if c.toNat < 32 then some (.s (Fin.ofNat 32 c.toNat))
  else if c.toNat = 49 then some .sq
  else none

/-- XMOV's destination (05 R95, R97). -/
def codeXDst (c : BitVec 6) : Option XDst :=
  if c.toNat < 32 then some (.s (Fin.ofNat 32 c.toNat))
  else if 40 ≤ c.toNat ∧ c.toNat < 48 then some (.x (Fin.ofNat 8 (c.toNat - 40)))
  else if c.toNat = 49 then some .sq
  else none

/-- A position that accepts s0 to s31 alone (05 R101, R107; 11 R236). -/
def codeReg (c : BitVec 6) : Option (Fin 32) :=
  if c.toNat < 32 then some (Fin.ofNat 32 c.toNat) else none

/-- A position that accepts g0 to g7 alone (05 R95). -/
def codeGrd (c : BitVec 6) : Option (Fin 8) :=
  if 32 ≤ c.toNat ∧ c.toNat < 40 then some (Fin.ofNat 8 (c.toNat - 32)) else none

/-- An immediate of one bit. -/
def codeBit (c : BitVec 6) : Option Bool :=
  if c.toNat = 0 then some false else if c.toNat = 1 then some true else none

/-- ROUND (03 R46). -/
def codeRnd (n : Nat) : Option Rnd :=
  match n with
  | 0 => some .rne
  | 1 => some .rtz
  | 2 => some .rup
  | 3 => some .rdn
  | 4 => some .rna
  | 5 => some .sr
  | _ => none

/-- The mode field with ROUND and OVF (03 R46). -/
def codeMode (c : BitVec 6) : Option Mode :=
  if c.toNat < 16 then (codeRnd (c.toNat % 8)).map fun r => ⟨r, c.toNat / 8 == 1⟩ else none

/-- HINT (03 R44). -/
def codeHint (h : BitVec 2) : Hint :=
  match h.toNat with
  | 0 => .norm
  | 1 => .stream
  | 2 => .keep
  | _ => .nordc

/-- HINT and alias class of a memory word (03 R44). -/
def codeMf (f : Fields) : Option MemF :=
  if f.f4.toNat < 16 then some ⟨codeHint f.hint, f.f4.setWidth 4⟩ else none

/-- A guard field (03 R40). -/
def codeGuard (g : BitVec 4) : GuardF := ⟨g.getLsbD 3, Fin.ofNat 8 (g.toNat % 8)⟩

/-- TOK (03 R43); none for the reserved code 0b100. -/
def codeTok (t : BitVec 3) : Option Tok :=
  if t.toNat = 0 then some .none
  else if t.toNat < 4 then some (.pop (Fin.ofNat 3 (t.toNat - 1)))
  else if t.toNat = 4 then none
  else some (.push (Fin.ofNat 3 (t.toNat - 5)))

/-- The control fields other than HINT, or none where TOK is reserved. -/
def codeCtl (f : Fields) : Option Ctl :=
  (codeTok f.tok).map fun t => ⟨f.idle, f.sync == 1, codeGuard f.ga, codeGuard f.gb, t⟩

/-- One source modifier of PFX.SM (03 R48). -/
def codeSMod (m : BitVec 12) : SMod := ⟨m.extractLsb' 10 2, m.extractLsb' 7 3, m.extractLsb' 0 7⟩

/-! ### Shapes of words, read. Each is named for the operand kinds of its encoding table. -/

/-- A 24-bit immediate across F1 to F4 (05 R97, R106). -/
def Fields.imm24 (f : Fields) : BitVec 24 := f.f1 ++ f.f2 ++ f.f3 ++ f.f4

def rdZ (i : Instr) (f : Fields) : Option Instr :=
  if f.f0 = 0 ∧ f.f1 = 0 ∧ f.f2 = 0 ∧ f.f3 = 0 ∧ f.f4 = 0 then some i else none

def rdDss (k : Dst → Src → Src → Instr) (f : Fields) : Option Instr :=
  match codeDst f.f0, codeSrc f.f1, codeSrc f.f2 with
  | some d, some a, some b => if f.f3 = 0 ∧ f.f4 = 0 then some (k d a b) else none
  | _, _, _ => none

def rdSel (f : Fields) : Option Instr :=
  match codeDst f.f0, codeGrd f.f1, codeSrc f.f2, codeSrc f.f3 with
  | some d, some g, some a, some b => if f.f4 = 0 then some (.sel d g a b) else none
  | _, _, _, _ => none

def rdMovk (f : Fields) : Option Instr := (codeDst f.f0).map fun d => .movk d f.imm24

/-- MOVKH (05 R97): bits [23:20] zero, and SQ cannot be read. -/
def rdMovkh (f : Fields) : Option Instr :=
  match codeReg f.f0 with
  | some d => if f.f1.toNat < 4 then some (.movkh d (f.imm24.setWidth 20)) else none
  | none => none

def rdXmov (f : Fields) : Option Instr :=
  match codeXDst f.f0, codeSrc f.f1 with
  | some d, some a => if f.f2 = 0 ∧ f.f3 = 0 ∧ f.f4 = 0 then some (.xmov d a) else none
  | _, _ => none

/-- RGN (05 R98): FL[5] must be 0. -/
def rdRgn (f : Fields) : Option Instr :=
  match codeDst f.f0, codeSrc f.f1, codeSrc f.f2, codeSrc f.f3 with
  | some d, some b, some s, some n =>
    if f.f4.toNat < 32 then some (.rgn d b s n (f.f4.setWidth 4) (f.f4.getLsbD 4)) else none
  | _, _, _, _ => none

def rdDs (k : Dst → Src → Instr) (f : Fields) : Option Instr :=
  match codeDst f.f0, codeSrc f.f1 with
  | some d, some a => if f.f2 = 0 ∧ f.f3 = 0 ∧ f.f4 = 0 then some (k d a) else none
  | _, _ => none

/-- EXTR (05 R99): POS + LEN above 64 is refused. -/
def rdExtr (f : Fields) : Option Instr :=
  match codeDst f.f0, codeSrc f.f1 with
  | some d, some a =>
    if f.f4 = 0 ∧ f.f2.toNat + f.f3.toNat + 1 ≤ 64 then some (.extr d a f.f2 f.f3) else none
  | _, _ => none

/-- INS (05 R99): POS + LEN above 64 is refused, and SQ cannot be read. -/
def rdIns (f : Fields) : Option Instr :=
  match codeReg f.f0, codeSrc f.f1 with
  | some d, some a =>
    if f.f4 = 0 ∧ f.f2.toNat + f.f3.toNat + 1 ≤ 64 then some (.ins d a f.f2 f.f3) else none
  | _, _ => none

def rdGgg (k : Fin 8 → Fin 8 → Fin 8 → Instr) (f : Fields) : Option Instr :=
  match codeGrd f.f0, codeGrd f.f1, codeGrd f.f2 with
  | some d, some a, some b => if f.f3 = 0 ∧ f.f4 = 0 then some (k d a b) else none
  | _, _, _ => none

def rdGg (k : Fin 8 → Fin 8 → Instr) (f : Fields) : Option Instr :=
  match codeGrd f.f0, codeGrd f.f1 with
  | some d, some a => if f.f2 = 0 ∧ f.f3 = 0 ∧ f.f4 = 0 then some (k d a) else none
  | _, _ => none

def rdGss (k : Fin 8 → Src → Src → Instr) (f : Fields) : Option Instr :=
  match codeGrd f.f0, codeSrc f.f1, codeSrc f.f2 with
  | some d, some a, some b => if f.f3 = 0 ∧ f.f4 = 0 then some (k d a b) else none
  | _, _, _ => none

def rdDisp (k : BitVec 24 → Instr) (f : Fields) : Option Instr :=
  if f.f0 = 0 then some (k f.imm24) else none

def rdS1 (k : Src → Instr) (f : Fields) : Option Instr :=
  match codeSrc f.f1 with
  | some a => if f.f0 = 0 ∧ f.f2 = 0 ∧ f.f3 = 0 ∧ f.f4 = 0 then some (k a) else none
  | none => none

def rdCall (f : Fields) : Option Instr := (codeReg f.f0).map fun d => .call d f.imm24

/-- LOOP (05 R109): END = 0 is refused. -/
def rdLoop (f : Fields) : Option Instr :=
  match codeSrc f.f1 with
  | some a =>
    if f.f0 = 0 ∧ f.f2 ++ f.f3 ++ f.f4 ≠ 0#18 then some (.loop a (f.f2 ++ f.f3 ++ f.f4)) else none
  | none => none

/-- MFSR (05 R112): a reserved register number is refused. -/
def rdMfsr (f : Fields) : Option Instr :=
  match codeDst f.f0 with
  | some d =>
    if f.f2 = 0 ∧ f.f3 = 0 ∧ f.f4 = 0 ∧ sregDefined f.f1 then some (.mfsr d f.f1) else none
  | none => none

/-- MTSR (05 R112), by register number. -/
def rdMtsr (f : Fields) : Option Instr :=
  match codeSrc f.f1 with
  | some a =>
    if f.f2 = 0 ∧ f.f3 = 0 ∧ f.f4 = 0 ∧ sregDefined f.f0 then
      if f.f0.toNat = 7 then some (.mtsrSrseed a)
      else if 16 ≤ f.f0.toNat ∧ f.f0.toNat < 28 then some (.mtsrBfmt (Fin.ofNat 12 (f.f0.toNat - 16)) a)
      else if 32 ≤ f.f0.toNat ∧ f.f0.toNat < 44 then some (.mtsrBscl (Fin.ofNat 12 (f.f0.toNat - 32)) a)
      else if 48 ≤ f.f0.toNat ∧ f.f0.toNat < 56 then some (.mtsrCntsel (Fin.ofNat 8 (f.f0.toNat - 48)) a)
      else some (.mtsr f.f0 a)
    else none
  | none => none

def rdR3m (k : Fin 32 → Fin 32 → Fin 32 → Mode → Instr) (f : Fields) : Option Instr :=
  match codeReg f.f0, codeReg f.f1, codeReg f.f2, codeMode f.f4 with
  | some d, some a, some b, some m => if f.f3 = 0 then some (k d a b m) else none
  | _, _, _, _ => none

def rdR4m (k : Fin 32 → Fin 32 → Fin 32 → Fin 32 → Mode → Instr) (f : Fields) : Option Instr :=
  match codeReg f.f0, codeReg f.f1, codeReg f.f2, codeReg f.f3, codeMode f.f4 with
  | some d, some a, some b, some c, some m => some (k d a b c m)
  | _, _, _, _, _ => none

def rdR2m (k : Fin 32 → Fin 32 → Mode → Instr) (f : Fields) : Option Instr :=
  match codeReg f.f0, codeReg f.f1, codeMode f.f4 with
  | some d, some a, some m => if f.f2 = 0 ∧ f.f3 = 0 then some (k d a m) else none
  | _, _, _ => none

def rdR3 (k : Fin 32 → Fin 32 → Fin 32 → Instr) (f : Fields) : Option Instr :=
  match codeReg f.f0, codeReg f.f1, codeReg f.f2 with
  | some d, some a, some b => if f.f3 = 0 ∧ f.f4 = 0 then some (k d a b) else none
  | _, _, _ => none

def rdR4 (k : Fin 32 → Fin 32 → Fin 32 → Fin 32 → Instr) (f : Fields) : Option Instr :=
  match codeReg f.f0, codeReg f.f1, codeReg f.f2, codeReg f.f3 with
  | some d, some a, some b, some c => if f.f4 = 0 then some (k d a b c) else none
  | _, _, _, _ => none

/-- Words whose mode field takes ROUND alone (05 R120). -/
def rdR2r (k : Fin 32 → Fin 32 → Rnd → Instr) (f : Fields) : Option Instr :=
  match codeReg f.f0, codeReg f.f1, codeRnd f.f4.toNat with
  | some d, some a, some m => if f.f2 = 0 ∧ f.f3 = 0 then some (k d a m) else none
  | _, _, _ => none

def rdR2 (k : Fin 32 → Fin 32 → Instr) (f : Fields) : Option Instr :=
  match codeReg f.f0, codeReg f.f1 with
  | some d, some a => if f.f2 = 0 ∧ f.f3 = 0 ∧ f.f4 = 0 then some (k d a) else none
  | _, _ => none

def rdR3r (k : Fin 32 → Fin 32 → Fin 32 → Rnd → Instr) (f : Fields) : Option Instr :=
  match codeReg f.f0, codeReg f.f1, codeReg f.f2, codeRnd f.f4.toNat with
  | some d, some a, some b, some m => if f.f3 = 0 then some (k d a b m) else none
  | _, _, _, _ => none

def rdRqq (k : Fin 32 → Src → Src → Instr) (f : Fields) : Option Instr :=
  match codeReg f.f0, codeQ f.f1, codeQ f.f2 with
  | some d, some a, some b => if f.f3 = 0 ∧ f.f4 = 0 then some (k d a b) else none
  | _, _, _ => none

def rdRq (k : Fin 32 → Src → Instr) (f : Fields) : Option Instr :=
  match codeReg f.f0, codeQ f.f1 with
  | some d, some a => if f.f2 = 0 ∧ f.f3 = 0 ∧ f.f4 = 0 then some (k d a) else none
  | _, _ => none

/-- VPART (05 R134): two of d0 to d3 naming one register are refused. -/
def rdR5 (k : Fin 32 → Fin 32 → Fin 32 → Fin 32 → Fin 32 → Instr) (f : Fields) : Option Instr :=
  match codeReg f.f0, codeReg f.f1, codeReg f.f2, codeReg f.f3, codeReg f.f4 with
  | some d, some a, some b, some c, some o =>
    if [d, a, b, c].Nodup then some (k d a b c o) else none
  | _, _, _, _, _ => none

def rdMln (f : Fields) : Option Instr :=
  match codeQ f.f1 with
  | some a =>
    if f.f0.toNat < 6 ∧ f.f2 = 0 ∧ f.f3 = 0 ∧ f.f4 = 0 then some (.mln (Fin.ofNat 6 f.f0.toNat) a) else none
  | none => none

/-- MOPA and MOPB (06 R149): with a register SRC, F1 and F2 must be 0. -/
def rdMop (k : Fin 3 → Src → Src → Instr) (f : Fields) : Option Instr :=
  match codeQ f.f1, codeQ f.f2 with
  | some a, some b =>
    if f.f0 = 0 ∧ f.f4 = 0 ∧ f.f3.toNat < 3 ∧ (f.f3 = 0 ∨ (f.f1 = 0 ∧ f.f2 = 0))
    then some (k (Fin.ofNat 3 f.f3.toNat) a b) else none
  | _, _ => none

def rdMacc (f : Fields) : Option Instr :=
  match codeBit f.f2 with
  | some i =>
    if f.f0 = 0 ∧ f.f1.toNat < 4 ∧ f.f3 = 0 ∧ f.f4 = 0 then some (.macc (Fin.ofNat 4 f.f1.toNat) i) else none
  | none => none

def rdMld (k : Bool → Src → Src → Instr) (f : Fields) : Option Instr :=
  match codeBit f.f0, codeQ f.f1, codeQ f.f2 with
  | some r, some a, some b => if f.f3 = 0 ∧ f.f4 = 0 then some (k r a b) else none
  | _, _, _ => none

def rdQ1 (k : Src → Instr) (f : Fields) : Option Instr :=
  match codeQ f.f1 with
  | some a => if f.f0 = 0 ∧ f.f2 = 0 ∧ f.f3 = 0 ∧ f.f4 = 0 then some (k a) else none
  | none => none

def rdMdrain (f : Fields) : Option Instr :=
  match codeQ f.f1, codeQ f.f2, codeMode f.f4 with
  | some a, some b, some m =>
    if f.f0 = 0 ∧ f.f3.toNat < 8
    then some (.mdrain a b (Fin.ofNat 4 (f.f3.toNat % 4)) (f.f3.getLsbD 2) m) else none
  | _, _, _ => none

/-- MBYA (06 R149, R155): FMT must be a format it can write. -/
def rdMbya (f : Fields) : Option Instr :=
  match codeBit f.f0, codeMode f.f4 with
  | some r, some m =>
    if f.f1.toNat < 8 ∧ f.f3 = 0 ∧ mbyaFmt f.f2
    then some (.mbya r (Fin.ofNat 4 (f.f1.toNat % 4)) (f.f1.getLsbD 2) f.f2 m) else none
  | _, _ => none

def rdQ5 (k : Src → Src → Src → Src → Src → Instr) (f : Fields) : Option Instr :=
  match codeQ f.f0, codeQ f.f1, codeQ f.f2, codeQ f.f3, codeQ f.f4 with
  | some d, some e, some a, some b, some p => some (k d e a b p)
  | _, _, _, _, _ => none

def rdVq (k : Fin 32 → Src → Instr) (f : Fields) : Option Instr :=
  match codeReg f.f0, codeQ f.f1 with
  | some d, some a => if f.f2 = 0 ∧ f.f3 = 0 ∧ f.f4 = 0 then some (k d a) else none
  | _, _ => none

def rdQ0q1 (k : Src → Src → Instr) (f : Fields) : Option Instr :=
  match codeQ f.f0, codeQ f.f1 with
  | some d, some a => if f.f2 = 0 ∧ f.f3 = 0 ∧ f.f4 = 0 then some (k d a) else none
  | _, _ => none

def rdQ0 (k : Src → Instr) (f : Fields) : Option Instr :=
  match codeQ f.f0 with
  | some d => if f.f1 = 0 ∧ f.f2 = 0 ∧ f.f3 = 0 ∧ f.f4 = 0 then some (k d) else none
  | none => none

def rdLdst (k : LdSt → Instr) (f : Fields) : Option Instr :=
  match codeQ f.f1, codeQ f.f2, codeMf f with
  | some a, some b, some mf =>
    if f.f0 = 0 ∧ f.f3.toNat < 4 then some (k ⟨a, b, Fin.ofNat 4 f.f3.toNat, mf⟩) else none
  | _, _, _ => none

def rdCpy (k : Src → Src → Src → Src → MemF → Instr) (f : Fields) : Option Instr :=
  match codeQ f.f0, codeQ f.f1, codeQ f.f2, codeQ f.f3, codeMf f with
  | some d, some a, some b, some c, some mf => some (k d a b c mf)
  | _, _, _, _, _ => none

def rdVqc (k : Fin 32 → Src → Bool → Instr) (f : Fields) : Option Instr :=
  match codeReg f.f0, codeQ f.f1, codeBit f.f2 with
  | some d, some a, some c => if f.f3 = 0 ∧ f.f4 = 0 then some (k d a c) else none
  | _, _, _ => none

def rdAtom (k : Atom → Instr) (f : Fields) : Option Instr :=
  match codeQ f.f1, codeQ f.f2, codeBit f.f3, codeMf f with
  | some a, some b, some z, some mf => if f.f0 = 0 then some (k ⟨a, b, z, mf⟩) else none
  | _, _, _, _ => none

/-- AADD.F32 and AADD.BF16 (11 R226): SZ must be 0. -/
def rdAtomf (k : Atom → Instr) (f : Fields) : Option Instr :=
  if f.f3 = 0 then rdAtom k f else none

def rdQ3m (k : Src → Src → Src → MemF → Instr) (f : Fields) : Option Instr :=
  match codeQ f.f0, codeQ f.f1, codeQ f.f2, codeMf f with
  | some d, some a, some b, some mf => if f.f3 = 0 then some (k d a b mf) else none
  | _, _, _, _ => none

def rdVqq (k : Fin 32 → Src → Src → Instr) (f : Fields) : Option Instr :=
  match codeReg f.f0, codeQ f.f1, codeQ f.f2 with
  | some d, some a, some b => if f.f3 = 0 ∧ f.f4 = 0 then some (k d a b) else none
  | _, _, _ => none

def rdQq (k : Src → Src → Instr) (f : Fields) : Option Instr :=
  match codeQ f.f1, codeQ f.f2 with
  | some a, some b => if f.f0 = 0 ∧ f.f3 = 0 ∧ f.f4 = 0 then some (k a b) else none
  | _, _ => none

def rdVqqb (k : Fin 32 → Src → Src → Bool → Instr) (f : Fields) : Option Instr :=
  match codeReg f.f0, codeQ f.f1, codeQ f.f2, codeBit f.f3 with
  | some d, some a, some b, some c => if f.f4 = 0 then some (k d a b c) else none
  | _, _, _, _ => none

/-- TOKCNT (13 R276): SRC and DST below 4 and different. -/
def rdTokcnt (f : Fields) : Option Instr :=
  match codeReg f.f0 with
  | some d =>
    if f.f1.toNat < 4 ∧ f.f2.toNat < 4 ∧ f.f1 ≠ f.f2 ∧ f.f3 = 0 ∧ f.f4 = 0
    then some (.tokcnt d (Fin.ofNat 4 f.f1.toNat) (Fin.ofNat 4 f.f2.toNat)) else none
  | none => none

/-- LRPATCH (13 R276): FLD at most 20. -/
def rdLrpatch (f : Fields) : Option Instr :=
  match codeReg f.f0, codeQ f.f1, codeQ f.f2 with
  | some d, some a, some b =>
    if f.f3.toNat < 21 ∧ f.f4 = 0 then some (.lrpatch d a b (Fin.ofNat 21 f.f3.toNat)) else none
  | _, _, _ => none

/-! ### The opcode map (03 R61 to R66) -/

/-- The kinds of the five fields of each assigned minor of class 0x0 (03 R61 to R66). -/
def kinds0 (m : Nat) : Option (List FieldKind) :=
  match m with
  | 0x00 => some [.dst, .src, .src, .zero, .zero]
  | 0x01 => some [.dst, .src, .src, .zero, .zero]
  | 0x02 => some [.dst, .src, .src, .zero, .zero]
  | 0x03 => some [.dst, .src, .src, .zero, .zero]
  | 0x04 => some [.dst, .src, .src, .zero, .zero]
  | 0x05 => some [.dst, .src, .src, .zero, .zero]
  | 0x06 => some [.dst, .src, .src, .zero, .zero]
  | 0x07 => some [.dst, .src, .src, .zero, .zero]
  | 0x08 => some [.dst, .src, .src, .zero, .zero]
  | 0x09 => some [.dst, .src, .src, .zero, .zero]
  | 0x0A => some [.dst, .src, .src, .zero, .zero]
  | 0x0B => some [.dst, .src, .src, .zero, .zero]
  | 0x0C => some [.dst, .src, .src, .zero, .zero]
  | 0x0D => some [.dst, .grd, .src, .src, .zero]
  | 0x0E => some [.dst, .imm, .imm, .imm, .imm]
  | 0x0F => some [.dst, .imm, .imm, .imm, .imm]
  | 0x10 => some [.dst, .src, .zero, .zero, .zero]
  | 0x11 => some [.dst, .src, .src, .src, .imm]
  | _ => none

/-- The kinds of the five fields of each assigned minor of class 0x1 (03 R61 to R66). -/
def kinds1 (m : Nat) : Option (List FieldKind) :=
  match m with
  | 0x00 => some [.dst, .src, .src, .zero, .zero]
  | 0x01 => some [.dst, .src, .src, .zero, .zero]
  | 0x02 => some [.dst, .src, .src, .zero, .zero]
  | 0x03 => some [.dst, .src, .src, .zero, .zero]
  | 0x04 => some [.dst, .src, .src, .zero, .zero]
  | 0x05 => some [.dst, .src, .src, .zero, .zero]
  | 0x06 => some [.dst, .src, .src, .zero, .zero]
  | 0x07 => some [.dst, .src, .src, .zero, .zero]
  | 0x08 => some [.dst, .src, .zero, .zero, .zero]
  | 0x09 => some [.dst, .src, .zero, .zero, .zero]
  | 0x0A => some [.dst, .src, .zero, .zero, .zero]
  | 0x0B => some [.dst, .src, .imm, .imm, .zero]
  | 0x0C => some [.dst, .src, .imm, .imm, .zero]
  | 0x0D => some [.dst, .src, .src, .zero, .zero]
  | 0x0E => some [.dst, .src, .src, .zero, .zero]
  | 0x0F => some [.grd, .grd, .grd, .zero, .zero]
  | 0x10 => some [.grd, .grd, .grd, .zero, .zero]
  | 0x11 => some [.grd, .grd, .zero, .zero, .zero]
  | 0x18 => some [.grd, .src, .src, .zero, .zero]
  | 0x19 => some [.grd, .src, .src, .zero, .zero]
  | 0x1A => some [.grd, .src, .src, .zero, .zero]
  | 0x1B => some [.grd, .src, .src, .zero, .zero]
  | 0x1C => some [.grd, .src, .src, .zero, .zero]
  | 0x1D => some [.grd, .src, .src, .zero, .zero]
  | _ => none

/-- The kinds of the five fields of each assigned minor of class 0x2 (03 R61 to R66). -/
def kinds2 (m : Nat) : Option (List FieldKind) :=
  match m with
  | 0x00 => some [.zero, .zero, .zero, .zero, .zero]
  | 0x01 => some [.zero, .imm, .imm, .imm, .imm]
  | 0x02 => some [.zero, .src, .zero, .zero, .zero]
  | 0x03 => some [.dst, .imm, .imm, .imm, .imm]
  | 0x04 => some [.zero, .src, .zero, .zero, .zero]
  | 0x05 => some [.zero, .src, .imm, .imm, .imm]
  | 0x07 => some [.zero, .zero, .zero, .zero, .zero]
  | _ => none

/-- The kinds of the five fields of each assigned minor of class 0x3 (03 R61 to R66). -/
def kinds3 (m : Nat) : Option (List FieldKind) :=
  match m with
  | 0x00 => some [.zero, .src, .zero, .zero, .zero]
  | 0x01 => some [.zero, .zero, .zero, .zero, .zero]
  | 0x02 => some [.dst, .imm, .zero, .zero, .zero]
  | 0x03 => some [.imm, .src, .zero, .zero, .zero]
  | 0x04 => some [.zero, .zero, .zero, .zero, .zero]
  | 0x05 => some [.zero, .zero, .zero, .zero, .zero]
  | _ => none

/-- The kinds of the five fields of each assigned minor of class 0x4 (03 R61 to R66). -/
def kinds4 (m : Nat) : Option (List FieldKind) :=
  match m with
  | 0x00 => some [.reg, .reg, .reg, .zero, .imm]
  | 0x01 => some [.reg, .reg, .reg, .zero, .imm]
  | 0x02 => some [.reg, .reg, .reg, .zero, .imm]
  | 0x03 => some [.reg, .reg, .reg, .reg, .imm]
  | 0x04 => some [.reg, .reg, .reg, .reg, .imm]
  | 0x05 => some [.reg, .reg, .reg, .reg, .imm]
  | 0x06 => some [.reg, .reg, .reg, .zero, .imm]
  | 0x07 => some [.reg, .reg, .reg, .zero, .imm]
  | 0x08 => some [.reg, .reg, .zero, .zero, .imm]
  | 0x09 => some [.reg, .reg, .zero, .zero, .imm]
  | _ => none

/-- The kinds of the five fields of each assigned minor of class 0x5 (03 R61 to R66). -/
def kinds5 (m : Nat) : Option (List FieldKind) :=
  match m with
  | 0x00 => some [.reg, .reg, .reg, .zero, .zero]
  | 0x01 => some [.reg, .reg, .reg, .zero, .zero]
  | 0x02 => some [.reg, .reg, .reg, .zero, .zero]
  | 0x03 => some [.reg, .reg, .reg, .zero, .zero]
  | 0x04 => some [.reg, .reg, .reg, .zero, .zero]
  | 0x05 => some [.reg, .reg, .reg, .zero, .zero]
  | 0x08 => some [.reg, .reg, .reg, .zero, .zero]
  | 0x09 => some [.reg, .reg, .reg, .zero, .zero]
  | 0x0A => some [.reg, .reg, .reg, .zero, .zero]
  | 0x0B => some [.reg, .reg, .reg, .zero, .zero]
  | 0x0C => some [.reg, .reg, .reg, .zero, .zero]
  | 0x0D => some [.reg, .reg, .reg, .zero, .zero]
  | 0x10 => some [.reg, .reg, .reg, .reg, .zero]
  | 0x11 => some [.reg, .reg, .zero, .zero, .imm]
  | 0x12 => some [.reg, .reg, .zero, .zero, .imm]
  | 0x13 => some [.reg, .reg, .regN, .zero, .imm]
  | _ => none

/-- The kinds of the five fields of each assigned minor of class 0x6 (03 R61 to R66). -/
def kinds6 (m : Nat) : Option (List FieldKind) :=
  match m with
  | 0x00 => some [.reg, .reg, .zero, .zero, .zero]
  | 0x01 => some [.reg, .reg, .zero, .zero, .zero]
  | 0x02 => some [.reg, .reg, .reg, .zero, .imm]
  | 0x03 => some [.reg, .reg, .reg, .zero, .imm]
  | 0x04 => some [.reg, .reg, .zero, .zero, .zero]
  | 0x05 => some [.reg, .reg, .zero, .zero, .zero]
  | 0x08 => some [.reg, .reg, .zero, .zero, .imm]
  | 0x09 => some [.reg, .reg, .reg, .zero, .imm]
  | 0x0A => some [.reg, .reg, .zero, .zero, .zero]
  | 0x0B => some [.reg, .reg, .zero, .zero, .zero]
  | _ => none

/-- The kinds of the five fields of each assigned minor of class 0x7 (03 R61 to R66). -/
def kinds7 (m : Nat) : Option (List FieldKind) :=
  match m with
  | 0x00 => some [.reg, .src, .src, .zero, .zero]
  | 0x01 => some [.reg, .src, .zero, .zero, .zero]
  | 0x02 => some [.reg, .reg, .zero, .zero, .zero]
  | 0x03 => some [.regN, .regN, .regN, .regN, .reg]
  | 0x04 => some [.reg, .regN, .reg, .zero, .zero]
  | 0x05 => some [.reg, .reg, .reg, .zero, .zero]
  | _ => none

/-- The kinds of the five fields of each assigned minor of class 0x8 (03 R61 to R66). -/
def kinds8 (m : Nat) : Option (List FieldKind) :=
  match m with
  | 0x00 => some [.imm, .src, .zero, .zero, .zero]
  | 0x01 => some [.zero, .src, .src, .imm, .zero]
  | 0x02 => some [.zero, .src, .src, .imm, .zero]
  | 0x03 => some [.zero, .imm, .imm, .zero, .zero]
  | 0x04 => some [.imm, .src, .src, .zero, .zero]
  | 0x05 => some [.imm, .src, .src, .zero, .zero]
  | 0x06 => some [.zero, .src, .zero, .zero, .zero]
  | 0x07 => some [.zero, .zero, .zero, .zero, .zero]
  | _ => none

/-- The kinds of the five fields of each assigned minor of class 0x9 (03 R61 to R66). -/
def kinds9 (m : Nat) : Option (List FieldKind) :=
  match m with
  | 0x00 => some [.zero, .src, .src, .imm, .imm]
  | 0x01 => some [.imm, .imm, .imm, .zero, .imm]
  | 0x02 => some [.src, .src, .src, .src, .src]
  | 0x03 => some [.zero, .src, .zero, .zero, .zero]
  | 0x04 => some [.zero, .src, .zero, .zero, .zero]
  | 0x05 => some [.dst, .src, .zero, .zero, .zero]
  | _ => none

/-- The kinds of the five fields of each assigned minor of class 0xA (03 R61 to R66). -/
def kindsA (m : Nat) : Option (List FieldKind) :=
  match m with
  | 0x00 => some [.zero, .src, .zero, .zero, .zero]
  | 0x01 => some [.zero, .src, .zero, .zero, .zero]
  | 0x02 => some [.zero, .src, .zero, .zero, .zero]
  | 0x03 => some [.src, .src, .zero, .zero, .zero]
  | 0x04 => some [.src, .zero, .zero, .zero, .zero]
  | 0x05 => some [.dst, .src, .zero, .zero, .zero]
  | _ => none

/-- The kinds of the five fields of each assigned minor of class 0xB (03 R61 to R66). -/
def kindsB (m : Nat) : Option (List FieldKind) :=
  match m with
  | 0x00 => some [.zero, .src, .src, .imm, .imm]
  | 0x01 => some [.zero, .src, .src, .imm, .imm]
  | 0x02 => some [.zero, .src, .src, .imm, .imm]
  | 0x03 => some [.zero, .src, .src, .imm, .imm]
  | 0x04 => some [.zero, .src, .src, .imm, .imm]
  | 0x05 => some [.zero, .src, .src, .imm, .imm]
  | 0x06 => some [.zero, .src, .src, .imm, .imm]
  | 0x08 => some [.zero, .src, .src, .imm, .imm]
  | 0x09 => some [.zero, .src, .src, .imm, .imm]
  | 0x0A => some [.zero, .src, .src, .imm, .imm]
  | 0x0B => some [.zero, .src, .src, .imm, .imm]
  | 0x0C => some [.zero, .src, .src, .imm, .imm]
  | 0x0D => some [.zero, .zero, .zero, .zero, .zero]
  | 0x10 => some [.src, .src, .src, .src, .imm]
  | 0x11 => some [.src, .src, .src, .src, .imm]
  | 0x12 => some [.zero, .src, .zero, .zero, .zero]
  | 0x13 => some [.dst, .src, .imm, .zero, .zero]
  | 0x18 => some [.zero, .zero, .zero, .zero, .zero]
  | 0x19 => some [.zero, .zero, .zero, .zero, .zero]
  | 0x1A => some [.zero, .zero, .zero, .zero, .zero]
  | 0x1B => some [.zero, .zero, .zero, .zero, .zero]
  | 0x1C => some [.zero, .zero, .zero, .zero, .zero]
  | 0x20 => some [.zero, .zero, .zero, .zero, .zero]
  | 0x21 => some [.zero, .zero, .zero, .zero, .zero]
  | 0x22 => some [.zero, .zero, .zero, .zero, .zero]
  | 0x23 => some [.zero, .zero, .zero, .zero, .zero]
  | 0x24 => some [.zero, .zero, .zero, .zero, .zero]
  | 0x28 => some [.zero, .zero, .zero, .zero, .zero]
  | 0x29 => some [.zero, .zero, .zero, .zero, .zero]
  | 0x2A => some [.zero, .zero, .zero, .zero, .zero]
  | 0x2B => some [.zero, .zero, .zero, .zero, .zero]
  | 0x2C => some [.zero, .zero, .zero, .zero, .zero]
  | _ => none

/-- The kinds of the five fields of each assigned minor of class 0xC (03 R61 to R66). -/
def kindsC (m : Nat) : Option (List FieldKind) :=
  match m with
  | 0x00 => some [.zero, .src, .src, .imm, .imm]
  | 0x01 => some [.zero, .src, .src, .imm, .imm]
  | 0x02 => some [.zero, .src, .src, .imm, .imm]
  | 0x03 => some [.zero, .src, .src, .imm, .imm]
  | 0x04 => some [.zero, .src, .src, .imm, .imm]
  | 0x05 => some [.zero, .src, .src, .imm, .imm]
  | 0x06 => some [.zero, .src, .src, .imm, .imm]
  | 0x07 => some [.zero, .src, .src, .imm, .imm]
  | 0x08 => some [.zero, .src, .src, .imm, .imm]
  | 0x09 => some [.zero, .src, .src, .imm, .imm]
  | 0x0A => some [.zero, .src, .src, .imm, .imm]
  | 0x0B => some [.zero, .src, .src, .imm, .imm]
  | 0x10 => some [.zero, .src, .src, .imm, .imm]
  | 0x11 => some [.zero, .src, .src, .imm, .imm]
  | 0x12 => some [.zero, .src, .src, .imm, .imm]
  | 0x13 => some [.zero, .src, .src, .imm, .imm]
  | 0x14 => some [.zero, .src, .src, .imm, .imm]
  | 0x15 => some [.zero, .src, .src, .imm, .imm]
  | 0x16 => some [.zero, .src, .src, .imm, .imm]
  | 0x17 => some [.zero, .src, .src, .imm, .imm]
  | 0x18 => some [.zero, .src, .src, .imm, .imm]
  | 0x19 => some [.zero, .src, .src, .imm, .imm]
  | 0x1A => some [.zero, .src, .src, .imm, .imm]
  | 0x1B => some [.zero, .src, .src, .imm, .imm]
  | _ => none

/-- The kinds of the five fields of each assigned minor of class 0xD (03 R61 to R66). -/
def kindsD (m : Nat) : Option (List FieldKind) :=
  match m with
  | 0x00 => some [.src, .src, .src, .zero, .imm]
  | 0x01 => some [.src, .src, .src, .zero, .imm]
  | 0x02 => some [.dst, .src, .src, .zero, .zero]
  | 0x03 => some [.zero, .src, .src, .zero, .zero]
  | 0x04 => some [.dst, .src, .src, .imm, .zero]
  | 0x05 => some [.dst, .src, .src, .zero, .zero]
  | 0x06 => some [.dst, .src, .src, .imm, .zero]
  | 0x08 => some [.zero, .src, .src, .zero, .zero]
  | 0x09 => some [.zero, .src, .zero, .zero, .zero]
  | 0x0A => some [.dst, .src, .src, .zero, .zero]
  | 0x0B => some [.zero, .src, .zero, .zero, .zero]
  | 0x0C => some [.dst, .src, .imm, .zero, .zero]
  | _ => none

/-- The kinds of the five fields of each assigned minor of class 0xE (03 R61 to R66). -/
def kindsE (m : Nat) : Option (List FieldKind) :=
  match m with
  | 0x00 => some [.dst, .src, .zero, .zero, .zero]
  | 0x01 => some [.zero, .src, .src, .zero, .zero]
  | 0x02 => some [.dst, .src, .zero, .zero, .zero]
  | 0x03 => some [.zero, .src, .src, .zero, .zero]
  | 0x04 => some [.zero, .src, .zero, .zero, .zero]
  | 0x05 => some [.dst, .src, .zero, .zero, .zero]
  | 0x06 => some [.zero, .src, .zero, .zero, .zero]
  | 0x07 => some [.zero, .src, .zero, .zero, .zero]
  | 0x08 => some [.zero, .src, .src, .zero, .zero]
  | 0x09 => some [.dst, .src, .zero, .zero, .zero]
  | 0x0A => some [.dst, .imm, .imm, .zero, .zero]
  | 0x0B => some [.zero, .src, .zero, .zero, .zero]
  | 0x0C => some [.zero, .zero, .zero, .zero, .zero]
  | 0x0D => some [.zero, .src, .src, .zero, .zero]
  | 0x10 => some [.dst, .src, .src, .imm, .zero]
  | 0x11 => some [.dst, .src, .zero, .zero, .zero]
  | _ => none

/-- The kinds of the fields of an opcode; none where the opcode map assigns nothing (03 R61).
The two prefixes are not among them: they are no operand words (03 R47, R48). -/
def fieldKinds (op : BitVec 10) : Option (List FieldKind) :=
  match op.toNat / 64 with
  | 0x0 => kinds0 (op.toNat % 64)
  | 0x1 => kinds1 (op.toNat % 64)
  | 0x2 => kinds2 (op.toNat % 64)
  | 0x3 => kinds3 (op.toNat % 64)
  | 0x4 => kinds4 (op.toNat % 64)
  | 0x5 => kinds5 (op.toNat % 64)
  | 0x6 => kinds6 (op.toNat % 64)
  | 0x7 => kinds7 (op.toNat % 64)
  | 0x8 => kinds8 (op.toNat % 64)
  | 0x9 => kinds9 (op.toNat % 64)
  | 0xA => kindsA (op.toNat % 64)
  | 0xB => kindsB (op.toNat % 64)
  | 0xC => kindsC (op.toNat % 64)
  | 0xD => kindsD (op.toNat % 64)
  | 0xE => kindsE (op.toNat % 64)
  | _ => none

/-- The words of class 0x0. -/
def body0 (m : Nat) (f : Fields) : Option Instr :=
  match m with
  | 0x00 => rdDss .add f
  | 0x01 => rdDss .sub f
  | 0x02 => rdDss .mul f
  | 0x03 => rdDss .mulh f
  | 0x04 => rdDss .mulhs f
  | 0x05 => rdDss .div f
  | 0x06 => rdDss .divs f
  | 0x07 => rdDss .rem f
  | 0x08 => rdDss .rems f
  | 0x09 => rdDss .min f
  | 0x0A => rdDss .mins f
  | 0x0B => rdDss .max f
  | 0x0C => rdDss .maxs f
  | 0x0D => rdSel f
  | 0x0E => rdMovk f
  | 0x0F => rdMovkh f
  | 0x10 => rdXmov f
  | 0x11 => rdRgn f
  | _ => none

/-- The words of class 0x1. -/
def body1 (m : Nat) (f : Fields) : Option Instr :=
  match m with
  | 0x00 => rdDss .and f
  | 0x01 => rdDss .or f
  | 0x02 => rdDss .xor f
  | 0x03 => rdDss .andn f
  | 0x04 => rdDss .shl f
  | 0x05 => rdDss .shr f
  | 0x06 => rdDss .sra f
  | 0x07 => rdDss .rot f
  | 0x08 => rdDs .clz f
  | 0x09 => rdDs .ctz f
  | 0x0A => rdDs .popc f
  | 0x0B => rdExtr f
  | 0x0C => rdIns f
  | 0x0D => rdDss .clmul f
  | 0x0E => rdDss .clmulh f
  | 0x0F => rdGgg .gand f
  | 0x10 => rdGgg .gor f
  | 0x11 => rdGg .gnot f
  | 0x18 => rdGss .cmpEq f
  | 0x19 => rdGss .cmpNe f
  | 0x1A => rdGss .cmpLt f
  | 0x1B => rdGss .cmpLts f
  | 0x1C => rdGss .cmpLe f
  | 0x1D => rdGss .cmpLes f
  | _ => none

/-- The words of class 0x2. -/
def body2 (m : Nat) (f : Fields) : Option Instr :=
  match m with
  | 0x00 => rdZ .nop f
  | 0x01 => rdDisp .br f
  | 0x02 => rdS1 .bri f
  | 0x03 => rdCall f
  | 0x04 => rdS1 .ret f
  | 0x05 => rdLoop f
  | 0x07 => rdZ .taskend f
  | _ => none

/-- The words of class 0x3. -/
def body3 (m : Nat) (f : Fields) : Option Instr :=
  match m with
  | 0x00 => rdS1 .trap f
  | 0x01 => rdZ .eret f
  | 0x02 => rdMfsr f
  | 0x03 => rdMtsr f
  | 0x04 => rdZ .halt f
  | 0x05 => rdZ .iclr f
  | _ => none

/-- The words of class 0x4. -/
def body4 (m : Nat) (f : Fields) : Option Instr :=
  match m with
  | 0x00 => rdR3m .vadd f
  | 0x01 => rdR3m .vsub f
  | 0x02 => rdR3m .vmul f
  | 0x03 => rdR4m .vfma f
  | 0x04 => rdR4m .vfms f
  | 0x05 => rdR4m .vfnma f
  | 0x06 => rdR3m .vmin f
  | 0x07 => rdR3m .vmax f
  | 0x08 => rdR2m .vabs f
  | 0x09 => rdR2m .vneg f
  | _ => none

/-- The words of class 0x5. -/
def body5 (m : Nat) (f : Fields) : Option Instr :=
  match m with
  | 0x00 => rdR3 .vand f
  | 0x01 => rdR3 .vor f
  | 0x02 => rdR3 .vxor f
  | 0x03 => rdR3 .vshl f
  | 0x04 => rdR3 .vshr f
  | 0x05 => rdR3 .vsra f
  | 0x08 => rdR3 .vcmpEq f
  | 0x09 => rdR3 .vcmpNe f
  | 0x0A => rdR3 .vcmpLt f
  | 0x0B => rdR3 .vcmpLts f
  | 0x0C => rdR3 .vcmpLe f
  | 0x0D => rdR3 .vcmpLes f
  | 0x10 => rdR4 .vsel f
  | 0x11 => rdR2m .vcvt f
  | 0x12 => rdR2r .vqnt f
  | 0x13 => rdR3m .vdqnt f
  | _ => none

/-- The words of class 0x6. -/
def body6 (m : Nat) (f : Fields) : Option Instr :=
  match m with
  | 0x00 => rdR2 .vrcpe f
  | 0x01 => rdR2 .vrsqe f
  | 0x02 => rdR3r .vrcps f
  | 0x03 => rdR3r .vrsqs f
  | 0x04 => rdR2 .vexp2e f
  | 0x05 => rdR2 .vlog2e f
  | 0x08 => rdR2m .vsum f
  | 0x09 => rdR3m .vdot f
  | 0x0A => rdR2 .vmaxr f
  | 0x0B => rdR2 .vminr f
  | _ => none

/-- The words of class 0x7. -/
def body7 (m : Nat) (f : Fields) : Option Instr :=
  match m with
  | 0x00 => rdRqq .viota f
  | 0x01 => rdRq .vfill f
  | 0x02 => rdR2 .vcopy f
  | 0x03 => rdR5 .vpart f
  | 0x04 => rdR3 .vgath f
  | 0x05 => rdR3 .vscat f
  | _ => none

/-- The words of class 0x8. -/
def body8 (m : Nat) (f : Fields) : Option Instr :=
  match m with
  | 0x00 => rdMln f
  | 0x01 => rdMop .mopa f
  | 0x02 => rdMop .mopb f
  | 0x03 => rdMacc f
  | 0x04 => rdMld .mlda f
  | 0x05 => rdMld .mldb f
  | 0x06 => rdQ1 .mgo f
  | 0x07 => rdZ .mwait f
  | _ => none

/-- The words of class 0x9. -/
def body9 (m : Nat) (f : Fields) : Option Instr :=
  match m with
  | 0x00 => rdMdrain f
  | 0x01 => rdMbya f
  | 0x02 => rdQ5 .mxp f
  | 0x03 => rdQ1 .msave f
  | 0x04 => rdQ1 .mrest f
  | 0x05 => rdVq .mstat f
  | _ => none

/-- The words of class 0xA. -/
def bodyA (m : Nat) (f : Fields) : Option Instr :=
  match m with
  | 0x00 => rdQ1 .cset f
  | 0x01 => rdQ1 .cldc f
  | 0x02 => rdQ1 .crun f
  | 0x03 => rdQ0q1 .cleaf f
  | 0x04 => rdQ0 .cidx f
  | 0x05 => rdVq .cstatContour f
  | _ => none

/-- The words of class 0xB. -/
def bodyB (m : Nat) (f : Fields) : Option Instr :=
  match m with
  | 0x00 => rdLdst .ldB f
  | 0x01 => rdLdst .ldH f
  | 0x02 => rdLdst .ldW f
  | 0x03 => rdLdst .ldD f
  | 0x04 => rdLdst .ldsB f
  | 0x05 => rdLdst .ldsH f
  | 0x06 => rdLdst .ldsW f
  | 0x08 => rdLdst .stB f
  | 0x09 => rdLdst .stH f
  | 0x0A => rdLdst .stW f
  | 0x0B => rdLdst .stD f
  | 0x0C => rdLdst .pf f
  | 0x0D => rdZ .qmark f
  | 0x10 => rdCpy .cpygs f
  | 0x11 => rdCpy .cpysg f
  | 0x12 => rdQ1 .chainTail f
  | 0x13 => rdVqc .chainWait f
  | 0x18 => rdZ .fenceSlot f
  | 0x19 => rdZ .fenceTile f
  | 0x1A => rdZ .fenceDie f
  | 0x1B => rdZ .fencePkg f
  | 0x1C => rdZ .fenceSys f
  | 0x20 => rdZ .acqSlot f
  | 0x21 => rdZ .acqTile f
  | 0x22 => rdZ .acqDie f
  | 0x23 => rdZ .acqPkg f
  | 0x24 => rdZ .acqSys f
  | 0x28 => rdZ .relSlot f
  | 0x29 => rdZ .relTile f
  | 0x2A => rdZ .relDie f
  | 0x2B => rdZ .relPkg f
  | 0x2C => rdZ .relSys f
  | _ => none

/-- The words of class 0xC. -/
def bodyC (m : Nat) (f : Fields) : Option Instr :=
  match m with
  | 0x00 => rdAtom .aadd f
  | 0x01 => rdAtom .amin f
  | 0x02 => rdAtom .amins f
  | 0x03 => rdAtom .amax f
  | 0x04 => rdAtom .amaxs f
  | 0x05 => rdAtom .aand f
  | 0x06 => rdAtom .aor f
  | 0x07 => rdAtom .axor f
  | 0x08 => rdAtom .aswp f
  | 0x09 => rdAtom .acas f
  | 0x0A => rdAtomf .aaddF32 f
  | 0x0B => rdAtomf .aaddBf16 f
  | 0x10 => rdAtom .aaddNr f
  | 0x11 => rdAtom .aminNr f
  | 0x12 => rdAtom .aminsNr f
  | 0x13 => rdAtom .amaxNr f
  | 0x14 => rdAtom .amaxsNr f
  | 0x15 => rdAtom .aandNr f
  | 0x16 => rdAtom .aorNr f
  | 0x17 => rdAtom .axorNr f
  | 0x18 => rdAtom .aswpNr f
  | 0x19 => rdAtom .acasNr f
  | 0x1A => rdAtomf .aaddF32Nr f
  | 0x1B => rdAtomf .aaddBf16Nr f
  | _ => none

/-- The words of class 0xD. -/
def bodyD (m : Nat) (f : Fields) : Option Instr :=
  match m with
  | 0x00 => rdQ3m .put f
  | 0x01 => rdQ3m .get f
  | 0x02 => rdVqq .arradd f
  | 0x03 => rdQq .arrset f
  | 0x04 => rdVqqb .arrw f
  | 0x05 => rdVqq .bcbPost f
  | 0x06 => rdVqqb .bcbWait f
  | 0x08 => rdQq .ctbl f
  | 0x09 => rdQ1 .cready f
  | 0x0A => rdVqq .cevw f
  | 0x0B => rdQ1 .cabort f
  | 0x0C => rdVqc .cstatColl f
  | _ => none

/-- The words of class 0xE. -/
def bodyE (m : Nat) (f : Fields) : Option Instr :=
  match m with
  | 0x00 => rdVq .bara f
  | 0x01 => rdQq .barw f
  | 0x02 => rdVq .bars f
  | 0x03 => rdQq .barcfg f
  | 0x04 => rdQ1 .mlock f
  | 0x05 => rdVq .mtry f
  | 0x06 => rdQ1 .munlk f
  | 0x07 => rdQ1 .semp f
  | 0x08 => rdQq .semv f
  | 0x09 => rdVq .semtry f
  | 0x0A => rdTokcnt f
  | 0x0B => rdQ1 .yield f
  | 0x0C => rdZ .qpt f
  | 0x0D => rdQq .dsend f
  | 0x10 => rdLrpatch f
  | 0x11 => rdVq .lrarm f
  | _ => none

/-- The instruction of a word whose opcode is assigned and legal, or none where a field holds a value
that step 3 of 03 R51 refuses. -/
def decodeBody (f : Fields) : Option Instr :=
  match f.op.toNat / 64 with
  | 0x0 => body0 (f.op.toNat % 64) f
  | 0x1 => body1 (f.op.toNat % 64) f
  | 0x2 => body2 (f.op.toNat % 64) f
  | 0x3 => body3 (f.op.toNat % 64) f
  | 0x4 => body4 (f.op.toNat % 64) f
  | 0x5 => body5 (f.op.toNat % 64) f
  | 0x6 => body6 (f.op.toNat % 64) f
  | 0x7 => body7 (f.op.toNat % 64) f
  | 0x8 => body8 (f.op.toNat % 64) f
  | 0x9 => body9 (f.op.toNat % 64) f
  | 0xA => bodyA (f.op.toNat % 64) f
  | 0xB => bodyB (f.op.toNat % 64) f
  | 0xC => bodyC (f.op.toNat % 64) f
  | 0xD => bodyD (f.op.toNat % 64) f
  | 0xE => bodyE (f.op.toNat % 64) f
  | _ => none
/-- The memory words (03 R44): loads, stores, PF, CPYGS, CPYSG, the far atomics, PUT and GET. -/
def memWord (op : BitVec 10) : Bool :=
  let n := op.toNat
  (0x2C0 ≤ n && n ≤ 0x2C6) || (0x2C8 ≤ n && n ≤ 0x2CC) || n == 0x2D0 || n == 0x2D1 ||
  (0x300 ≤ n && n ≤ 0x31B) || n == 0x340 || n == 0x341

/-- The slots in which an assigned opcode is legal (03 R62 to R66). -/
def opSlot (op : BitVec 10) (s : Slot) : Bool :=
  match op.toNat / 64 with
  | 0x3 => if op.toNat = 0x0C1 ∨ op.toNat = 0x0C5 then s == .c else true
  | 0x4 | 0x5 | 0x6 | 0x7 => s == .v
  | 0x8 | 0x9 | 0xA => s == .m
  | 0xB | 0xC | 0xD => s == .a
  | _ => true

/-- The operand codes that a word holds, with the kinds of their fields. -/
def Fields.operands (f : Fields) (ks : List FieldKind) : List (FieldKind × BitVec 6) :=
  (ks.zip [f.f0, f.f1, f.f2, f.f3, f.f4]).filter fun p => p.1.isOperand

/-- Whether an operand field holds a given code (03 R45). -/
def Fields.holds (f : Fields) (code : BitVec 6) : Bool :=
  match fieldKinds f.op with
  | some ks => (f.operands ks).any fun p => p.2 == code
  | none => false

/-- Whether an operand field names LQ or SQ (03 R51 step 2). -/
def Fields.usesQueue (f : Fields) : Bool := f.holds 48 || f.holds 49

/-- Whether the fields F1 to F3 that carry a modifier are region sources (03 R50 rule 4). -/
def Fields.takesMods (f : Fields) (m1 m2 m3 : SMod) : Bool :=
  match fieldKinds f.op with
  | some [_, k1, k2, k3, _] =>
    (m1.cls == 0 || k1 == .reg) && (m2.cls == 0 || k2 == .reg) && (m3.cls == 0 || k3 == .reg)
  | _ => false

/-- The control fields that a prefix word counts with: none of its own (03 R47, R48). -/
def Ctl.plain : Ctl := ⟨0, false, ⟨false, 0⟩, ⟨false, 0⟩, .none⟩

/-- PFX.K (03 R47, R50 rule 2). -/
def decodePfxK (w : W64) : Except DecErr (Ctl × Instr) :=
  if w.extractLsb' 54 10 = 0#10
  then .ok (.plain, .pfxK (w.extractLsb' 40 14 ++ w.extractLsb' 0 30))
  else .error .badField

/-- PFX.SM (03 R48, R50 rule 2). -/
def decodePfxSm (w : W64) : Except DecErr (Ctl × Instr) :=
  let m1 := codeSMod (w.extractLsb' 18 12)
  let m2 := codeSMod (w.extractLsb' 6 12)
  let m3 := codeSMod (w.extractLsb' 42 12)
  if w.extractLsb' 54 10 = 0#10 ∧ w.extractLsb' 40 2 = 0#2 ∧ w.extractLsb' 0 6 = 0#6 ∧
    m1.legal ∧ m2.legal ∧ m3.legal
  then .ok (.plain, .pfxSm m1 m2 m3) else .error .badField

/-- The checks of 03 R51, steps 1 to 3, on a word that is no prefix. -/
def decodeFields (s : Slot) (f : Fields) : Except DecErr (Ctl × Instr) :=
  if (fieldKinds f.op).isNone then .error .unassigned
  else if !opSlot f.op s || (s != .c && f.usesQueue) then .error .illSlot
  else if !memWord f.op && f.hint != 0 then .error .badField
  else match codeCtl f, decodeBody f with
    | some c, some i => .ok (c, i)
    | _, _ => .error .badField

/-- The control fields and the instruction that slot s reads from a 64-bit word (03 R51, steps 1 to 3).
The rules that bind a prefix to the word after it (03 R50) are the issue logic's. -/
def decode (s : Slot) (w : W64) : Except DecErr (Ctl × Instr) :=
  if w.extractLsb' 30 10 = 0x0BF#10 then decodePfxK w
  else if w.extractLsb' 30 10 = 0x0BE#10 then decodePfxSm w
  else decodeFields s (Fields.ofWord w)

/-! ### The encoder, from the same tables -/

def srcCode : Src → BitVec 6
  | .s n => BitVec.ofNat 6 n.val
  | .x n => BitVec.ofNat 6 (40 + n.val)
  | .lq => 48
  | .k => 50
  | .con n => BitVec.ofNat 6 (56 + n.val)

def dstCode : Dst → BitVec 6
  | .s n => BitVec.ofNat 6 n.val
  | .sq => 49

def xdstCode : XDst → BitVec 6
  | .s n => BitVec.ofNat 6 n.val
  | .x n => BitVec.ofNat 6 (40 + n.val)
  | .sq => 49

def regCode (n : Fin 32) : BitVec 6 := BitVec.ofNat 6 n.val

def grdCode (n : Fin 8) : BitVec 6 := BitVec.ofNat 6 (32 + n.val)

def bitCode (b : Bool) : BitVec 6 := if b then 1 else 0

def rndCode : Rnd → BitVec 6
  | .rne => 0
  | .rtz => 1
  | .rup => 2
  | .rdn => 3
  | .rna => 4
  | .sr => 5

def modeCode (m : Mode) : BitVec 6 := rndCode m.rnd ||| (if m.ovf then 8 else 0)

def hintCode : Hint → BitVec 2
  | .norm => 0
  | .stream => 1
  | .keep => 2
  | .nordc => 3

def clsCode (m : MemF) : BitVec 6 := m.cls.setWidth 6

def guardCode (g : GuardF) : BitVec 4 := BitVec.ofNat 4 (8 * g.inv.toNat + g.idx.val)

def tokCode : Tok → BitVec 3
  | .none => 0
  | .pop k => BitVec.ofNat 3 (1 + k.val)
  | .push k => BitVec.ofNat 3 (5 + k.val)

def smodCode (m : SMod) : BitVec 12 := m.cls ++ m.seg ++ m.dist

/-- The fields of a word with given control fields, hint, opcode and operand fields. -/
def fields (c : Ctl) (hint : BitVec 2) (op : BitVec 10) (f0 f1 f2 f3 f4 : BitVec 6) : Fields :=
  ⟨c.idle, if c.sync then 1 else 0, guardCode c.ga, guardCode c.gb, tokCode c.tok, hint, op, f0, f1, f2, f3, f4⟩

/-- The fields of an instruction that has an encoding and is no prefix. -/
def encodeFields (ct : Ctl) (i : Instr) : Option Fields :=
  match i with
  | .add d a b => some (fields ct 0 0x000 (dstCode d) (srcCode a) (srcCode b) 0 0)
  | .sub d a b => some (fields ct 0 0x001 (dstCode d) (srcCode a) (srcCode b) 0 0)
  | .mul d a b => some (fields ct 0 0x002 (dstCode d) (srcCode a) (srcCode b) 0 0)
  | .mulh d a b => some (fields ct 0 0x003 (dstCode d) (srcCode a) (srcCode b) 0 0)
  | .mulhs d a b => some (fields ct 0 0x004 (dstCode d) (srcCode a) (srcCode b) 0 0)
  | .div d a b => some (fields ct 0 0x005 (dstCode d) (srcCode a) (srcCode b) 0 0)
  | .divs d a b => some (fields ct 0 0x006 (dstCode d) (srcCode a) (srcCode b) 0 0)
  | .rem d a b => some (fields ct 0 0x007 (dstCode d) (srcCode a) (srcCode b) 0 0)
  | .rems d a b => some (fields ct 0 0x008 (dstCode d) (srcCode a) (srcCode b) 0 0)
  | .min d a b => some (fields ct 0 0x009 (dstCode d) (srcCode a) (srcCode b) 0 0)
  | .mins d a b => some (fields ct 0 0x00A (dstCode d) (srcCode a) (srcCode b) 0 0)
  | .max d a b => some (fields ct 0 0x00B (dstCode d) (srcCode a) (srcCode b) 0 0)
  | .maxs d a b => some (fields ct 0 0x00C (dstCode d) (srcCode a) (srcCode b) 0 0)
  | .sel d g a b => some (fields ct 0 0x00D (dstCode d) (grdCode g) (srcCode a) (srcCode b) 0)
  | .movk d imm => some (fields ct 0 0x00E (dstCode d) (imm.extractLsb' 18 6) (imm.extractLsb' 12 6) (imm.extractLsb' 6 6) (imm.extractLsb' 0 6))
  | .movkh d imm => some (fields ct 0 0x00F (regCode d) (BitVec.ofNat 6 (imm.toNat / 0x40000)) (imm.extractLsb' 12 6) (imm.extractLsb' 6 6) (imm.extractLsb' 0 6))
  | .xmov d a => some (fields ct 0 0x010 (xdstCode d) (srcCode a) 0 0 0)
  | .rgn d b st n fm li => some (fields ct 0 0x011 (dstCode d) (srcCode b) (srcCode st) (srcCode n) (BitVec.ofNat 6 (fm.toNat + 16 * li.toNat)))
  | .and d a b => some (fields ct 0 0x040 (dstCode d) (srcCode a) (srcCode b) 0 0)
  | .or d a b => some (fields ct 0 0x041 (dstCode d) (srcCode a) (srcCode b) 0 0)
  | .xor d a b => some (fields ct 0 0x042 (dstCode d) (srcCode a) (srcCode b) 0 0)
  | .andn d a b => some (fields ct 0 0x043 (dstCode d) (srcCode a) (srcCode b) 0 0)
  | .shl d a b => some (fields ct 0 0x044 (dstCode d) (srcCode a) (srcCode b) 0 0)
  | .shr d a b => some (fields ct 0 0x045 (dstCode d) (srcCode a) (srcCode b) 0 0)
  | .sra d a b => some (fields ct 0 0x046 (dstCode d) (srcCode a) (srcCode b) 0 0)
  | .rot d a b => some (fields ct 0 0x047 (dstCode d) (srcCode a) (srcCode b) 0 0)
  | .clz d a => some (fields ct 0 0x048 (dstCode d) (srcCode a) 0 0 0)
  | .ctz d a => some (fields ct 0 0x049 (dstCode d) (srcCode a) 0 0 0)
  | .popc d a => some (fields ct 0 0x04A (dstCode d) (srcCode a) 0 0 0)
  | .extr d a p l => some (fields ct 0 0x04B (dstCode d) (srcCode a) p l 0)
  | .ins d a p l => some (fields ct 0 0x04C (regCode d) (srcCode a) p l 0)
  | .clmul d a b => some (fields ct 0 0x04D (dstCode d) (srcCode a) (srcCode b) 0 0)
  | .clmulh d a b => some (fields ct 0 0x04E (dstCode d) (srcCode a) (srcCode b) 0 0)
  | .gand d a b => some (fields ct 0 0x04F (grdCode d) (grdCode a) (grdCode b) 0 0)
  | .gor d a b => some (fields ct 0 0x050 (grdCode d) (grdCode a) (grdCode b) 0 0)
  | .gnot d a => some (fields ct 0 0x051 (grdCode d) (grdCode a) 0 0 0)
  | .cmpEq d a b => some (fields ct 0 0x058 (grdCode d) (srcCode a) (srcCode b) 0 0)
  | .cmpNe d a b => some (fields ct 0 0x059 (grdCode d) (srcCode a) (srcCode b) 0 0)
  | .cmpLt d a b => some (fields ct 0 0x05A (grdCode d) (srcCode a) (srcCode b) 0 0)
  | .cmpLts d a b => some (fields ct 0 0x05B (grdCode d) (srcCode a) (srcCode b) 0 0)
  | .cmpLe d a b => some (fields ct 0 0x05C (grdCode d) (srcCode a) (srcCode b) 0 0)
  | .cmpLes d a b => some (fields ct 0 0x05D (grdCode d) (srcCode a) (srcCode b) 0 0)
  | .nop => some (fields ct 0 0x080 0 0 0 0 0)
  | .br d => some (fields ct 0 0x081 0 (d.extractLsb' 18 6) (d.extractLsb' 12 6) (d.extractLsb' 6 6) (d.extractLsb' 0 6))
  | .bri a => some (fields ct 0 0x082 0 (srcCode a) 0 0 0)
  | .call r d => some (fields ct 0 0x083 (regCode r) (d.extractLsb' 18 6) (d.extractLsb' 12 6) (d.extractLsb' 6 6) (d.extractLsb' 0 6))
  | .ret a => some (fields ct 0 0x084 0 (srcCode a) 0 0 0)
  | .loop a e => some (fields ct 0 0x085 0 (srcCode a) (e.extractLsb' 12 6) (e.extractLsb' 6 6) (e.extractLsb' 0 6))
  | .taskend => some (fields ct 0 0x087 0 0 0 0 0)
  | .trap a => some (fields ct 0 0x0C0 0 (srcCode a) 0 0 0)
  | .eret => some (fields ct 0 0x0C1 0 0 0 0 0)
  | .mfsr d n => some (fields ct 0 0x0C2 (dstCode d) n 0 0 0)
  | .mtsr n a => some (fields ct 0 0x0C3 n (srcCode a) 0 0 0)
  | .mtsrSrseed a => some (fields ct 0 0x0C3 7 (srcCode a) 0 0 0)
  | .mtsrBfmt n a => some (fields ct 0 0x0C3 (BitVec.ofNat 6 (16 + n.val)) (srcCode a) 0 0 0)
  | .mtsrBscl n a => some (fields ct 0 0x0C3 (BitVec.ofNat 6 (32 + n.val)) (srcCode a) 0 0 0)
  | .mtsrCntsel n a => some (fields ct 0 0x0C3 (BitVec.ofNat 6 (48 + n.val)) (srcCode a) 0 0 0)
  | .halt => some (fields ct 0 0x0C4 0 0 0 0 0)
  | .iclr => some (fields ct 0 0x0C5 0 0 0 0 0)
  | .vadd d a b md => some (fields ct 0 0x100 (regCode d) (regCode a) (regCode b) 0 (modeCode md))
  | .vsub d a b md => some (fields ct 0 0x101 (regCode d) (regCode a) (regCode b) 0 (modeCode md))
  | .vmul d a b md => some (fields ct 0 0x102 (regCode d) (regCode a) (regCode b) 0 (modeCode md))
  | .vfma d a b c md => some (fields ct 0 0x103 (regCode d) (regCode a) (regCode b) (regCode c) (modeCode md))
  | .vfms d a b c md => some (fields ct 0 0x104 (regCode d) (regCode a) (regCode b) (regCode c) (modeCode md))
  | .vfnma d a b c md => some (fields ct 0 0x105 (regCode d) (regCode a) (regCode b) (regCode c) (modeCode md))
  | .vmin d a b md => some (fields ct 0 0x106 (regCode d) (regCode a) (regCode b) 0 (modeCode md))
  | .vmax d a b md => some (fields ct 0 0x107 (regCode d) (regCode a) (regCode b) 0 (modeCode md))
  | .vabs d a md => some (fields ct 0 0x108 (regCode d) (regCode a) 0 0 (modeCode md))
  | .vneg d a md => some (fields ct 0 0x109 (regCode d) (regCode a) 0 0 (modeCode md))
  | .vand d a b => some (fields ct 0 0x140 (regCode d) (regCode a) (regCode b) 0 0)
  | .vor d a b => some (fields ct 0 0x141 (regCode d) (regCode a) (regCode b) 0 0)
  | .vxor d a b => some (fields ct 0 0x142 (regCode d) (regCode a) (regCode b) 0 0)
  | .vshl d a b => some (fields ct 0 0x143 (regCode d) (regCode a) (regCode b) 0 0)
  | .vshr d a b => some (fields ct 0 0x144 (regCode d) (regCode a) (regCode b) 0 0)
  | .vsra d a b => some (fields ct 0 0x145 (regCode d) (regCode a) (regCode b) 0 0)
  | .vcmpEq d a b => some (fields ct 0 0x148 (regCode d) (regCode a) (regCode b) 0 0)
  | .vcmpNe d a b => some (fields ct 0 0x149 (regCode d) (regCode a) (regCode b) 0 0)
  | .vcmpLt d a b => some (fields ct 0 0x14A (regCode d) (regCode a) (regCode b) 0 0)
  | .vcmpLts d a b => some (fields ct 0 0x14B (regCode d) (regCode a) (regCode b) 0 0)
  | .vcmpLe d a b => some (fields ct 0 0x14C (regCode d) (regCode a) (regCode b) 0 0)
  | .vcmpLes d a b => some (fields ct 0 0x14D (regCode d) (regCode a) (regCode b) 0 0)
  | .vsel d a b c => some (fields ct 0 0x150 (regCode d) (regCode a) (regCode b) (regCode c) 0)
  | .vcvt d a md => some (fields ct 0 0x151 (regCode d) (regCode a) 0 0 (modeCode md))
  | .vqnt d a r => some (fields ct 0 0x152 (regCode d) (regCode a) 0 0 (rndCode r))
  | .vdqnt d a b md => some (fields ct 0 0x153 (regCode d) (regCode a) (regCode b) 0 (modeCode md))
  | .vrcpe d a => some (fields ct 0 0x180 (regCode d) (regCode a) 0 0 0)
  | .vrsqe d a => some (fields ct 0 0x181 (regCode d) (regCode a) 0 0 0)
  | .vrcps d a b r => some (fields ct 0 0x182 (regCode d) (regCode a) (regCode b) 0 (rndCode r))
  | .vrsqs d a b r => some (fields ct 0 0x183 (regCode d) (regCode a) (regCode b) 0 (rndCode r))
  | .vexp2e d a => some (fields ct 0 0x184 (regCode d) (regCode a) 0 0 0)
  | .vlog2e d a => some (fields ct 0 0x185 (regCode d) (regCode a) 0 0 0)
  | .vsum d a md => some (fields ct 0 0x188 (regCode d) (regCode a) 0 0 (modeCode md))
  | .vdot d a b md => some (fields ct 0 0x189 (regCode d) (regCode a) (regCode b) 0 (modeCode md))
  | .vmaxr d a => some (fields ct 0 0x18A (regCode d) (regCode a) 0 0 0)
  | .vminr d a => some (fields ct 0 0x18B (regCode d) (regCode a) 0 0 0)
  | .viota d a b => some (fields ct 0 0x1C0 (regCode d) (srcCode a) (srcCode b) 0 0)
  | .vfill d a => some (fields ct 0 0x1C1 (regCode d) (srcCode a) 0 0 0)
  | .vcopy d a => some (fields ct 0 0x1C2 (regCode d) (regCode a) 0 0 0)
  | .vpart d e g h o => some (fields ct 0 0x1C3 (regCode d) (regCode e) (regCode g) (regCode h) (regCode o))
  | .vgath d a b => some (fields ct 0 0x1C4 (regCode d) (regCode a) (regCode b) 0 0)
  | .vscat d a b => some (fields ct 0 0x1C5 (regCode d) (regCode a) (regCode b) 0 0)
  | .mln l a => some (fields ct 0 0x200 (BitVec.ofNat 6 l.val) (srcCode a) 0 0 0)
  | .mopa k a b => some (fields ct 0 0x201 0 (srcCode a) (srcCode b) (BitVec.ofNat 6 k.val) 0)
  | .mopb k a b => some (fields ct 0 0x202 0 (srcCode a) (srcCode b) (BitVec.ofNat 6 k.val) 0)
  | .macc n i => some (fields ct 0 0x203 0 (BitVec.ofNat 6 n.val) (bitCode i) 0 0)
  | .mlda r a b => some (fields ct 0 0x204 (bitCode r) (srcCode a) (srcCode b) 0 0)
  | .mldb r a b => some (fields ct 0 0x205 (bitCode r) (srcCode a) (srcCode b) 0 0)
  | .mgo a => some (fields ct 0 0x206 0 (srcCode a) 0 0 0)
  | .mwait => some (fields ct 0 0x207 0 0 0 0 0)
  | .mdrain a b n zr md => some (fields ct 0 0x240 0 (srcCode a) (srcCode b) (BitVec.ofNat 6 (n.val + 4 * zr.toNat)) (modeCode md))
  | .mbya r n zr fm md => some (fields ct 0 0x241 (bitCode r) (BitVec.ofNat 6 (n.val + 4 * zr.toNat)) fm 0 (modeCode md))
  | .mxp d e a b p => some (fields ct 0 0x242 (srcCode d) (srcCode e) (srcCode a) (srcCode b) (srcCode p))
  | .msave a => some (fields ct 0 0x243 0 (srcCode a) 0 0 0)
  | .mrest a => some (fields ct 0 0x244 0 (srcCode a) 0 0 0)
  | .mstat d a => some (fields ct 0 0x245 (regCode d) (srcCode a) 0 0 0)
  | .cset a => some (fields ct 0 0x280 0 (srcCode a) 0 0 0)
  | .cldc a => some (fields ct 0 0x281 0 (srcCode a) 0 0 0)
  | .crun a => some (fields ct 0 0x282 0 (srcCode a) 0 0 0)
  | .cleaf d a => some (fields ct 0 0x283 (srcCode d) (srcCode a) 0 0 0)
  | .cidx d => some (fields ct 0 0x284 (srcCode d) 0 0 0 0)
  | .cstatContour d a => some (fields ct 0 0x285 (regCode d) (srcCode a) 0 0 0)
  | .ldB o => some (fields ct (hintCode o.mf.hint) 0x2C0 0 (srcCode o.a) (srcCode o.b) (BitVec.ofNat 6 o.sh.val) (clsCode o.mf))
  | .ldH o => some (fields ct (hintCode o.mf.hint) 0x2C1 0 (srcCode o.a) (srcCode o.b) (BitVec.ofNat 6 o.sh.val) (clsCode o.mf))
  | .ldW o => some (fields ct (hintCode o.mf.hint) 0x2C2 0 (srcCode o.a) (srcCode o.b) (BitVec.ofNat 6 o.sh.val) (clsCode o.mf))
  | .ldD o => some (fields ct (hintCode o.mf.hint) 0x2C3 0 (srcCode o.a) (srcCode o.b) (BitVec.ofNat 6 o.sh.val) (clsCode o.mf))
  | .ldsB o => some (fields ct (hintCode o.mf.hint) 0x2C4 0 (srcCode o.a) (srcCode o.b) (BitVec.ofNat 6 o.sh.val) (clsCode o.mf))
  | .ldsH o => some (fields ct (hintCode o.mf.hint) 0x2C5 0 (srcCode o.a) (srcCode o.b) (BitVec.ofNat 6 o.sh.val) (clsCode o.mf))
  | .ldsW o => some (fields ct (hintCode o.mf.hint) 0x2C6 0 (srcCode o.a) (srcCode o.b) (BitVec.ofNat 6 o.sh.val) (clsCode o.mf))
  | .stB o => some (fields ct (hintCode o.mf.hint) 0x2C8 0 (srcCode o.a) (srcCode o.b) (BitVec.ofNat 6 o.sh.val) (clsCode o.mf))
  | .stH o => some (fields ct (hintCode o.mf.hint) 0x2C9 0 (srcCode o.a) (srcCode o.b) (BitVec.ofNat 6 o.sh.val) (clsCode o.mf))
  | .stW o => some (fields ct (hintCode o.mf.hint) 0x2CA 0 (srcCode o.a) (srcCode o.b) (BitVec.ofNat 6 o.sh.val) (clsCode o.mf))
  | .stD o => some (fields ct (hintCode o.mf.hint) 0x2CB 0 (srcCode o.a) (srcCode o.b) (BitVec.ofNat 6 o.sh.val) (clsCode o.mf))
  | .pf o => some (fields ct (hintCode o.mf.hint) 0x2CC 0 (srcCode o.a) (srcCode o.b) (BitVec.ofNat 6 o.sh.val) (clsCode o.mf))
  | .qmark => some (fields ct 0 0x2CD 0 0 0 0 0)
  | .cpygs d e g h mf => some (fields ct (hintCode mf.hint) 0x2D0 (srcCode d) (srcCode e) (srcCode g) (srcCode h) (clsCode mf))
  | .cpysg d e g h mf => some (fields ct (hintCode mf.hint) 0x2D1 (srcCode d) (srcCode e) (srcCode g) (srcCode h) (clsCode mf))
  | .chainTail a => some (fields ct 0 0x2D2 0 (srcCode a) 0 0 0)
  | .chainWait d a c => some (fields ct 0 0x2D3 (regCode d) (srcCode a) (bitCode c) 0 0)
  | .fenceSlot => some (fields ct 0 0x2D8 0 0 0 0 0)
  | .fenceTile => some (fields ct 0 0x2D9 0 0 0 0 0)
  | .fenceDie => some (fields ct 0 0x2DA 0 0 0 0 0)
  | .fencePkg => some (fields ct 0 0x2DB 0 0 0 0 0)
  | .fenceSys => some (fields ct 0 0x2DC 0 0 0 0 0)
  | .acqSlot => some (fields ct 0 0x2E0 0 0 0 0 0)
  | .acqTile => some (fields ct 0 0x2E1 0 0 0 0 0)
  | .acqDie => some (fields ct 0 0x2E2 0 0 0 0 0)
  | .acqPkg => some (fields ct 0 0x2E3 0 0 0 0 0)
  | .acqSys => some (fields ct 0 0x2E4 0 0 0 0 0)
  | .relSlot => some (fields ct 0 0x2E8 0 0 0 0 0)
  | .relTile => some (fields ct 0 0x2E9 0 0 0 0 0)
  | .relDie => some (fields ct 0 0x2EA 0 0 0 0 0)
  | .relPkg => some (fields ct 0 0x2EB 0 0 0 0 0)
  | .relSys => some (fields ct 0 0x2EC 0 0 0 0 0)
  | .aadd o => some (fields ct (hintCode o.mf.hint) 0x300 0 (srcCode o.a) (srcCode o.b) (bitCode o.dbl) (clsCode o.mf))
  | .amin o => some (fields ct (hintCode o.mf.hint) 0x301 0 (srcCode o.a) (srcCode o.b) (bitCode o.dbl) (clsCode o.mf))
  | .amins o => some (fields ct (hintCode o.mf.hint) 0x302 0 (srcCode o.a) (srcCode o.b) (bitCode o.dbl) (clsCode o.mf))
  | .amax o => some (fields ct (hintCode o.mf.hint) 0x303 0 (srcCode o.a) (srcCode o.b) (bitCode o.dbl) (clsCode o.mf))
  | .amaxs o => some (fields ct (hintCode o.mf.hint) 0x304 0 (srcCode o.a) (srcCode o.b) (bitCode o.dbl) (clsCode o.mf))
  | .aand o => some (fields ct (hintCode o.mf.hint) 0x305 0 (srcCode o.a) (srcCode o.b) (bitCode o.dbl) (clsCode o.mf))
  | .aor o => some (fields ct (hintCode o.mf.hint) 0x306 0 (srcCode o.a) (srcCode o.b) (bitCode o.dbl) (clsCode o.mf))
  | .axor o => some (fields ct (hintCode o.mf.hint) 0x307 0 (srcCode o.a) (srcCode o.b) (bitCode o.dbl) (clsCode o.mf))
  | .aswp o => some (fields ct (hintCode o.mf.hint) 0x308 0 (srcCode o.a) (srcCode o.b) (bitCode o.dbl) (clsCode o.mf))
  | .acas o => some (fields ct (hintCode o.mf.hint) 0x309 0 (srcCode o.a) (srcCode o.b) (bitCode o.dbl) (clsCode o.mf))
  | .aaddF32 o => some (fields ct (hintCode o.mf.hint) 0x30A 0 (srcCode o.a) (srcCode o.b) (bitCode o.dbl) (clsCode o.mf))
  | .aaddBf16 o => some (fields ct (hintCode o.mf.hint) 0x30B 0 (srcCode o.a) (srcCode o.b) (bitCode o.dbl) (clsCode o.mf))
  | .aaddNr o => some (fields ct (hintCode o.mf.hint) 0x310 0 (srcCode o.a) (srcCode o.b) (bitCode o.dbl) (clsCode o.mf))
  | .aminNr o => some (fields ct (hintCode o.mf.hint) 0x311 0 (srcCode o.a) (srcCode o.b) (bitCode o.dbl) (clsCode o.mf))
  | .aminsNr o => some (fields ct (hintCode o.mf.hint) 0x312 0 (srcCode o.a) (srcCode o.b) (bitCode o.dbl) (clsCode o.mf))
  | .amaxNr o => some (fields ct (hintCode o.mf.hint) 0x313 0 (srcCode o.a) (srcCode o.b) (bitCode o.dbl) (clsCode o.mf))
  | .amaxsNr o => some (fields ct (hintCode o.mf.hint) 0x314 0 (srcCode o.a) (srcCode o.b) (bitCode o.dbl) (clsCode o.mf))
  | .aandNr o => some (fields ct (hintCode o.mf.hint) 0x315 0 (srcCode o.a) (srcCode o.b) (bitCode o.dbl) (clsCode o.mf))
  | .aorNr o => some (fields ct (hintCode o.mf.hint) 0x316 0 (srcCode o.a) (srcCode o.b) (bitCode o.dbl) (clsCode o.mf))
  | .axorNr o => some (fields ct (hintCode o.mf.hint) 0x317 0 (srcCode o.a) (srcCode o.b) (bitCode o.dbl) (clsCode o.mf))
  | .aswpNr o => some (fields ct (hintCode o.mf.hint) 0x318 0 (srcCode o.a) (srcCode o.b) (bitCode o.dbl) (clsCode o.mf))
  | .acasNr o => some (fields ct (hintCode o.mf.hint) 0x319 0 (srcCode o.a) (srcCode o.b) (bitCode o.dbl) (clsCode o.mf))
  | .aaddF32Nr o => some (fields ct (hintCode o.mf.hint) 0x31A 0 (srcCode o.a) (srcCode o.b) (bitCode o.dbl) (clsCode o.mf))
  | .aaddBf16Nr o => some (fields ct (hintCode o.mf.hint) 0x31B 0 (srcCode o.a) (srcCode o.b) (bitCode o.dbl) (clsCode o.mf))
  | .put d a b mf => some (fields ct (hintCode mf.hint) 0x340 (srcCode d) (srcCode a) (srcCode b) 0 (clsCode mf))
  | .get d a b mf => some (fields ct (hintCode mf.hint) 0x341 (srcCode d) (srcCode a) (srcCode b) 0 (clsCode mf))
  | .arradd d a b => some (fields ct 0 0x342 (regCode d) (srcCode a) (srcCode b) 0 0)
  | .arrset a b => some (fields ct 0 0x343 0 (srcCode a) (srcCode b) 0 0)
  | .arrw d a b c => some (fields ct 0 0x344 (regCode d) (srcCode a) (srcCode b) (bitCode c) 0)
  | .bcbPost d a b => some (fields ct 0 0x345 (regCode d) (srcCode a) (srcCode b) 0 0)
  | .bcbWait d a b c => some (fields ct 0 0x346 (regCode d) (srcCode a) (srcCode b) (bitCode c) 0)
  | .ctbl a b => some (fields ct 0 0x348 0 (srcCode a) (srcCode b) 0 0)
  | .cready a => some (fields ct 0 0x349 0 (srcCode a) 0 0 0)
  | .cevw d a b => some (fields ct 0 0x34A (regCode d) (srcCode a) (srcCode b) 0 0)
  | .cabort a => some (fields ct 0 0x34B 0 (srcCode a) 0 0 0)
  | .cstatColl d a c => some (fields ct 0 0x34C (regCode d) (srcCode a) (bitCode c) 0 0)
  | .bara d a => some (fields ct 0 0x380 (regCode d) (srcCode a) 0 0 0)
  | .barw a b => some (fields ct 0 0x381 0 (srcCode a) (srcCode b) 0 0)
  | .bars d a => some (fields ct 0 0x382 (regCode d) (srcCode a) 0 0 0)
  | .barcfg a b => some (fields ct 0 0x383 0 (srcCode a) (srcCode b) 0 0)
  | .mlock a => some (fields ct 0 0x384 0 (srcCode a) 0 0 0)
  | .mtry d a => some (fields ct 0 0x385 (regCode d) (srcCode a) 0 0 0)
  | .munlk a => some (fields ct 0 0x386 0 (srcCode a) 0 0 0)
  | .semp a => some (fields ct 0 0x387 0 (srcCode a) 0 0 0)
  | .semv a b => some (fields ct 0 0x388 0 (srcCode a) (srcCode b) 0 0)
  | .semtry d a => some (fields ct 0 0x389 (regCode d) (srcCode a) 0 0 0)
  | .tokcnt d i j => some (fields ct 0 0x38A (regCode d) (BitVec.ofNat 6 i.val) (BitVec.ofNat 6 j.val) 0 0)
  | .yield a => some (fields ct 0 0x38B 0 (srcCode a) 0 0 0)
  | .qpt => some (fields ct 0 0x38C 0 0 0 0 0)
  | .dsend a b => some (fields ct 0 0x38D 0 (srcCode a) (srcCode b) 0 0)
  | .lrpatch d a b l => some (fields ct 0 0x390 (regCode d) (srcCode a) (srcCode b) (BitVec.ofNat 6 l.val) 0)
  | .lrarm d a => some (fields ct 0 0x391 (regCode d) (srcCode a) 0 0 0)
  | _ => none

/-- The word of an instruction with given control fields; none for START, FENCE's retirement and the
events, which have no encoding (03 R62; 95). A prefix carries no control fields. -/
def encode (ct : Ctl) (i : Instr) : Option W64 :=
  match i with
  | .pfxK k => some (0#10 ++ k.extractLsb' 30 14 ++ 0x0BF#10 ++ k.extractLsb' 0 30)
  | .pfxSm m1 m2 m3 =>
    some (0#10 ++ smodCode m3 ++ 0#2 ++ 0x0BE#10 ++ smodCode m1 ++ smodCode m2 ++ 0#6)
  | i => (encodeFields ct i).map Fields.toWord

/-- The slot that stands for an opcode where the opcode table names no slot: the first slot of 01 R12 in
which it is legal. -/
def homeSlot (op : BitVec 10) : Slot :=
  if opSlot op .c then .c else if opSlot op .a then .a else if opSlot op .v then .v else .m

/-- The instruction whose bits, numbered as spec/opcode_table.json numbers them, are w.
Every word of this hardware is 64 bits (03 R40), so bits above nbits are 0. -/
def decodeTableWord (nbits w : Nat) : Option Instr :=
  let word : W64 := BitVec.ofNat 64 (w % 2 ^ nbits)
  match decode (homeSlot (word.extractLsb' 30 10)) word with
  | .ok (_, i) => some i
  | .error _ => none

end Sys2Proof
end

