-- ==== Sys2Proof/Machine/Bits.lean ====
section
/-! DEFINITION. Bit fields, extension, byte order and tables: what everything above is built from. -/

namespace Sys2Proof.Machine

/-- Bits [lo + len - 1 : lo] of a word, as a number (00 R2). -/
def fld (w : W64) (lo len : Nat) : Nat := w.toNat / 2 ^ lo % 2 ^ len

/-- One bit of a word. -/
def bitAt (w : W64) (i : Nat) : Bool := w.getLsbD i

/-- A number as a 64-bit word. -/
def w64 (n : Nat) : W64 := BitVec.ofNat 64 n

/-- An integer as a 64-bit word, modulo 2^64 (02 R38). -/
def w64i (n : Int) : W64 := BitVec.ofInt 64 n

/-- The low len bits of n, read in two's complement (02 R38). -/
def signed (len n : Nat) : Int :=
  if 2 ^ (len - 1) ≤ n % 2 ^ len then ((n % 2 ^ len : Nat) : Int) - ((2 ^ len : Nat) : Int)
  else ((n % 2 ^ len : Nat) : Int)

/-- An integer taken modulo 2^len. -/
def wrapTo (len : Nat) (v : Int) : Nat := (v % ((2 ^ len : Nat) : Int)).toNat

/-- A word with bits [lo + len - 1 : lo] replaced by the low bits of v. -/
def setFld (w : W64) (lo len v : Nat) : W64 :=
  let m : W64 := w64 ((2 ^ len - 1) * 2 ^ lo)
  (w &&& ~~~m) ||| (w64 (v % 2 ^ len * 2 ^ lo))

/-- The bytes of n, least significant first, count of them (00 R2). -/
def leBytes : Nat → Nat → List Byte
  | 0, _ => []
  | k + 1, n => BitVec.ofNat 8 n :: leBytes k (n / 256)

/-- The number that bytes give, least significant first (00 R2). -/
def fromLe : List Byte → Nat
  | [] => 0
  | b :: bs => b.toNat + 256 * fromLe bs

/-- Quotient rounded towards zero, of integers (05 R97). -/
def truncDiv (a b : Int) : Int := Int.tdiv a b

/-- Ceiling of n / d. -/
def ceilDiv (n d : Nat) : Nat := (n + d - 1) / d

/-! ### Tables with rising keys -/

/-- The value that a table lists for a key. -/
def tfind {α : Type} : Tab α → Nat → Option α
  | [], _ => none
  | (k, v) :: t, n => if k = n then some v else tfind t n

/-- The value of a key, with the default of an unlisted key. -/
def tget {α : Type} (t : Tab α) (d : α) (n : Nat) : α := (tfind t n).getD d

/-- The table with a key's value set; the keys stay rising. -/
def tset {α : Type} : Tab α → Nat → α → Tab α
  | [], n, v => [(n, v)]
  | (k, x) :: t, n, v =>
    if k = n then (n, v) :: t
    else if n < k then (n, v) :: (k, x) :: t
    else (k, x) :: tset t n v

/-- The table without a key. -/
def tdrop {α : Type} (t : Tab α) (n : Nat) : Tab α := t.filter fun p => p.1 != n

/-- A table of flags or counts with a value changed. -/
def tmod {α : Type} (t : Tab α) (d : α) (n : Nat) (f : α → α) : Tab α := tset t n (f (tget t d n))

/-- A list with its n-th element replaced. -/
def setNth {α : Type} : List α → Nat → α → List α
  | [], _, _ => []
  | _ :: t, 0, v => v :: t
  | x :: t, n + 1, v => x :: setNth t n v

/-- A list without its n-th element. -/
def dropNth {α : Type} : List α → Nat → List α
  | [], _ => []
  | _ :: t, 0 => t
  | x :: t, n + 1 => x :: dropNth t n

/-! ### Byte memories: rising addresses, no listed zero -/

/-- The byte at an address; an unlisted address reads as 0 (log 5). -/
def readByte : List (Nat × Byte) → Nat → Byte
  | [], _ => 0
  | (k, v) :: t, n => if k = n then v else readByte t n

/-- The memory with one byte written; a zero removes the entry, so the form stays canonical. -/
def writeByte : List (Nat × Byte) → Nat → Byte → List (Nat × Byte)
  | [], n, b => if b = 0 then [] else [(n, b)]
  | (k, v) :: t, n, b =>
    if k = n then (if b = 0 then t else (n, b) :: t)
    else if n < k then (if b = 0 then (k, v) :: t else (n, b) :: (k, v) :: t)
    else (k, v) :: writeByte t n b

/-- count bytes from an address on. -/
def readBytes (m : List (Nat × Byte)) : Nat → Nat → List Byte
  | _, 0 => []
  | a, k + 1 => readByte m a :: readBytes m (a + 1) k

/-- Bytes written from an address on. -/
def writeBytes (m : List (Nat × Byte)) : Nat → List Byte → List (Nat × Byte)
  | _, [] => m
  | a, b :: bs => writeBytes (writeByte m a b) (a + 1) bs

/-- A little-endian number of count bytes (00 R2). -/
def readLe (m : List (Nat × Byte)) (a count : Nat) : Nat := fromLe (readBytes m a count)

/-- A little-endian number of count bytes, written (00 R2). -/
def writeLe (m : List (Nat × Byte)) (a count n : Nat) : List (Nat × Byte) := writeBytes m a (leBytes count n)

/-- The memory with every byte of a range cleared to zero. -/
def clearBytes (m : List (Nat × Byte)) (a count : Nat) : List (Nat × Byte) :=
  m.filter fun c => c.1 < a || a + count ≤ c.1

/-- The bytes from an address on, walking a memory whose lower entries are gone. -/
def walkBytes : Nat → List (Nat × Byte) → Nat → List Byte
  | 0, _, _ => []
  | k + 1, [], a => 0 :: walkBytes k [] (a + 1)
  | k + 1, (x, v) :: r, a => if x = a then v :: walkBytes k r (a + 1) else 0 :: walkBytes k ((x, v) :: r) (a + 1)

/-- count bytes from an address on, in one pass over the memory. -/
def readRange (m : List (Nat × Byte)) (a count : Nat) : List Byte := walkBytes count (m.filter fun c => a ≤ c.1) a

/-- The entries that bytes from an address on make. -/
def cellsFrom : Nat → List Byte → List (Nat × Byte)
  | _, [] => []
  | a, b :: r => if b = 0 then cellsFrom (a + 1) r else (a, b) :: cellsFrom (a + 1) r

/-- Bytes written from an address on, in one pass over the memory. -/
def writeRange (m : List (Nat × Byte)) (a : Nat) (l : List Byte) : List (Nat × Byte) :=
  m.filter (fun c => c.1 < a) ++ cellsFrom a l ++ m.filter fun c => a + l.length ≤ c.1

/-- Little-endian numbers of w bytes each, taken from bytes. -/
def leList (w : Nat) (l : List Byte) : List Nat :=
  (List.range (l.length / w)).map fun i => fromLe ((l.drop (w * i)).take w)

/-- Whether addresses rise strictly and no listed byte is zero: the one form of a memory's contents. -/
def Memory.wf : List (Nat × Byte) → Bool
  | [] => true
  | [(_, v)] => v != 0
  | (k, v) :: (k', v') :: t => v != 0 && decide (k < k') && Memory.wf ((k', v') :: t)

end Sys2Proof.Machine
end

