-- ==== Sys2Proof/Machine/Flags.lean ====
section
/-! DEFINITION. The sticky flags of slot V and of the matrix engine (04 R79, 05 R113); which results set them is
computed with each result, in Num. -/

namespace Sys2Proof.Machine

/-- The sticky flags, bit for bit as TSTAT [6:0] has them. -/
abbrev Flags := BitVec 7
def fNV : Flags := 1
def fDZ : Flags := 2
def fOF : Flags := 4
def fUF : Flags := 8
def fNX : Flags := 16
def fSAT : Flags := 32
def fIDX : Flags := 64

end Sys2Proof.Machine
end

