-- ==== Sys2Proof/Machine/Num.lean ====
section
/-! DEFINITION. Element formats, exact values, rounding, overflow and the flags each conversion sets
(04 R67 to R92). An exact value is a sign, a natural significand and a power of two, so nothing is
rounded before a rule says so. -/

namespace Sys2Proof.Machine

/-! ### Exact values -/

/-- An exact value. nan tells whether it was made from inputs that are no NaN (NV, 04 R79); inf tells
whether it was made by rounding a finite value (04 R75). num is (-1)^neg * m * 2^e. -/
inductive XV where
  | nan (fresh : Bool)
  | inf (neg made : Bool)
  | num (neg : Bool) (m : Nat) (e : Int)
  deriving DecidableEq, Repr, Inhabited

/-- Positive zero. -/
def XV.zero : XV := .num false 0 0

/-- An integer as an exact value. -/
def XV.ofInt (n : Int) : XV := .num (n < 0) n.natAbs 0

/-- m * 2^k for k of either sign, where the result is integral or cut off. -/
def shiftN (m : Nat) (k : Int) : Nat := if 0 ≤ k then m * 2 ^ k.toNat else m / 2 ^ (-k).toNat

/-- The sum of two exact values. An exact zero from terms of opposite sign is negative only under RDN
(04 R72). -/
def XV.add (rdn : Bool) : XV → XV → XV
  | .nan f, .nan g => .nan (f && g)
  | .nan f, _ => .nan f
  | _, .nan g => .nan g
  | .inf s m, .inf t n => if s = t then .inf s (m && n) else .nan true
  | .inf s m, .num _ _ _ => .inf s m
  | .num _ _ _, .inf t n => .inf t n
  | .num s m e, .num t n f =>
    let g := min e f
    let a := m * 2 ^ (e - g).toNat
    let b := n * 2 ^ (f - g).toNat
    if s = t then .num s (a + b) g
    else if a = b then .num rdn 0 0
    else if b < a then .num s (a - b) g
    else .num t (b - a) g

/-- The product of two exact values; infinity times zero is a fresh NaN (04 R71, R72, R91). -/
def XV.mul : XV → XV → XV
  | .nan f, .nan g => .nan (f && g)
  | .nan f, _ => .nan f
  | _, .nan g => .nan g
  | .inf s m, .inf t n => .inf (s != t) (m && n)
  | .inf s m, .num t n _ => if n = 0 then .nan true else .inf (s != t) m
  | .num s m _, .inf t n => if m = 0 then .nan true else .inf (s != t) n
  | .num s m e, .num t n f => .num (s != t) (m * n) (e + f)

/-- The negated value. -/
def XV.neg : XV → XV
  | .nan f => .nan f
  | .inf s m => .inf (!s) m
  | .num s m e => .num (!s) m e

/-- The magnitude. -/
def XV.abs : XV → XV
  | .nan f => .nan f
  | .inf _ m => .inf false m
  | .num _ m e => .num false m e

/-- The value times 2^k. -/
def XV.scale (k : Int) : XV → XV
  | .nan f => .nan f
  | .inf s m => .inf s m
  | .num s m e => .num s m (e + k)

def XV.isNan : XV → Bool
  | .nan _ => true
  | _ => false

/-- Whether the value is a zero of either sign. -/
def XV.isZero : XV → Bool
  | .num _ m _ => m == 0
  | _ => false

def XV.isInf : XV → Bool
  | .inf _ _ => true
  | _ => false

def XV.isNeg : XV → Bool
  | .nan _ => false
  | .inf s _ => s
  | .num s _ _ => s

/-- The order of two values that are no NaN; the zeros are equal. -/
def XV.cmp : XV → XV → Ordering
  | .nan _, _ => .eq
  | _, .nan _ => .eq
  | .inf s _, .inf t _ => if s = t then .eq else if s then .lt else .gt
  | .inf s _, .num _ _ _ => if s then .lt else .gt
  | .num _ _ _, .inf t _ => if t then .gt else .lt
  | .num s m e, .num t n f =>
    let g := min e f
    let a : Int := m * 2 ^ (e - g).toNat
    let b : Int := n * 2 ^ (f - g).toNat
    compare (if s then -a else a) (if t then -b else b)

/-! ### Formats (04 R68, R69) -/

/-- A format code of 04 R68. -/
abbrev Fmt := Nat
def RAW8 : Fmt := 0
def I8 : Fmt := 1
def I16 : Fmt := 2
def I32 : Fmt := 3
def F32 : Fmt := 4
def BF16 : Fmt := 5
def F16 : Fmt := 6
def E4M3 : Fmt := 7
def E5M2 : Fmt := 8
def I4A : Fmt := 9
def I8A : Fmt := 10
def E4M3S : Fmt := 11
def I8S : Fmt := 12
def N8 : Fmt := 13
def I64 : Fmt := 14

/-- Bits of an element (04 R68). -/
def fmtBits (f : Fmt) : Nat :=
  match f with
  | 2 | 5 | 6 => 16
  | 3 | 4 => 32
  | 9 => 4
  | 14 => 64
  | _ => 8

/-- Bytes of an element; an I4A element takes half a byte and is addressed by nibble (05 R100). -/
def fmtBytes (f : Fmt) : Nat := (fmtBits f + 7) / 8

/-- The real formats (04 R68). -/
def fmtReal (f : Fmt) : Bool := (4 ≤ f && f ≤ 12)

/-- The scaled formats (04 R80, R81). -/
def fmtScaled (f : Fmt) : Bool := 9 ≤ f && f ≤ 12

/-- The integer formats (04 R68). -/
def fmtInt (f : Fmt) : Bool := f ≤ 3 || f == 13 || f == 14

/-- Exponent bits, fraction bits and bias of a floating-point format (04 R68). -/
def fpShape (f : Fmt) : Nat × Nat × Int :=
  match f with
  | 4 => (8, 23, 127)
  | 5 => (8, 7, 127)
  | 6 => (5, 10, 15)
  | 8 => (5, 2, 15)
  | _ => (4, 3, 7)

/-- E4M3 has no infinities and one NaN per sign (04 R69). -/
def noInf (f : Fmt) : Bool := f == 7 || f == 11

/-- Largest finite value of a floating-point format as significand and exponent (04 R69). -/
def fpMax (f : Fmt) : Nat × Int :=
  let (_, w, bias) := fpShape f
  if noInf f then (14, 5) else (2 ^ (w + 1) - 1, bias - w)

/-- The encoding of the largest finite value, without sign. -/
def fpMaxBits (f : Fmt) : Nat :=
  let (eb, w, _) := fpShape f
  if noInf f then 0x7E else 2 ^ (eb + w) - 2 ^ w - 1

/-- The encoding of infinity, without sign; E4M3 has none and gives its NaN (04 R69, R75). -/
def fpInfBits (f : Fmt) : Nat :=
  let (eb, w, _) := fpShape f
  if noInf f then 0x7F else 2 ^ (eb + w) - 2 ^ w

/-- The canonical NaN (04 R69). -/
def fpNan (f : Fmt) : Nat :=
  match f with
  | 4 => 0x7FC00000
  | 5 => 0x7FC0
  | 6 => 0x7E00
  | 8 => 0x7E
  | _ => 0x7F

/-- The sign bit of a floating-point format. -/
def fpSign (f : Fmt) : Nat := 2 ^ (fmtBits f - 1)

/-- The value of an encoding of a floating-point format (04 R69). -/
def decodeFp (f : Fmt) (bits : Nat) : XV :=
  let (eb, w, bias) := fpShape f
  let s := bits / 2 ^ (eb + w) % 2 == 1
  let e := bits / 2 ^ w % 2 ^ eb
  let m := bits % 2 ^ w
  let top := 2 ^ eb - 1
  if e = top ∧ (if noInf f then m = 7 else m ≠ 0) then .nan false
  else if e = top ∧ noInf f = false then .inf s false
  else if e = 0 then .num s m (1 - bias - w)
  else .num s (2 ^ w + m) (e - bias - w)

/-- The value of an encoding of an integer format (04 R68, R70). -/
def decodeInt (f : Fmt) (bits : Nat) : Int :=
  match f with
  | 1 | 2 | 3 | 14 => signed (fmtBits f) bits
  | _ => ((bits % 256 : Nat) : Int)

/-- The value of an element of an unscaled format. -/
def decodeElem (f : Fmt) (bits : Nat) : XV :=
  if fmtInt f then XV.ofInt (decodeInt f bits) else decodeFp f bits

/-- The value of an element of I4A or I8A with its group's table entry (04 R80). -/
def decodeAffine (q entry : Nat) : XV :=
  XV.mul (XV.ofInt ((q : Int) - ((entry / 0x10000 % 256 : Nat) : Int))) (decodeFp 6 (entry % 0x10000))

/-- The value of an element of E4M3S or I8S with its block's shift byte (04 R81). -/
def decodeShift (f : Fmt) (bits shift : Nat) : XV :=
  if shift % 256 = 128 then XV.zero
  else (if f = 11 then decodeFp 7 bits else XV.ofInt (signed 8 bits)).scale (signed 8 shift)

/-! ### Rounding (04 R72 to R74) -/

/-- The integer that a rounding mode picks for k + r/d, with 0 ≤ r < d; also whether it picked k + 1. -/
def pickRnd (md : Rnd) (neg : Bool) (k r d draw : Nat) : Nat × Bool :=
  let up : Bool :=
    if r = 0 then false
    else match md with
      | .rne => if 2 * r = d then k % 2 == 1 else d < 2 * r
      | .rtz => false
      | .rup => !neg
      | .rdn => neg
      | .rna => d ≤ 2 * r
      | .sr => draw ≤ r * 2 ^ 32 / d
  (if up then k + 1 else k, up)

/-- floor(log2 (num / den * 2^e)), for num and den positive. -/
def expOf (num den : Nat) (e : Int) : Int :=
  let l : Int := (num.log2 : Int) - (den.log2 : Int)
  let lo : Bool := if 0 ≤ l then num < den * 2 ^ l.toNat else num * 2 ^ (-l).toNat < den
  (if lo then l - 1 else l) + e

/-- Quotient, remainder and divisor of (num / den * 2^e) by 2^q. -/
def quantum (num den : Nat) (e q : Int) : Nat × Nat × Nat :=
  let n := if q ≤ e then num * 2 ^ (e - q).toNat else num
  let d := if q ≤ e then den else den * 2 ^ (q - e).toNat
  (n / d, n % d, d)

/-- A rounded magnitude: k * 2^q, whether it differs from the exact value, and whether the larger
neighbour was taken. -/
structure Rounded where
  k  : Nat
  q  : Int
  nx : Bool
  up : Bool
  deriving DecidableEq, Repr

/-- A magnitude num / den * 2^e rounded to the fraction of a format, the exponent unbounded above (04 R72,
R75) and bounded below by the subnormals (04 R78). -/
def roundTo (f : Fmt) (md : Rnd) (neg : Bool) (draw num den : Nat) (e : Int) : Rounded :=
  let (_, w, bias) := fpShape f
  let q := max (expOf num den e) (1 - bias) - w
  let (k, r, d) := quantum num den e q
  let (k', up) := pickRnd md neg k r d draw
  ⟨k', q, r != 0, up⟩

/-- The encoding of k * 2^q, in range, without sign. -/
def packFp (f : Fmt) (k : Nat) (q : Int) : Nat :=
  let (_, w, bias) := fpShape f
  let (k, q) := if 2 ^ (w + 1) ≤ k then (k / 2, q + 1) else (k, q)
  if k < 2 ^ w then k else (q + w + bias).toNat * 2 ^ w + (k - 2 ^ w)

/-- Whether k * 2^q exceeds the largest finite value (04 R75). -/
def beyond (f : Fmt) (k : Nat) (q : Int) : Bool :=
  let (m, e) := fpMax f
  let g := min q e
  m * 2 ^ (e - g).toNat < k * 2 ^ (q - g).toNat

/-- What overflow writes, without sign, and whether SAT is set (04 R75). up tells which neighbour SR took;
alt is OVF = 1. DESIGN CHOICE (log 61): under SR an infinity that the word made, which has no fraction for R74 to
choose by, counts as b (its caller passes up = true) and is written as infinity, and an overflow whose rounding was
exact took no b and gives the largest value. -/
def overflowBits (f : Fmt) (alt : Bool) (md : Rnd) (neg up : Bool) : Nat × Bool :=
  if noInf f then (if alt then (0x7F, false) else (0x7E, true))
  else if f ≠ 4 ∧ alt = false then (fpMaxBits f, true)
  else match md with
    | .rne | .rna => (fpInfBits f, false)
    | .rtz => (fpMaxBits f, false)
    | .rup => (if neg then fpMaxBits f else fpInfBits f, false)
    | .rdn => (if neg then fpInfBits f else fpMaxBits f, false)
    | .sr => (if up then fpInfBits f else fpMaxBits f, false)

/-- A written element: its bits, the flags it sets, and whether it is inexact. -/
structure Written where
  bits  : Nat
  flags : Flags
  nx    : Bool
  deriving DecidableEq, Repr

/-- What an overflow writes, with its flags (04 R75, R79): OF and NX, SAT where the largest value stands in, and
NV where E4M3.ns writes its NaN, which then comes from inputs that are no NaN and carries no sign. -/
def writeOver (f : Fmt) (alt : Bool) (md : Rnd) (neg up : Bool) : Written :=
  let (b, sat) := overflowBits f alt md neg up
  let nan := b == 0x7F && noInf f
  ⟨if nan then b else (if neg then fpSign f else 0) + b,
    fOF ||| fNX ||| (if sat then fSAT else 0) ||| (if nan then fNV else 0), true⟩

/-- A rounded magnitude written to a floating-point format (04 R75, R78, R79). before tells that an earlier
rounding of the same value was inexact (04 R86). -/
def writeRounded (f : Fmt) (alt : Bool) (md : Rnd) (neg before : Bool) (r : Rounded) : Written :=
  let sg := if neg then fpSign f else 0
  let nx := r.nx || before
  if beyond f r.k r.q then writeOver f alt md neg r.up
  else
    let (_, w, _) := fpShape f
    let tiny := r.k < 2 ^ w
    ⟨sg + packFp f r.k r.q, (if nx then fNX else 0) ||| (if tiny && nx then fUF else 0), nx⟩

/-- A ratio (-1)^neg * num / den * 2^e rounded once to a floating-point format. -/
def ratioTo (f : Fmt) (alt : Bool) (md : Rnd) (draw : Nat) (neg : Bool) (num den : Nat) (e : Int) : Written :=
  if num = 0 then ⟨if neg then fpSign f else 0, 0, false⟩
  else writeRounded f alt md neg false (roundTo f md neg draw num den e)

/-- An infinity written to a floating-point format (04 R75): one made from finite values overflows, one that
comes from an infinite input does not. In E4M3, which has no infinity, the latter is saturated, inexactly, or
becomes a NaN that no NaN input gave (04 R79). -/
def writeInf (f : Fmt) (alt : Bool) (md : Rnd) (neg made : Bool) : Written :=
  let sg := if neg then fpSign f else 0
  if made then writeOver f alt md neg true
  else if noInf f then
    (if alt then ⟨0x7F, fNV, false⟩ else ⟨sg + fpMaxBits f, fSAT ||| fNX, true⟩)
  else ⟨sg + fpInfBits f, 0, false⟩

/-- An exact value rounded once to a floating-point format. before as in writeRounded. -/
def writeFpAfter (f : Fmt) (alt : Bool) (md : Rnd) (draw : Nat) (before : Bool) : XV → Written
  | .nan fresh => ⟨fpNan f, if fresh then fNV else 0, false⟩
  | .inf s made => writeInf f alt md s made
  | .num s m e =>
    if m = 0 then
      ⟨if s then fpSign f else 0, if before then fNX ||| fUF else 0, before⟩
    else writeRounded f alt md s before (roundTo f md s draw m 1 e)

/-- An exact value rounded once to a floating-point format. -/
def writeFp (f : Fmt) (alt : Bool) (md : Rnd) (draw : Nat) (v : XV) : Written :=
  writeFpAfter f alt md draw false v

/-- The F32 value that a rounding of a value gives; an infinity made from a finite value carries its mark
(04 R75, R86). -/
def f32Value (v : XV) (wr : Written) : XV :=
  match v, decodeFp 4 wr.bits with
  | .num _ _ _, .inf s _ => .inf s true
  | .nan f, .nan _ => .nan f
  | .inf _ m, .inf s _ => .inf s m
  | _, r => r

/-- A value rounded to F32 with RNE, as a value, and the flags of that rounding (04 R86 step 2, R88, R92). -/
def rne32 (v : XV) : XV × Flags :=
  let wr := writeFp 4 false .rne 0 v
  (f32Value v wr, wr.flags)

/-- The range of an integer format (04 R68, R77). -/
def intRange (f : Fmt) : Int × Int :=
  match f with
  | 1 => (-128, 127)
  | 2 => (-32768, 32767)
  | 3 => (-2147483648, 2147483647)
  | 14 => (-9223372036854775808, 9223372036854775807)
  | _ => (0, 255)

/-- The integer nearest to a magnitude in the word's mode, and whether that is inexact. -/
def roundInt (md : Rnd) (draw : Nat) (neg : Bool) (num den : Nat) (e : Int) : Nat × Bool :=
  let (k, r, d) := quantum num den e 0
  ((pickRnd md neg k r d draw).1, r != 0)

/-- A real value written to an integer format (04 R76). -/
def realToInt (f : Fmt) (md : Rnd) (draw : Nat) : XV → Written
  | .nan _ => ⟨0, fNV, false⟩
  | .inf s _ =>
    let (lo, hi) := intRange f
    ⟨wrapTo (fmtBits f) (if s then lo else hi), fSAT, false⟩
  | .num s m e =>
    let (lo, hi) := intRange f
    let (k, nx) := roundInt md draw s m 1 e
    let v : Int := if s then -(k : Int) else k
    if v < lo ∨ hi < v then ⟨wrapTo (fmtBits f) (if v < lo then lo else hi), fSAT ||| fNX, true⟩
    else ⟨wrapTo (fmtBits f) v, if nx then fNX else 0, nx⟩

/-- An integer-domain result written to an integer format (04 R77). sat is .S; N8 and RAW8 saturate whatever
the suffix, except where an entry says that a word wraps (log 40). -/
def intToInt (f : Fmt) (sat wraps : Bool) (v : Int) : Written :=
  let (lo, hi) := intRange f
  if (sat || (!wraps && (f == 0 || f == 13))) && (decide (v < lo) || decide (hi < v))
  then ⟨wrapTo (fmtBits f) (if v < lo then lo else hi), fSAT, false⟩
  else ⟨wrapTo (fmtBits f) v, 0, false⟩

/-- A result written to a real format (04 R86 steps 3 and 4): once to F32, or first to F32 in the word's mode,
with SR replaced by RNE, and then to the narrower format. An intermediate that became infinite overflows, whatever
the second rounding gives (04 R75). DEDUCED (log 55): where the mode keeps an intermediate beyond the F32 range at
the F32 largest (RTZ, and RDN or RUP away from their side), that largest value is what is converted: in BF16 it
is in range or not by its own rounding, so OF and SAT can stay clear, and NX is set.
DESIGN CHOICE (log 61): under SR with .ns, 04 R74 is applied to the exact result between its neighbours in the destination's
precision with an unbounded exponent, and an exact one counts as a. -/
def toReal (f : Fmt) (alt : Bool) (md : Rnd) (draw : Nat) (v : XV) : Written :=
  if f = 4 then writeFp 4 alt md draw v
  else
    let w1 := writeFp 4 false (if md = .sr then .rne else md) draw v
    match v, decodeFp 4 w1.bits with
    | .num s m e, .inf _ _ => writeOver f alt md s (roundTo f md s draw m 1 e).up
    | .num _ _ _, v1 => writeFpAfter f alt md draw w1.nx v1
    | _, _ => writeFp f alt md draw v

/-- A result of the real domain written to a destination format (04 R86 steps 3 and 4). -/
def realTo (f : Fmt) (alt : Bool) (md : Rnd) (draw : Nat) (v : XV) : Written :=
  if fmtInt f then realToInt f md draw v else toReal f alt md draw v

/-- A result of the integer domain, which R86 step 3 keeps exact, written to a destination format (04 R86
step 4): to a real one it is rounded once. DESIGN CHOICE (log 66): a zero of the integer domain has no sign, and is written as +0 in
every mode, RDN too (04 R72). -/
def intTo (f : Fmt) (alt wraps : Bool) (md : Rnd) (draw : Nat) (v : Int) : Written :=
  if fmtInt f then intToInt f alt wraps v else writeFp f alt md draw (XV.ofInt v)

/-- One draw of the stochastic-rounding generator (04 R73). -/
def drawNext (x : BitVec 32) : BitVec 32 :=
  let x := x ^^^ (x <<< 13)
  let x := x ^^^ (x >>> 17)
  x ^^^ (x <<< 5)

end Sys2Proof.Machine
end

