-- ==== Sys2Proof/Machine/State.lean ====
section
/-! DEFINITION. The state of one package (01 R7) as plain data, and the state right after a cold reset.
INVENTORY.md, '## State', lists every field with the rule that names it and its reset value. -/

namespace Sys2Proof.Machine

/-- Why the machine stops with a fault. -/
inductive Fault where
  /-- A home met an access outside the 384 GiB of device memory (11 R211). Raised by no meaning on an
  access the rules let leave a tile: translation refuses such addresses first (18 R341). Safe. -/
  | unmapped (addr : Nat)
  deriving DecidableEq, Repr

/-- Why the machine refuses a step. -/
inductive Refusal where
  /-- An instruction whose meaning is not written yet; raised by exec's arm alone. Safe. -/
  | notModelled (mnemonic : String)
  deriving DecidableEq, Repr

/-- A byte memory: rising addresses, no listed zero byte (log 5). -/
abbrev Mem := List Host.Cell

/-! ### Traps and waits -/

/-- The trap causes in the order of their codes (05 R114). -/
inductive Cause where
  | none | ill | illslot | late | pend | spmap | align | page | pipe | cwidth | wdog | preempt | debug | user
  deriving DecidableEq, Repr, Inhabited

/-- What a stalled word waits for, in the order of the DETAIL codes of WDOG from 1 (13 R296). -/
inductive Wait where
  | token | queue | bundle | barrier | mutex | semaphore | event | busy | answer | completion
  deriving DecidableEq, Repr, Inhabited

/-! ### A slot (01 R12) -/

/-- A loop frame (05 R109). -/
structure Loop where
  start : Nat
  stop  : Nat
  left  : Nat
  deriving DecidableEq, Repr

/-- The prefixes read of the unit at the PC (03 R47 to R50): how many words, and what they carry. -/
structure Prefixes where
  words : Nat
  k     : Option (BitVec 44)
  sm    : Option (SMod × SMod × SMod)
  deriving DecidableEq, Repr

/-- One issue slot. -/
structure SlotSt where
  /-- Address of the next unit (03 R50). -/
  pc      : BitVec 18
  pre     : Prefixes
  /-- Cycle from which the next word counts its IDLE (03 R52). -/
  base    : Nat
  /-- Fixed eligible cycle of the next word after ERET or a release (03 R60, 05 R118). -/
  due     : Option Nat
  running : Bool
  s       : Vector W64 32
  g       : Vector Bool 8
  loops   : List Loop
  /-- The wait of the stalled word, and the cycle since which it stalls (03 R53, 13 R296). -/
  stall   : Option (Wait × Nat)
  /-- Whether the stalled word has joined its queue or made its arrival (13 R278 to R280). -/
  joined  : Bool
  /-- PHASE that a waiting BARS must pass (13 R278), or the answer a record word awaits (13 R283). -/
  mark    : Nat
  /-- Whether the slot runs a drain stub, INDRN (13 R287). -/
  stub    : Bool
  /-- How the slot's part of a drain ended: none, or the end code of 13 R288. -/
  drained : Option Nat
  deriving DecidableEq, Repr

/-! ### Writes in flight -/

/-- Where a scheduled write goes. -/
inductive Tgt where
  /-- A scalar register; bank tells C's handler bank (05 R116). -/
  | reg (slot : Slot) (n : Fin 32) (bank : Bool) (v : W64)
  | grd (slot : Slot) (n : Fin 8) (bank : Bool) (v : Bool)
  | xreg (n : Fin 8) (v : W64)
  /-- Scratchpad bytes: address, mask of the bits written, value. -/
  | spad (l : List (Nat × Byte × Byte))
  /-- Sticky flags of slot V (04 R79). -/
  | vflags (f : BitVec 7)
  /-- Sticky flags of the matrix engine (06 R140). -/
  | mflags (f : BitVec 7)
  /-- A value for SQ (05 R95). -/
  | sq (v : W64)
  /-- An accumulator element, by byte offset in the accumulators' storage (06 R139). -/
  | acc (l : List (Nat × Byte))
  /-- Operand register bytes, by byte offset in their storage (06 R139). -/
  | opr (l : List (Nat × Byte))
  /-- The format tag of an operand register (06 R139). -/
  | tag (reg : Nat) (fmt : Nat)
  /-- A shadow level register, descriptor or MACC (06 R150). -/
  | shLevel (l : Fin 6) (v : W64)
  | shDesc (isB : Bool) (src : Nat) (base shape : W64)
  | shMacc (acc : Nat) (init : Bool)
  /-- CSET's change of mode (07 R171). -/
  | cset (v : W64)
  /-- CLDC's cells, with the cells that hold a record, and NT (07 R172). -/
  | cells (l : List (Nat × Byte)) (recs : List Nat) (nt : Nat)
  /-- Flags of CCFG raised by CRUN, CIDX and CLEAF, and PXM of MXP (07 R165, 06 R156). -/
  | missing
  | noleaf
  | pxm
  /-- CIDX's NOLEAF, set at the end of its cycle (07 R174). -/
  | noleafEnd
  /-- NS at the end of a CRUN (07 R173). -/
  | samples (n : Nat)
  /-- The engine state of an MREST image (06 R159). -/
  | mrest (img : List (Nat × Byte))
  deriving DecidableEq, Repr

/-- A fixed-latency write (03 R55): the cycle it is made, the slot, issue cycle and PC of its word, its target. -/
structure PendW where
  at_  : Nat
  slot : Slot
  iss  : Nat
  pc   : Nat
  tgt  : Tgt
  deriving DecidableEq, Repr

/-- A scoreboard entry (03 R57): slot, register code (operand code, plus 64 in the handler bank), cycle. -/
structure BoardE where
  slot : Slot
  code : Nat
  at_  : Nat
  deriving DecidableEq, Repr

/-- A pending bit (03 R57): 4-byte word address, cycle of the write, slot and issue cycle of its word. -/
structure Reserved where
  word : Nat
  at_  : Nat
  slot : Slot
  iss  : Nat
  deriving DecidableEq, Repr

/-- A write made at the end of a cycle (03 R56; 05 R117; 12 R258, R260; 11 R236; 13 R278 to R280). -/
inductive Eoc where
  | sysreg (slot : Slot) (num : Nat) (v : W64)
  | clearChain
  | arrAdd (i n : Nat)
  | arrSet (i n : Nat)
  | arrSub (i n : Nat)
  | bcbPost (i n : Nat)
  | bcbClear (i : Nat)
  | barArrive (slot : Slot) (b : Nat)
  | barCfg (b n : Nat)
  | mutexLeave (slot : Slot) (m : Nat)
  | semAdd (m n : Nat)
  | ended (slot : Slot)
  | held
  | mstat (mask : W64)
  | ccfg (mask : W64)
  | noleaf
  | ctbl (ent : Nat) (img : List Byte)
  | cclr (ent : Nat)
  | yields (pager : Bool)
  deriving DecidableEq, Repr

/-- A token push not yet in its FIFO (03 R43): FIFO, slot and issue cycle of the word, retirement cycle
where it is known. -/
structure TPush where
  fifo : Nat
  slot : Slot
  iss  : Nat
  at_  : Option Nat
  deriving DecidableEq, Repr

/-! ### Regions and the region pipeline of V (05 R100 to R105) -/

/-- A region descriptor with the format and scale table it takes at issue (04 R84, 05 R100). -/
structure Region where
  base   : Nat
  stride : Int
  count  : Nat
  fmt    : Nat
  list   : Bool
  tbase  : Nat
  gsz    : Nat
  deriving DecidableEq, Repr

/-- Conditions of CMP and VCMP (05 R99, R123). -/
inductive Cond where
  | eq | ne | lt | lts | le | les
  deriving DecidableEq, Repr

/-- The operation of a region word (05 R120). -/
inductive VOp where
  | add | sub | mul | fma | fms | fnma | min | max | abs | neg
  | and | or | xor | shl | shr | sra | cmp (c : Cond) | sel | cvt | qnt | dqnt
  | rcpe | rsqe | rcps | rsqs | exp2e | log2e | sum | dot | maxr | minr
  | iota (a b : W64) | fill (a : W64) | copy | part | gath | scat
  deriving DecidableEq, Repr

/-- A source of a region word: its region, its modifier, and the raw element of a broadcast (05 R105). -/
structure VSrc where
  reg  : Region
  mod  : SMod
  bcast : Option (Nat × Nat)
  deriving DecidableEq, Repr

/-- A region word whose beats are still being read (05 R103). -/
structure VJob where
  op    : VOp
  md    : Mode
  dst   : Region
  srcs  : List VSrc
  iss   : Nat
  pc    : Nat
  lat   : Nat
  ivl   : Nat
  count : Nat
  beat  : Nat
  /-- The domain: real, or integer of 64 or 32 bits (04 R86). -/
  real  : Bool
  wide  : Bool
  /-- State of the generator for the word's next draw (04 R73). -/
  seed  : BitVec 32
  /-- Real values kept for a later beat: a partial reduction, or an unfinished group of VQNT. -/
  vals  : List XV
  /-- Integers kept for a later beat: a partial reduction, or the outcomes of VPART. -/
  ints  : List Int
  /-- Flags to be set with a result still to come. -/
  fl    : BitVec 7
  /-- VPART: the lists' registers, descriptors and regions (05 R134). -/
  lists : List (Fin 32 × W64 × Region)
  deriving DecidableEq, Repr

/-! ### The matrix and Contour engine (06, 07) -/

/-- An operand descriptor: base and shape registers, and SRC (06 R143, R150). -/
structure Dsc where
  base  : W64
  shape : W64
  src   : Nat
  deriving DecidableEq, Repr

/-- The accumulator base and INIT (06 R150). -/
structure Macc where
  acc  : Nat
  init : Bool
  deriving DecidableEq, Repr

/-- The engine command in progress (06 R141). retire is none until its last cycle is known. -/
inductive EngKind where
  | mgo | mrest | msave | other
  deriving DecidableEq, Repr

structure EngCmd where
  kind   : EngKind
  iss    : Nat
  pc     : Nat
  retire : Option Nat
  deriving DecidableEq, Repr

/-- An operand of a nest (06 R143, R144): the operand register it is read from, or its place in the scratchpad. -/
structure Geo where
  reg    : Option Nat
  fmt    : Nat
  base   : Nat
  n      : Nat
  rp     : Nat
  tp     : Nat
  /-- The descriptor names no bank, and so no format (04 R84). -/
  noBank : Bool
  deriving DecidableEq, Repr

/-- A run of 06 R147 that is still open in one cell: its exact sum and the table entries it began with. -/
structure RunSt where
  sum  : XV
  entA : Nat
  entB : Nat
  deriving DecidableEq, Repr

/-- An update of an accumulator on the schedule of 06 R148: the number of its step, and for each cell the terms to add in
order. -/
structure AccUpd where
  at_   : Nat
  num   : Nat
  acc   : Nat
  zero  : Bool
  int   : Bool
  cells : List (List XV)
  deriving DecidableEq, Repr

/-- A nest that still has steps to start (06 R146 to R148). -/
structure Nest where
  lvl   : List W64
  ga    : Geo
  gb    : Geo
  /-- The BSCL registers as the MGO took them (04 R84). -/
  bscl  : List W64
  macc  : Macc
  kw    : Nat
  /-- Indices of the next step, level 0 first, the steps left, and its number from the nest's first. -/
  idx   : List Nat
  left  : Nat
  num   : Nat
  /-- T of 06 R138, and the cycle in which the next step starts. -/
  time  : Nat
  start : Nat
  int   : Bool
  /-- Cycle of the MSAVE that stops the nest (06 R157). -/
  stop  : Option Nat
  /-- The open run of each cell; an empty list when none is open. -/
  runs  : List (Option RunSt)
  /-- Cycle in which the last started step's update takes effect; none before the first step. -/
  lastUpd : Option Nat
  deriving DecidableEq, Repr

/-- A CRUN in progress (07 R173). -/
structure Crun where
  base   : Nat
  stride : Int
  fmt    : Nat
  count  : Nat
  /-- Samples whose group has been read, and the cycle in which the next group starts. -/
  done   : Nat
  start  : Nat
  deriving DecidableEq, Repr

/-- An MSAVE waiting for its cycle f (06 R157). -/
structure Msave where
  addr : Nat
  iss  : Nat
  pc   : Nat
  f    : Option Nat
  /-- Whether the nest that it stopped is suspended rather than complete. -/
  susp : Bool
  deriving DecidableEq, Repr

/-- The engine. -/
structure Eng where
  acc   : Mem
  opr   : Mem
  tags  : Vector (BitVec 4) 4
  lvl   : Vector W64 6
  slvl  : Vector W64 6
  adsc  : Dsc
  bdsc  : Dsc
  sadsc : Dsc
  sbdsc : Dsc
  macc  : Macc
  smacc : Macc
  go    : W64
  next  : Vector (BitVec 13) 6
  flags : BitVec 7
  pxm   : Bool
  susp  : Bool
  mode  : Bool
  acci  : BitVec 4
  ccfg  : W64
  recs  : List Nat
  cmd   : Option EngCmd
  nest  : Option Nest
  upds  : List AccUpd
  crun  : Option Crun
  save  : Option Msave
  deriving DecidableEq, Repr

def Dsc.reset : Dsc := ⟨0, 0, 0⟩
def Macc.reset : Macc := ⟨0, false⟩

/-- The engine as dispatch resets it (06 R142). -/
def Eng.reset : Eng where
  acc := []
  opr := []
  tags := Vector.replicate 4 15
  lvl := Vector.replicate 6 0
  slvl := Vector.replicate 6 0
  adsc := .reset
  bdsc := .reset
  sadsc := .reset
  sbdsc := .reset
  macc := .reset
  smacc := .reset
  go := 0
  next := Vector.replicate 6 0
  flags := 0
  pxm := false
  susp := false
  mode := false
  acci := 0
  ccfg := 0
  recs := []
  cmd := none
  nest := none
  upds := []
  crun := none
  save := none

/-! ### Errors (19 R355, R358) -/

/-- An error detected: where, the fabric tag of the packet in which it arose, if it did in one, the party that detects it
where that is not the one of its unit, the action in force at its detection where that was in an earlier cycle (19 R355), and
whether its address is a virtual one. -/
structure Err where
  site  : ErrSite
  ptag  : Option Nat := none
  party : Option Nat := none
  act   : Option Nat := none
  va    : Bool := false
  deriving DecidableEq, Repr

/-- An error that a word of a slot meets (04 R93, 19 R354): the slot's next word, or the word in flight at a PC, with the
value that TRAPV takes; and the action in force at its detection (19 R355). -/
structure Flaw where
  site : ErrSite
  word : Option (Nat × W64)
  act  : Nat
  deriving DecidableEq, Repr

/-! ### A tile (01 R12) -/

/-- What power shaping counts of a tile's engine (21 R403): the cycle in which the burst in progress began, the cycles in which the
engine has been busy within it, the cycle from which the engine is idle, and the cycles of its latest starts from idle. -/
structure Shaper where
  burst  : Option Nat
  spent  : Nat
  idle   : Nat
  starts : List Nat
  deriving DecidableEq, Repr

def Shaper.reset : Shaper := ⟨none, 0, 0, []⟩

/-- The task that a tile is bound to, as TASKID shows it (13 R273). -/
structure Bind where
  rcd    : Nat
  part   : Nat
  rank   : Nat
  ntm1   : Nat
  stages : Nat
  qm1    : Nat
  deriving DecidableEq, Repr

/-- The partition that a tile belongs to, as ASID shows it (18 R339). -/
structure Owner where
  part : Nat
  vf   : Nat
  asid : Nat
  deriving DecidableEq, Repr

/-- A drain-table entry (13 R287). -/
structure DrainEnt where
  lo   : Nat
  hi   : Nat
  stub : Nat
  slot : Nat
  deriving DecidableEq, Repr

/-- C's task stream while the handler runs (05 R116). -/
structure HeldC where
  pc    : BitVec 18
  base  : Nat
  due   : Option Nat
  stall : Option (Wait × Nat)
  joined : Bool
  mark  : Nat
  deriving DecidableEq, Repr

/-- What the sync bundle of a tile does in the cycle in progress (03 R54). -/
inductive Bundle where
  /-- No slot waits for a bundle, or only one slot is running. -/
  | free
  /-- Some member is not yet at its eligible cycle. -/
  | gather
  /-- Every member is eligible; go names the members that may issue: none while a member has another stall condition, all of
  them once none has, and those alone that raise a trap where one does. -/
  | act (go : List Slot)
  /-- The members' IDLE differ: ILL in the lowest-numbered member. -/
  | bad (slot : Slot)
  deriving DecidableEq, Repr

/-- A trap raised while INH = 1 (05 R116). -/
structure Double where
  slot   : Slot
  cause  : Cause
  detail : Nat
  pc     : Nat
  v      : W64
  /-- Whether it has been handed to the severity matrix. -/
  told   : Bool := false
  deriving DecidableEq, Repr

/-- A named barrier: CFG, PHASE and the slots that have arrived (13 R278). -/
structure Barrier where
  cfg   : Nat
  phase : BitVec 16
  arr   : List Slot
  deriving DecidableEq, Repr

/-- A mutex: its owner, and the slots that wait, in order (13 R279). -/
structure Mutex where
  owner   : Option Slot
  waiters : List Slot
  deriving DecidableEq, Repr

/-- A counting semaphore: its count, and the slots that wait, in order (13 R280). -/
structure Sem where
  count   : BitVec 32
  waiters : List Slot
  deriving DecidableEq, Repr

/-- A byte-counting barrier (12 R259). -/
structure Bcb where
  count  : Int
  armed  : Bool
  round  : BitVec 32
  excess : Bool
  deriving DecidableEq, Repr


/-! ### The queues of slot A (10 R190 to R193, 11 R220 to R222) -/

/-- A marker's kind (10 R193, R203, R204). -/
inductive Mark where
  | qmark
  | acq (sc : Scope)
  | rel (sc : Scope)
  deriving DecidableEq, Repr

/-- What a queue entry is. op is the minor of class 0xC without the .NR bit (03 R65). -/
inductive QKind where
  | load (w : Nat) (sgn : Bool)
  | store (w : Nat)
  | pf
  | atom (op : Nat) (dbl ret : Bool)
  | mark (m : Mark)
  deriving DecidableEq, Repr

/-- How far an entry's translation has come (11 R221): not made, a physical or host address, or a fault KIND. -/
inductive Trans where
  | pending
  | ok (pa : Nat)
  | faulted (kind : Nat)
  deriving DecidableEq, Repr

/-- A queue entry. need is the number of data entries it takes from SQ, data those it has. -/
structure QEnt where
  id   : Nat
  kind : QKind
  va   : W64
  cls  : Nat
  hint : Hint
  need : Nat
  data : List W64
  tr   : Trans
  /-- Of an ACQ marker: whether its INVAL has been made (10 R203). -/
  inv  : Bool
  deriving DecidableEq, Repr

/-- A reserved LQ entry (11 R220, R222, R238): not returned, its value, or a failure with the code of
19 R353 and the effective address. -/
inductive LqVal where
  | waiting
  | val (v : W64)
  | failed (code : Nat) (va : W64)
  deriving DecidableEq, Repr

structure LqEnt where
  id  : Nat
  /-- Effective address, width and sign extension of the entry that fills it. -/
  va  : W64
  w   : Nat
  sgn : Bool
  val : LqVal
  deriving DecidableEq, Repr

/-! ### Accesses and packets on their way (10 R187, R188) -/

/-- What an access does at its home (11 R212). -/
inductive AccOp where
  | read (n : Nat)
  | write (l : List Byte)
  | atom (op : Nat) (dbl : Bool) (data : List W64)
  deriving DecidableEq, Repr

/-- What awaits an access: a queue entry, a source or destination sector of a copy command (by sequence number), an
entry of a memory chain, or a posted write of the host. -/
inductive Who where
  | entry (id : Nat)
  | copyR (seq sec : Nat)
  | copyW (seq sec : Nat)
  | chain
  | host
  deriving DecidableEq, Repr

/-- An access. -/
structure Acc where
  id   : Nat
  tile : Nat
  pa   : Nat
  op   : AccOp
  hint : Hint
  who  : Who
  /-- The effective address. -/
  va   : W64
  deriving DecidableEq, Repr

/-- The answer to a read or a far atomic: its bytes, or a failure with the code of 19 R353. -/
inductive Ans where
  | val (l : List Byte)
  | failed (code : Nat)
  deriving DecidableEq, Repr

/-- The ledger of slot A's accesses: how far each has performed, as a scope from 1 SLOT to 5 SYS, 0 for not at all
(10 R201). An access that has performed at SYS scope is no longer listed. -/
structure Led where
  id    : Nat
  lvl   : Nat
  /-- Whether it is a load or a far atomic. -/
  read  : Bool
  /-- Whether it is a store or a far atomic. -/
  write : Bool
  deriving DecidableEq, Repr

/-- A FENCE that has issued and not retired (10 R202, 11 R225): scope, issue cycle, ledger bound, and the markers
whose acknowledgement is awaited. -/
structure Fence where
  scope : Scope
  iss   : Nat
  id    : Nat
  marks : List Nat
  deriving DecidableEq, Repr

/-! ### Packets of tiles and packages (14 R307, R308) -/

/-- A packet of the tensor-move unit, a collective or the fabric, by the fields of 14 R307. cmd is the number of the
command at its source tile, code the cause of a failure (20 R379) in an answer inside the package, glen the bytes that a
get asks for, held the HELD mark of 19 R365: none of the four is a field of the header. len and ecrc are LEN and ECRC as a packet in
transit bears them, via the port and the virtual channel whose buffer it takes. -/
structure Net where
  kind  : Nat
  tc    : Nat
  dpkg  : Nat
  spkg  : Nat
  dtile : Nat
  stile : Nat
  daddr : Nat
  saddr : Nat
  ctl   : Nat
  ptag  : Nat
  rtag  : Nat
  cid   : Nat
  step  : Nat
  src   : Nat
  seq   : Nat
  ent   : Nat
  op    : Nat
  data  : List Byte
  glen  : Nat
  cmd   : Nat
  code  : Nat
  /-- The fields that routers rewrite. -/
  vc    : Nat
  down  : Bool
  hops  : Nat
  igrp  : Option Nat
  tree  : Nat
  held  : Bool
  len   : Option Nat
  ecrc  : Option Nat
  via   : Option (Nat × Nat)
  deriving DecidableEq, Repr

def Net.reset : Net :=
  ⟨0, 0, 0, 0, 0, 0, 0, 0, 0, 0, 0, 0, 0, 0, 0, 0, 0, [], 0, 0, 0, 0, false, 0, none, 0, false, none, none, none⟩

/-! ### The collective tile table (14 R315 to R323) -/

/-- A contribution packet that awaits its CACK: peer, index, bytes, re-sends made, its command of the tensor-move queue, and how
far its write had performed once it was sent (10 R201, R205). -/
structure CSend where
  peer  : Nat
  seq   : Nat
  data  : List Byte
  tries : Nat
  cmd   : Nat
  lvl   : Nat
  deriving DecidableEq, Repr

/-- An entry. img is its image, taken by CTBL. -/
structure CEnt where
  img    : List Byte
  state  : Nat
  fired  : Bool
  srcreu : Bool
  locl   : Bool
  allfin : Bool
  dups   : Nat
  count  : Nat
  abrx   : Bool
  fail   : Bool
  ovr    : Bool
  nxerr  : Bool
  /-- Tags applied: source rank and packet index. -/
  tags   : List (Nat × Nat)
  /-- Peers whose FIN has been counted, as package times 256 plus tile. -/
  fins   : List Nat
  sent   : List CSend
  /-- Contribution packets not sent yet. -/
  left   : Nat
  /-- Words accepted, of which COUNT holds those that are committed. -/
  taken  : Nat
  /-- The ALLFIN condition of a barrier entry holds and its delay runs (21 R404). -/
  due    : Bool
  /-- Number of the CTBL that armed it: what an earlier arming left on its way changes nothing here. -/
  inc    : Nat
  deriving DecidableEq, Repr

def CEnt.reset : CEnt :=
  ⟨List.replicate 128 0, 0, false, false, false, false, 0, 0, false, false, false, false, [], [], [], 0, 0, false, 0⟩

/-! ### The copy engine (11 R230 to R239) -/

/-- What an entry of the chain window is: a command, or a link to a chain in memory. -/
inductive ChainKind where
  | cmd (toMem : Bool) (sd ga shape pitch : W64) (hint : Hint)
  | link (addr : W64)
  deriving DecidableEq, Repr

/-- An entry that the engine has not reached. id is its place among slot A's accesses once published. -/
structure ChainEnt where
  id   : Nat
  pub  : Bool
  kind : ChainKind
  deriving DecidableEq, Repr

/-- A command that has begun: destination sectors are numbered row by row, and so are source sectors. -/
structure CopyCmd where
  seq   : Nat
  /-- The window entry that it came from. -/
  ent   : Nat
  toMem : Bool
  sd    : W64
  ga    : W64
  shape : W64
  pitch : W64
  hint  : Hint
  /-- The scratchpad side's format, and the scale registers of the banks, as the command begins (04 R84). -/
  fmt   : Nat
  scl   : Vector W64 12
  /-- Its error code, 0 for none (11 R236); and whether it writes nothing more: poisoned data stops only the sectors that they
  would fill (11 R238). -/
  code  : Nat
  halt  : Bool
  /-- Whether its reads may be made: its acquire flag is served (10 R205). -/
  open_ : Bool
  got   : List (Nat × List Byte)
  /-- For each scratchpad source sector read, the scale-table entries of its elements as they stood then (04 R84). -/
  tabs  : List (Nat × List Nat)
  asked : List Nat
  /-- Source sectors whose value is fixed: read at a home, a cache or a scratchpad (10 R201, R205). -/
  reads : List Nat
  wrote : List Nat
  /-- Sectors sent by the party port, and sectors whose write has taken effect (10 R201). -/
  sent  : List Nat
  done  : List Nat
  deriving DecidableEq, Repr

/-- A walk of a memory chain (11 R235): its window entry, the address of the next entry, whether that entry's read
is on its way. -/
structure Walk where
  ent   : Nat
  addr  : W64
  asked : Bool
  deriving DecidableEq, Repr

/-- A copy fault that stops the chain (11 R239): KIND, address, and whether C has met it. -/
structure ChainStop where
  kind  : Nat
  va    : W64
  taken : Bool
  deriving DecidableEq, Repr

structure Chain where
  win   : List ChainEnt
  act   : List CopyCmd
  walk  : Option Walk
  /-- The number given to the latest command that the engine has reached. -/
  last  : Nat
  seq   : BitVec 32
  err   : Bool
  ecode : Nat
  stop  : Option ChainStop
  deriving DecidableEq, Repr

def Chain.reset : Chain := ⟨[], [], none, 0, 0, false, 0, none⟩

/-! ### Writes that have reached a tile and not committed (03 R56, 11 R215) -/

/-- What an asynchronous write changes. -/
inductive AsyncW where
  | spad (a : Nat) (l : List Byte)
  | istore (a : Nat) (l : List Byte)
  /-- The final commit of a put or get: an arrival counter, and bytes for a barrier (12 R254). -/
  | count (ctr : Option Nat) (bcb : Option (Nat × Nat))
  /-- Bytes of an operand staged by dispatch from a physical address (13 R271). -/
  | stage (a pa n : Nat)
  /-- A contribution's words accumulated by the operation of an entry, as CTBL number inc armed it (14 R316). -/
  | accum (ent inc op a : Nat) (l : List Byte)
  /-- An entry's COUNT raised by words applied; an event of an entry: 0 SRCREU, 2 ALLFIN (14 R319). -/
  | words (ent inc n : Nat)
  | event (ent inc bit : Nat)
  deriving DecidableEq, Repr

/-- What follows its COMMIT. -/
inductive AsyncDone where
  | nothing
  /-- A destination sector of a copy command has taken effect. -/
  | copied (seq sec : Nat)
  /-- A put is committed: its source is told, and PUTC written (12 R254, 20 R379). -/
  | put (x : Net)
  /-- A get of this tile is complete. -/
  | got (x : Net)
  /-- A contribution packet is applied: its CACK is sent (14 R317). -/
  | cack (ent inc : Nat) (x : Net)
  deriving DecidableEq, Repr

/-- An asynchronous write with its precedence within one cycle: 0 dispatch staging, 1 the copy engine, 2 an arriving
put, 3 the tensor-move unit (11 R215). Writes of one lane that is not 0 came over one path in their order (10 R200, R206,
R210). -/
structure Async where
  prec : Nat
  lane : Nat
  w    : AsyncW
  done : AsyncDone
  deriving DecidableEq, Repr

/-! ### The tensor-move unit (10 R200, 12 R252 to R254) -/

/-- A put, a get, or one peer's contribution of a collective, that has not completed. lvl is as in the ledger; 0 until it
has begun, that is, until its source has been read. -/
structure Tm where
  id   : Nat
  /-- Issue cycle. -/
  iss  : Nat
  get  : Bool
  tgt  : W64
  adr  : W64
  ctl  : W64
  lvl  : Nat
  /-- Source sectors read so far, by address (11 R216). -/
  data : List (Nat × List Byte)
  /-- Whether its packet has been placed on its path, and whether the INVAL of its acquire flag has been made. -/
  sent : Bool
  inv  : Bool
  /-- Whether every read of the command has its value: for a get, whether its target has read its bytes (10 R205). -/
  read : Bool
  /-- Of a contribution: entry, peer, and the packet that is read next (14 R317). -/
  coll : Option (Nat × Nat × Nat)
  deriving DecidableEq, Repr

/-! ### Translation (18 R342) -/

/-- A TLB entry: ASID, virtual and physical base, size, and the leaf entry. -/
structure TlbE where
  asid : Nat
  va   : Nat
  size : Nat
  leaf : W64
  deriving DecidableEq, Repr

/-! ### The causal domain (12 R241 to R250) -/

/-- What a packet carries. -/
inductive Body where
  /-- An access on its way to its home. -/
  | req (a : Acc)
  /-- The answer to a read or far atomic, with the line's bytes where the home offers a fill (10 R196). -/
  | resp (a : Acc) (ans : Ans) (line : Option (List Byte))
  /-- A fence marker of a tile (10 R202). -/
  | marker (tile id : Nat)
  /-- A packet of 14 R307. -/
  | net (x : Net)
  /-- A viral notice between parties (19 R361). -/
  | notice
  /-- A freeze packet: up from the tile that met the error, or down with its base die's row (20 R380). -/
  | freeze (up : Bool) (bysb : Bool) (gen : BitVec 2) (row : List (BitVec 10))
  deriving DecidableEq, Repr

/-- A packet, and where it goes: a party, and the end of a mesh path there (10 R187: tiles 0 to 63 as 4Q + T, L2 slices
64 to 79, the party port 80). -/
structure Pkt where
  id   : Nat
  body : Body
  dstP : Nat
  dstE : Nat
  deriving DecidableEq, Repr

/-- A stamped packet between parties (12 R242): source, generation, V, extension, index n of 20 R379. -/
structure DPkt where
  src : Nat
  gen : BitVec 2
  v   : List (BitVec 10)
  ext : Option (List (BitVec 10))
  num : Nat
  pkt : Pkt
  deriving DecidableEq, Repr

/-- A delivery report on its way (12 R245): the party that reports, its count, and credits returned. -/
structure Report where
  from_ : Nat
  count : BitVec 10
  creds : Nat
  deriving DecidableEq, Repr

/-- A party of 01 R9: 0 CD, 1 to 4 BD0 to BD3, 5 RD. -/
structure Party where
  /-- M[k][j] at 6k + j. -/
  m     : Vector (BitVec 10) 36
  dlv   : Vector (BitVec 10) 6
  dack  : Vector (BitVec 10) 6
  dirty : Vector Bool 6
  gen   : BitVec 2
  /-- Hold-buffer credits that the party holds towards each party (12 R246). -/
  cred  : Vector Nat 6
  /-- Shared entries of its own hold buffer that are granted to none, and those granted to each party (12 R246). -/
  shared : Nat
  lent  : Vector Nat 6
  /-- DLV as its last report to each party told it (12 R245). -/
  told  : Vector (BitVec 10) 6
  /-- Packets at the party port, by the path end they came from; 81 is the party itself. -/
  out   : Tab (List Pkt)
  hold  : List DPkt
  /-- Delivery reports on their way to this party. -/
  reps  : List Report
  /-- Entries of each source freed since the last report to it. -/
  freed : Vector Nat 6
  /-- The party's local cycle count (01 R13). -/
  cyc   : Nat
  viral : Bool
  bysb  : Bool
  deriving DecidableEq, Repr

def Party.reset : Party where
  m := Vector.replicate 36 0
  dlv := Vector.replicate 6 0
  dack := Vector.replicate 6 0
  dirty := Vector.replicate 6 false
  gen := 0
  cred := Vector.replicate 6 64
  shared := 704
  lent := Vector.replicate 6 0
  told := Vector.replicate 6 0
  out := []
  hold := []
  reps := []
  freed := Vector.replicate 6 0
  cyc := 0
  viral := false
  bysb := false

/-! ### Invalidations, drains and dispatch at a tile (13, 18 R347) -/

/-- An invalidation pending for a tile: its number, ASID, base and length, 0 for the whole ASID. -/
structure InvP where
  id   : Nat
  asid : Nat
  va   : Nat
  len  : Nat
  deriving DecidableEq, Repr

/-- A QPT whose acknowledgement waits for slot A's earlier accesses (13 R294): their bound, and the invalidations. -/
structure Qpt where
  lim  : Nat
  invs : List Nat
  deriving DecidableEq, Repr

/-- What a drain captures (13 R286). In each slot pc is the resume PC and due the shortfall; held is C's task PC and
shortfall while INH = 1. -/
structure Cap where
  sc     : SlotSt
  sa     : SlotSt
  sv     : SlotSt
  sm     : SlotSt
  hs     : Vector W64 8
  hg     : Vector Bool 4
  inh    : Bool
  trapc  : W64
  trappc : W64
  trapv  : W64
  held   : Option (Nat × Nat)
  x      : Vector W64 8
  tcfg   : W64
  flags  : BitVec 7
  srseed : W64
  bfmt   : Vector (BitVec 4) 12
  bscl   : Vector W64 12
  toks   : Vector Nat 16
  bars   : Tab Barrier
  muts   : Tab Mutex
  sems   : Tab Sem
  deriving DecidableEq, Repr

/-- A drain in progress (13 R285 to R290). -/
structure Drain where
  reason : Nat
  /-- t_r; and the capture once t_c has come. -/
  tr     : Nat
  cap    : Option Cap
  /-- Slots that had issued TASKEND. -/
  ended  : List Slot
  /-- Number of slot A's first access after t_r. -/
  lim    : Nat
  ranges : List (Nat × Nat)
  mimg   : Option Nat
  /-- The engine image that the device takes itself: asked for, and taken. -/
  want   : Bool
  image  : Option Mem
  /-- A FENCE that had not retired. -/
  fence  : Option Fence
  deriving DecidableEq, Repr

/-- A task bound to the tile whose START has not come (13 R271): its record, the entry addresses of its streams, whether it is
a restore, the offset of its image's code section, its drain table, and whether step 2 has loaded the tile. -/
structure Boot where
  rcd     : Nat
  base    : List Nat
  restore : Bool
  code    : Nat
  drains  : List DrainEnt
  loaded  : Bool
  deriving DecidableEq, Repr

/-- A tile. -/
structure Tile where
  cyc    : Nat
  phase  : Nat
  sc     : SlotSt
  sa     : SlotSt
  sv     : SlotSt
  sm     : SlotSt
  x      : Vector W64 8
  /-- The handler bank: C.s24 to C.s31, C.g4 to C.g7 (05 R116). -/
  hs     : Vector W64 8
  hg     : Vector Bool 4
  istore : Mem
  /-- Words changed since START that no ICLR has covered: address, old content, cycle of the change (05 R119). -/
  istOld : List (Nat × W64 × Nat)
  /-- Words that a fetch of the cycle in progress sees in their old content (05 R119). -/
  oldNow : List (Nat × W64)
  spad   : Mem
  bfmt   : Vector (BitVec 4) 12
  bscl   : Vector W64 12
  tcfg   : W64
  trapc  : W64
  trappc : W64
  trapv  : W64
  flags  : BitVec 7
  inh    : Bool
  srseed : W64
  sevm   : W64
  drnTab : List DrainEnt
  cntsel : Vector W64 8
  cnt    : Vector (BitVec 48) 8
  tally  : List (Nat × Nat × Nat)
  /-- What CNTSEL0-7 held in the cycle last ended, and 0 for a counter that an MTSR wrote at its end: under it count the moves
  made between that cycle and the next (21 R400, log 10). -/
  past   : Vector W64 8
  task   : Option Bind
  /-- The partition that the tile belongs to (18 R335, R339). -/
  owner  : Option Owner
  /-- Issue cycles of ICLRs that have not taken effect (05 R119). -/
  iclrs  : List Nat
  /-- Flags of TSTAT, of MST (bit 6 is PXM) and of CCFG set in the cycle in progress (00 R4). -/
  nowV   : BitVec 7
  nowM   : BitVec 7
  nowC   : BitVec 2
  pend   : List PendW
  board  : List BoardE
  reserved : List Reserved
  eoc    : List Eoc
  toks   : Vector Nat 16
  tpush  : List TPush
  vjobs  : List VJob
  vFree  : Nat
  eng    : Eng
  /-- Cycle of the trap that is being handled (03 R59, R60). -/
  trapT  : Option Nat
  heldC  : Option HeldC
  /-- The handler has issued TASKEND, so slot C issues no more words. -/
  hEnded : Bool
  double : Option Double
  /-- Cycle from which a debugger holds the tile (05 R118). -/
  hold   : Option Nat
  /-- No further word issues: killed or stopped by a viral move (19 R357, R361). -/
  killed : Bool
  bundle : Bundle
  /-- Events of the cycle in progress: slot number, or 4 for an engine, and the record (20 R378). -/
  evs    : List (Nat × BitVec 128)
  bars   : Tab Barrier
  muts   : Tab Mutex
  sems   : Tab Sem
  ctrs   : Tab (BitVec 32)
  bcbs   : Tab Bcb
  /-- Entries that have not left their queues, and the order of the two queues by entry number (11 R220). -/
  ents   : List QEnt
  laq    : List Nat
  saq    : List Nat
  /-- Entries that slot A's word of the cycle in progress places and that are translated in that cycle (log 42), each with
  the leaf walked for it where the TLB held none. -/
  ahead  : List (QEnt × Option TlbE)
  lq     : List LqEnt
  /-- Data that C has pushed and that no entry has taken yet (10 R188 DATA). -/
  sq     : List W64
  led    : List Led
  fence  : Option Fence
  /-- Path ends, and 128 plus the parties, that the tile has used since its last fence (10 R202). -/
  used   : List Nat
  /-- Answers that have reached the tile and not entered LQ (10 R188 RETURN). -/
  back   : List (Nat × Ans)
  chain  : Chain
  async  : List Async
  /-- One more than the precedence of the last COMMIT of the cycle in progress; 0 before the first (11 R215). -/
  comm   : Nat
  /-- Whether power shaping holds the tile's engine commands back in the cycle in progress (21 R403). -/
  shaped : Bool
  shaper : Shaper
  tmq    : List Tm
  tlb    : List TlbE
  /-- Number of slot A's next access. -/
  ids    : Nat
  /-- Packets that have reached the tile (10 R188), with the path's source end. -/
  inbox  : List (Nat × Pkt)
  coll   : Tab CEnt
  invals : List InvP
  qpts   : List Qpt
  drn    : Option Drain
  /-- A pre-emption request that a handler holds up, by its reason (13 R285). -/
  preq   : Option Nat
  boot   : Option Boot
  /-- Requests on their way to the tile, by reason. -/
  reqs   : List Nat
  /-- Checkers' and SRAMs' errors that words of the tile meet, and a slot whose stall watchdog has run out. -/
  flaws  : List Flaw
  wdog   : Option Slot
  deriving DecidableEq, Repr

def Prefixes.none : Prefixes := ⟨0, .none, .none⟩

def SlotSt.reset : SlotSt where
  pc := 0
  pre := .none
  base := 0
  due := none
  running := false
  s := Vector.replicate 32 0
  g := Vector.ofFn fun i => i == 0
  loops := []
  stall := none
  joined := false
  mark := 0
  stub := false
  drained := none

def Barrier.reset : Barrier := ⟨4, 0, []⟩
def Mutex.reset : Mutex := ⟨none, []⟩
def Sem.reset : Sem := ⟨0, []⟩
def Bcb.reset : Bcb := ⟨0, false, 0, false⟩

def Tile.reset : Tile where
  cyc := 0
  phase := 0
  sc := .reset
  sa := .reset
  sv := .reset
  sm := .reset
  x := Vector.replicate 8 0
  hs := Vector.replicate 8 0
  hg := Vector.replicate 4 false
  istore := []
  istOld := []
  oldNow := []
  spad := []
  bfmt := Vector.replicate 12 0
  bscl := Vector.replicate 12 0
  tcfg := 0
  trapc := 0
  trappc := 0
  trapv := 0
  flags := 0
  inh := false
  srseed := 0x9E3779B99E3779B9#64
  sevm := 0
  drnTab := []
  cntsel := Vector.replicate 8 0
  cnt := Vector.replicate 8 0
  tally := []
  past := Vector.replicate 8 0
  task := none
  owner := none
  iclrs := []
  nowV := 0
  nowM := 0
  nowC := 0
  pend := []
  board := []
  reserved := []
  eoc := []
  toks := Vector.replicate 16 0
  tpush := []
  vjobs := []
  vFree := 0
  eng := .reset
  trapT := none
  heldC := none
  hEnded := false
  double := none
  hold := none
  killed := false
  bundle := .free
  evs := []
  bars := []
  muts := []
  sems := []
  ctrs := []
  bcbs := []
  ents := []
  laq := []
  saq := []
  ahead := []
  lq := []
  sq := []
  led := []
  fence := none
  used := []
  back := []
  chain := .reset
  async := []
  comm := 0
  shaped := false
  shaper := .reset
  tmq := []
  tlb := []
  ids := 0
  inbox := []
  coll := []
  invals := []
  qpts := []
  drn := none
  preq := none
  boot := none
  reqs := []
  flaws := []
  wdog := none

/-! ### Recorder rings (20 R376 to R378) -/

structure Ring where
  /-- Events accepted and not yet written, oldest first; up to 64. -/
  queue  : List (BitVec 128)
  /-- Entries as they stand, oldest first; up to the ring's size. -/
  ents   : List (BitVec 128)
  lost   : Nat
  gap    : Nat
  total  : Nat
  frozen : Bool
  /-- Cycle of the last event offered, and how many events that cycle has accepted. -/
  stamp  : Nat
  count  : Nat
  deriving DecidableEq, Repr

def Ring.reset : Ring := ⟨[], [], 0, 0, 0, false, 0, 0⟩

/-! ### A base die and its compute die (01 R8) -/

/-- A line held by the L2 (11 R217, R219). -/
structure L2Line where
  line  : Nat
  dirty : Bool
  keep  : Bool
  deriving DecidableEq, Repr

/-- A page walk asked for by a tile (18 R341, R347): whether its result may enter the last-level TLB. -/
structure WalkReq where
  tile : Nat
  asid : Nat
  va   : Nat
  keep : Bool
  deriving DecidableEq, Repr

/-- The result of a walk: a translation, or a fault KIND. -/
structure WalkRes where
  tile : Nat
  asid : Nat
  va   : Nat
  res  : TlbE ⊕ Nat
  deriving DecidableEq, Repr

structure DieSt where
  /-- The remote-data cache: line number and bytes (10 R196). -/
  rdc   : List (Nat × List Byte)
  /-- Reads sent whose value may still fill the cache: access and line. -/
  fills : List (Nat × Nat)
  l2    : List L2Line
  tlb2  : List TlbE
  walks : List WalkReq
  found : List WalkRes
  /-- DIESTAT.S of the stage (19 R366). -/
  stat  : Nat
  /-- A warm reset or drop in progress: whether it drops the die, whether its tiles are quiet, and the ACCEPTED entries of the
  resets, of which each has its DONE or FAILED entry to come. -/
  quies : Option (Bool × Bool × List Nat)
  /-- Errors counted towards the drop threshold (19 R368). -/
  errs  : Nat
  deriving DecidableEq, Repr

def DieSt.reset : DieSt := ⟨[], [], [], [], [], [], 4, none, 0⟩

/-! ### Partitions (18 R335) -/

/-- A partition-table entry. -/
structure PartE where
  valid  : Bool
  vf     : Nat
  asid   : Nat
  ptag   : Nat
  tcmask : BitVec 8
  tiles  : Vector W64 4
  root   : Nat
  resimg : Nat
  fring  : W64
  /-- Extents: base and size in pages of 64 KiB. -/
  ext    : List (Nat × Nat)
  deriving DecidableEq, Repr

def PartE.reset : PartE := ⟨false, 0, 0, 0, 0, Vector.replicate 4 0, 0, 0, 0, []⟩

/-! ### The task graph (13 R263 to R275) -/

/-- A READY record in the central ready pool (13 R268). -/
structure PoolE where
  rcd    : Nat
  prio   : Nat
  passes : Nat
  deriving DecidableEq, Repr

/-- A reservation (13 R269): partition, record, target quads. -/
structure Resv where
  part  : Nat
  rcd   : Nat
  quads : List Nat
  deriving DecidableEq, Repr

/-- Why a task dies: STATUS, TRAPC, TRAPV, class and source (13 R275, 19 R371). -/
structure Dead where
  status : Nat
  trapc  : W64
  trapv  : W64
  cls    : Nat
  src    : Nat
  deriving DecidableEq, Repr

/-- A RUNNING task: its tiles by rank, the reason of a request in progress, whether it yields for pages (18 R345), ranks whose
frames are complete, and its death. -/
structure Run where
  rcd   : Nat
  part  : Nat
  tiles : List Nat
  req   : Option Nat
  pager : Bool
  saves : List Nat
  dead  : Option Dead
  deriving DecidableEq, Repr

/-- What CD keeps of a record beside its 256 bytes: NDISP, the JSEQ of the command that it follows, whether its frames
hold a save, its pinned translations (18 R349), and whether a resolve is held for its next YIELD #1 (18 R345). -/
structure RInfo where
  ndisp : Nat
  jref  : Nat
  saved : Bool
  pins  : List TlbE
  res   : Bool
  deriving DecidableEq, Repr

def RInfo.reset : RInfo := ⟨0, 0, false, [], false⟩

/-- The CHAIN and QUEUE areas of a frame, in the device's own form (13 R291). -/
structure SavedQ where
  chain : Chain
  ents  : List QEnt
  laq   : List Nat
  saq   : List Nat
  lq    : List LqEnt
  sq    : List W64
  led   : List Led
  back  : List (Nat × Ans)
  tmq   : List Tm
  fence : Option Fence
  tpush : List TPush
  coll  : Tab CEnt
  ids   : Nat
  /-- The out and inout operands of a tile whose slots have all ended, which no list names (17 R333, log 65). -/
  outs  : List (Nat × List Byte)
  deriving DecidableEq, Repr

def SavedQ.reset : SavedQ := ⟨Chain.reset, [], [], [], [], [], [], [], [], none, [], [], 0, []⟩

/-! ### The host's side of CD (18 R344, 21 R396) -/

structure Queue where
  base : W64
  size : Nat
  tail : BitVec 32
  head : BitVec 32
  err  : Nat
  stop : Bool
  /-- A tail written while the queue is stopped. -/
  late : Option (BitVec 32)
  /-- Units of the queue that CD has consumed (19 R371). -/
  used : Nat
  deriving DecidableEq, Repr

def Queue.reset : Queue := ⟨0, 0, 0, 0, 0, false, none, 0⟩

/-- A partition's fault ring: FSEQ of the latest record, held records, and whether one was dropped. -/
structure FRing where
  seq  : Nat
  held : List (List Byte)
  drop : Bool
  deriving DecidableEq, Repr

def FRing.reset : FRing := ⟨0, [], false⟩

/-- An invalidation in flight, with its ACCEPTED entry. -/
structure InvF where
  inv  : InvP
  jref : Nat
  deriving DecidableEq, Repr

/-- The viral state of the package (19 R361): class, source and action of the error, the party that moved first, owner
code of the ring that froze first, CD's cycle and the journal head at CD's move, and whether the Cartouche is sealed. -/
structure Viral where
  cls    : Nat
  src    : Nat
  act    : Nat
  party  : Nat
  origin : Nat
  cyc    : Nat
  jhead  : Nat
  done   : Bool
  deriving DecidableEq, Repr

/-- A Cartouche in assembly (20 R388): its capsule slot, the sections copied, the severity section as copied, and for each ring
copied the entries that failed their ECC, as a mask (20 R376). -/
structure Asm where
  slot : Nat
  done : List Nat
  sev  : List Byte
  bad  : Tab Nat
  deriving DecidableEq, Repr

/-- A snapshot (19 R374): buddy, partitions, reserve base, class, whether it has begun, packets without an
acknowledgement with their re-sends, and its ACCEPTED entry. -/
structure Snap where
  buddy : Nat
  mask  : W64
  base  : W64
  tc    : Nat
  begun : Bool
  wait  : List (Nat × Nat)
  jref  : Nat
  deriving DecidableEq, Repr

/-- What a snapshot holds (19 R374): its buddy and reserve base, its partitions, their entries and records with what CD keeps
beside them, the bytes of their extents, and its manifest: the hash of each chunk, and the signature. -/
structure Kept where
  buddy : Nat
  base  : W64
  mask  : W64
  parts : Tab PartE
  recs  : Mem
  rinfo : Tab RInfo
  saved : Tab SavedQ
  mem   : Mem
  hash  : List (List Byte)
  sig   : List Byte
  deriving DecidableEq, Repr, Inhabited

/-- A restore that waits until what its partitions are granted may pass to them (18 R336, 19 R374): the snapshot, the mask of
partitions, and its ACCEPTED entry. -/
structure Rest where
  kept : Kept
  mask : W64
  jref : Nat
  deriving DecidableEq, Repr

/-- What Plaquevan keeps of a seal for the views of a Cartouche (20 R391, R392, R394): the partitions that existed, and for each entry
of its journal tail one more than the partition that it shows, 0 for none. -/
structure CapMeta where
  live   : W64
  owners : List Nat
  deriving DecidableEq, Repr

def CapMeta.reset : CapMeta := ⟨0, []⟩

/-- What CD's non-volatile store keeps (19 R372, 20 R385, R389): CAPID last given, RESETS, the journal head, the
summary, and what its views need. -/
structure Nv where
  capid  : Nat
  resets : Nat
  jhead  : Nat
  summ   : List Byte
  sees   : CapMeta
  deriving DecidableEq, Repr

def Nv.reset : Nv := ⟨0, 0, 0, [], .reset⟩

/-! ### RD (14 R298 to R314) -/

/-- A flit (14 R299); good tells that its CRC passes and its zero bits are zero. -/
structure Flit where
  type : Nat
  seq  : BitVec 12
  ack  : BitVec 12
  ackv : Bool
  last : Bool
  pay  : List Byte
  good : Bool
  deriving DecidableEq, Repr

/-- What one flit puts on the lanes of a link, by physical lane: its byte in each byte-time, none for a fill symbol (14 R301). -/
abbrev Wire := List (Nat × List (Option Byte))

/-- One of the 576 ports. -/
structure Port where
  act    : BitVec 8
  shed   : BitVec 8
  up     : Bool
  rsh    : BitVec 16
  /-- Next sequence number sent, and next one expected. -/
  nseq   : BitVec 12
  exp    : BitVec 12
  /-- The largest acknowledgement held; none before the first. -/
  acked  : Option (BitVec 12)
  replay : List Flit
  gap    : Bool
  /-- Flits accepted since the last ACK was sent. -/
  since  : Nat
  epoch  : Nat
  /-- The mask that this end proposes while it awaits RSHACK; the epoch and mask it has answered. -/
  ini    : Option (BitVec 8)
  ans    : Option (Nat × BitVec 8)
  /-- Packets with a flit not acknowledged: the last flit's number and the packet. -/
  pkts   : List (BitVec 12 × Net)
  /-- The packet being received: header and data bytes so far. -/
  rx     : Option (List Byte)
  /-- Flits that have arrived on the lanes, and flits sent. -/
  inp    : List Wire
  out    : List Wire
  symth  : Nat
  rrth   : Nat
  /-- Buffer credits by virtual channel, 3 TC + VC, in flits: those held for the next hop, and those that it is still to be given
  for buffers freed here (14 R300, R309). -/
  room   : Vector Nat 24
  owed   : Vector Nat 24
  deriving DecidableEq, Repr

def Port.reset : Port :=
  ⟨0, 0, false, 0, 0, 0, none, [], false, 0, 0, none, none, [], none, [], [], 32, 64, Vector.replicate 24 0, Vector.replicate 24 0⟩

/-- A request to another package without an answer (14 R307, 19 R364). -/
structure Req where
  rtag : Nat
  pkt  : Net
  deriving DecidableEq, Repr

/-- Routing state: RCFG, TCW, FTMO, the topology as pairs of (1024 package + port, package), tree versions, packets at RD,
requests, the next tag, groups marked unreachable, packages timed out at every level by their viral notice, groups heard since
their timers began, packages that report HELD, RSH of LANEMAP. -/
structure Fab where
  rcfg    : W64
  tcw     : W64
  ftmo    : W64
  topo    : List (Nat × Nat)
  trees   : List (Nat × List (Nat × Nat))
  rdq     : List Net
  reqs    : List Req
  rtag    : Nat
  unreach : List Nat
  dead    : List Nat
  alive   : List Nat
  held    : List Nat
  rsh     : Nat
  /-- Ports that still have RD's viral notice to send (19 R361). -/
  notes   : List Nat
  deriving DecidableEq, Repr

def Fab.reset : Fab :=
  ⟨64, 0x0101010101010101#64, 0x000001F401F40032#64, [], [], [], [], 0, [], [], [], [], 0, []⟩

/-! ### What steps next -/

/-- A move: one part of a tile's cycle, or an event. -/
inductive Move where
  | tile (n : Nat)
  | event (i : Instr)
  deriving DecidableEq, Repr, Inhabited

/-- The word being issued: where, and with which control fields, constant and modifiers. mayGo and probe
serve the sync bundle (03 R54); ready is a probe's answer. -/
structure Cur where
  tile  : Nat
  slot  : Slot
  ctl   : Ctl
  k     : Option (BitVec 44)
  mods  : Option (SMod × SMod × SMod)
  mayGo : Bool
  /-- Whether the word's bundle is incomplete, so that none of its waits acts (03 R54). -/
  gather : Bool
  probe : Bool
  ready : Bool
  deriving DecidableEq, Repr

def Cur.reset : Cur := ⟨0, .c, ⟨0, false, ⟨false, 0⟩, ⟨false, 0⟩, .none⟩, none, none, true, false, false, false⟩


/-- The state of a package. -/
structure State where
  agenda : List Move
  free   : Nat
  cur    : Cur
  tiles  : Tab Tile
  /-- Tile rings 0 to 255, die rings 256 to 261 (20 R376). -/
  rings  : Tab Ring
  /-- PVAL, GROUP and MEMBER of COORD (01 R15). -/
  pval   : Bool
  group  : BitVec 17
  member : BitVec 9
  /-- SLEW (21 R402). -/
  slew   : W64
  /-- CLKMASK (12 R249). -/
  clkmask : W64
  /-- Packets on each mesh path, oldest first: key 6561 die + 81 source + destination (10 R187). -/
  paths  : Tab (List Pkt)
  /-- Packets that have reached the homes of a die, in order (10 R195). -/
  homes  : Tab (List Pkt)
  dies   : Tab DieSt
  parties : Tab Party
  /-- Packets on each inter-die link: key 6 source + destination (12 R243). -/
  links  : Tab (List DPkt)
  /-- Device memory by physical address, and its poisoned sectors (11 R211, 19 R360). -/
  dmem   : Mem
  poison : List Nat
  /-- Host memory by host address, and host accesses that CD has passed to the PCIe egress (10 R405), each with its requester
  id (18 R338). -/
  hmem   : Mem
  pcie   : List (Nat × Pkt)
  /-- Errors detected in the step, or the tile's cycle, in progress, not yet acted on (19 R355, R357). -/
  errs   : List Err
  /-- Entries of the severity matrix that differ from the default of their class: key 16 class + source (19 R355). -/
  matrix : Tab Nat
  /-- Number of the next packet. -/
  ids    : Nat
  parts  : Tab PartE
  /-- Partitions with a debugger attached (05 R118). -/
  dbg    : List Nat
  /-- Bring-up: training complete, and full service (21 R399). -/
  trained : Bool
  full   : Bool
  /-- Die counters (21 R401): key 32 party + index; selection and count. -/
  dcnt   : Tab (W64 × BitVec 48)
  /-- A resurvey in progress: parties that it removes, as a mask (12 R247). -/
  survey : Option Nat
  /-- Interrupts raised: function, and 0 fault, 1 error (18 R344, 19 R357). -/
  irqs   : List (Nat × Nat)
  /-- Launch records, 256 bytes each, by byte (13 R263). -/
  recs   : Mem
  rinfo  : Tab RInfo
  pool   : List PoolE
  resv   : List Resv
  runs   : List Run
  saved  : Tab SavedQ
  /-- PARTSETs held until their grants are cleared: partition, entry, ACCEPTED entry (18 R336). -/
  psets  : List (Nat × PartE × Nat)
  /-- Traffic classes with the PTAGs of their earlier owners (18 R336). -/
  oldTags : List (Nat × Nat)
  /-- The view images opened in this boot, each with the bytes that every read of it returns (20 R391); numbered by
  `viewNo`. -/
  views : Tab (List Byte)
  /-- WQ and WS of a partition where WDSET has set them, in microseconds; 2,000 each elsewhere (13 R295, R296). -/
  wd     : Tab (Nat × Nat)
  frings : Tab FRing
  invs   : List InvF
  /-- Number of the next invalidation. -/
  invn   : Nat
  /-- Migratable pages in the device's hands, whose old copies have been purged (10 R196, R208). -/
  mig    : List TlbE
  /-- Command queues: key 16 function + queue. -/
  queues : Tab Queue
  /-- Errors detected: key 16 class + source (20 R386). -/
  sevcnt : Tab Nat
  /-- JSEQ of the latest journal entry (19 R370). -/
  jseq   : Nat
  /-- By slot of the journal, one more than the partition whose record an entry names as it is written (19 R372). -/
  jown   : Tab Nat
  viral  : Option Viral
  /-- Capsule slot in assembly, and slots that hold a Cartouche (20 R384, R388). -/
  asm    : Option Asm
  caps   : Tab Nat
  sees   : Tab CapMeta
  snap   : Option Snap
  /-- The snapshot in progress as it began, and those that buddies hold. -/
  taken  : Option Kept
  kept   : List Kept
  /-- A restore whose grants are still to be cleared (18 R336). -/
  rest   : Option Rest
  /-- Partitions in reset whose tiles are still to be cleared (19 R357). -/
  wipe   : List Nat
  nv     : Nv
  ports  : Tab Port
  fab    : Fab
  deriving DecidableEq, Repr

/-- The package right after a cold reset (19 R362 and the maps of every chapter). -/
def State.reset : State where
  agenda := []
  free := 0
  cur := .reset
  tiles := []
  rings := []
  pval := false
  group := 0
  member := 0
  slew := 0x0001000000640000#64
  clkmask := 0
  paths := []
  homes := []
  dies := []
  parties := []
  links := []
  dmem := []
  poison := []
  hmem := []
  pcie := []
  errs := []
  matrix := []
  ids := 0
  parts := []
  dbg := []
  trained := false
  full := false
  dcnt := []
  survey := none
  irqs := []
  recs := []
  rinfo := []
  pool := []
  resv := []
  runs := []
  saved := []
  psets := []
  oldTags := []
  views := []
  wd := []
  frings := []
  invs := []
  invn := 0
  mig := []
  queues := []
  sevcnt := []
  jseq := 0
  jown := []
  viral := none
  asm := none
  caps := []
  sees := []
  snap := none
  taken := none
  kept := []
  rest := none
  wipe := []
  nv := .reset
  ports := []
  fab := .reset

end Sys2Proof.Machine
end

