-- ==== Sys2Proof/Config.lean ====
section
/-! DEFINITION. What the spec leaves to the device and fixes nowhere: constants without a body, so that
nothing can be proved about their values (log 2, log 3). -/

namespace Sys2Proof.Config

/-- The move that the device makes when nothing is on the agenda (10 R186: chosen freely among those that are
enabled). Applied to State.free. -/
opaque nextMove : Nat → Machine.Move

/-- A free value of 64 bits. Applied to State.free. -/
opaque freeWord : Nat → W64

/-- A free choice between two outcomes. Applied to State.free. -/
opaque freeBool : Nat → Bool

/-- A free count. Applied to State.free. -/
opaque freeNat : Nat → Nat

/-- Whether the host's IOMMU takes an access (18 R338, R351): the host decides it. Applied to State.free, the requester's function
and the 64 KiB page of the physical address. -/
opaque iommu : Nat → Nat → Nat → Bool

/-- The L2 slice hash, a fixed function of physical address bits [35:7] that the spec does not give (11 R217). -/
opaque sliceHash : Nat → Nat

/-- The identity key's hash, and the signature that Plaquevan makes with it (20 R385, R387): the key is the device's own. -/
opaque keyHash : List Byte
opaque sign : List Byte → List Byte

/-- The key K of the operator views, drawn at every reset of the package (20 R393). Applied to the resets made. -/
opaque viewKey : Nat → List Byte

/-- A checked snapshot that this package has not sent itself (19 R374). Applied to State.free. -/
opaque farSnapshot : Nat → Machine.Kept

end Sys2Proof.Config
end

