-- ==== Sys2Proof/Machine/Ops.lean ====
section
/-! DEFINITION. The named operations over registers, memories, scheduled writes and recorder events; taking a
trap (05 R116) and returning from one (03 R60), each once. -/

namespace Sys2Proof.Machine

/-! ### Numbers of slots and scopes -/

def Slot.num : Slot → Nat
  | .c => 0
  | .a => 1
  | .v => 2
  | .m => 3

def slotOf (n : Nat) : Slot :=
  match n % 4 with
  | 0 => .c
  | 1 => .a
  | 2 => .v
  | _ => .m

def allSlots : List Slot := [.c, .a, .v, .m]

/-! ### Tiles and slots -/

def State.tile (s : State) (n : Nat) : Tile := tget s.tiles Tile.reset n

def State.setTile (s : State) (n : Nat) (t : Tile) : State := { s with tiles := tset s.tiles n t }

def State.modTile (s : State) (n : Nat) (f : Tile → Tile) : State := s.setTile n (f (s.tile n))

def Tile.slot (t : Tile) : Slot → SlotSt
  | .c => t.sc
  | .a => t.sa
  | .v => t.sv
  | .m => t.sm

def Tile.setSlot (t : Tile) (k : Slot) (x : SlotSt) : Tile :=
  match k with
  | .c => { t with sc := x }
  | .a => { t with sa := x }
  | .v => { t with sv := x }
  | .m => { t with sm := x }

def Tile.modSlot (t : Tile) (k : Slot) (f : SlotSt → SlotSt) : Tile := t.setSlot k (f (t.slot k))

/-- The stage, quad and tile number of tile n, numbered as DTILE (01 R14, 14 R307). -/
def tileStage (n : Nat) : Nat := n / 64 % 4
def tileDie (n : Nat) : Nat := n % 4
def tileQuad (n : Nat) : Nat := n / 4 % 16

/-! ### Free values (log 3) -/

/-- A free 64-bit value, and the state that has used it. -/
def State.freeWord (s : State) : W64 × State := (Config.freeWord s.free, { s with free := s.free + 1 })

/-- Free bytes, eight from each free value. -/
def State.freeBytes (s : State) : Nat → List Byte × State
  | 0 => ([], s)
  | n + 1 =>
    let (w, s) := s.freeWord
    let (l, s) := s.freeBytes n
    (leBytes 8 w.toNat ++ l, s)

/-- A free choice, and the state that has used it. -/
def State.freeBool (s : State) : Bool × State := (Config.freeBool s.free, { s with free := s.free + 1 })

/-- A free count, and the state that has used it. -/
def State.freeNat (s : State) : Nat × State := (Config.freeNat s.free, { s with free := s.free + 1 })

/-! ### Registers -/

/-- Whether register n of slot k names the handler bank (05 R116). -/
def Tile.banked (t : Tile) (k : Slot) (n : Fin 32) : Bool := k == .c && t.inh && 24 ≤ n.val

/-- A scalar register as a word of slot k reads it; s0 reads zero (01 R12). -/
def Tile.readS (t : Tile) (k : Slot) (n : Fin 32) : W64 :=
  if n = 0 then 0
  else if t.banked k n then t.hs.get (Fin.ofNat 8 (n.val - 24))
  else (t.slot k).s.get n

/-- Whether guard n of slot k names the handler bank (05 R116). -/
def Tile.gbanked (t : Tile) (k : Slot) (n : Fin 8) : Bool := k == .c && t.inh && 4 ≤ n.val

/-- A guard as a word of slot k reads it; g0 is always 1 (01 R12). -/
def Tile.readG (t : Tile) (k : Slot) (n : Fin 8) : Bool :=
  if n = 0 then true
  else if t.gbanked k n then t.hg.get (Fin.ofNat 4 (n.val - 4))
  else (t.slot k).g.get n

/-- A scalar register written, in the bank given; a write to s0 is ignored (03 R45). -/
def Tile.writeS (t : Tile) (k : Slot) (n : Fin 32) (bank : Bool) (v : W64) : Tile :=
  if n = 0 then t
  else if bank then { t with hs := t.hs.set (Fin.ofNat 8 (n.val - 24)) v }
  else t.modSlot k fun x => { x with s := x.s.set n v }

/-- A guard written, in the bank given; a write to g0 is ignored (03 R45). -/
def Tile.writeG (t : Tile) (k : Slot) (n : Fin 8) (bank v : Bool) : Tile :=
  if n = 0 then t
  else if bank then { t with hg := t.hg.set (Fin.ofNat 4 (n.val - 4)) v }
  else t.modSlot k fun x => { x with g := x.g.set n v }

/-- The code by which the scoreboard names a register of slot k: its operand code, plus 64 in the handler
bank (03 R57). -/
def Tile.codeS (t : Tile) (k : Slot) (n : Fin 32) : Nat := n.val + if t.banked k n then 64 else 0
def Tile.codeG (t : Tile) (k : Slot) (n : Fin 8) : Nat := 32 + n.val + if t.gbanked k n then 64 else 0

/-! ### Scratchpad and instruction store -/

/-- A scratchpad byte with the bits of a mask replaced. -/
def Tile.spadMask (t : Tile) (a : Nat) (mask v : Byte) : Tile :=
  { t with spad := writeByte t.spad a ((readByte t.spad a &&& ~~~mask) ||| (v &&& mask)) }

/-- Scratchpad bytes written under masks. -/
def Tile.spadWrite (t : Tile) (l : List (Nat × Byte × Byte)) : Tile :=
  l.foldl (fun t p => t.spadMask p.1 p.2.1 p.2.2) t

/-- Whole scratchpad bytes as masked writes from an address on. -/
def wholeBytes (a : Nat) (l : List Byte) : List (Nat × Byte × Byte) :=
  (l.zipIdx a).map fun p => (p.2, 0xFF, p.1)

/-- The word of the instruction store at an address, as it stands. -/
def Tile.iword (t : Tile) (a : Nat) : W64 := w64 (readLe t.istore (a % 0x40000) 8)

/-- The word that a fetch of the cycle in progress finds: the store's, or an old content that was fetched ahead (05 R119). -/
def Tile.fetch (t : Tile) (a : Nat) : W64 :=
  match t.oldNow.find? fun p => p.1 == a % 0x40000 with
  | some p => p.2
  | none => t.iword a

/-- Whether any byte of a scratchpad range has a fixed-latency write pending (03 R57). -/
def Tile.pendingAt (t : Tile) (a n : Nat) : Bool :=
  t.reserved.any fun r => a < 4 * r.word + 4 && 4 * r.word < a + n

/-- Whether any byte of a range has a fixed-latency write scheduled after a cycle (03 R57). -/
def Tile.pendingAfter (t : Tile) (a n c : Nat) : Bool :=
  t.reserved.any fun r => c < r.at_ && a < 4 * r.word + 4 && 4 * r.word < a + n

/-- Pending bits set for bytes that a word issued at a cycle writes at another (03 R57). -/
def Tile.reserve (t : Tile) (k : Slot) (iss c : Nat) (l : List Nat) : Tile :=
  { t with reserved := t.reserved ++ ((l.map (· / 4)).eraseDups.map fun w => ⟨w, c, k, iss⟩) }

/-! ### The engine's part of scheduled writes (06, 07) -/

/-- An empty Contour cell: MASK all ones, zero elsewhere (07 R163). -/
def emptyCell : List Byte := leBytes 16 0xFFFFFFFFFFFFFFFF

/-- The cells' storage with every cell empty. -/
def blankCells : Mem := cellsFrom 0 ((List.range 1024).flatMap fun _ => emptyCell)

/-- CSET's change at t + 2 (07 R171). -/
def Eng.cset (e : Eng) (v : W64) : Eng :=
  if bitAt v 0 then
    { e with
      mode := true, susp := false, acci := 0, nest := none, recs := []
      ccfg := (e.ccfg &&& 0x60000000#64) ||| (v &&& 0x3FF7#64)
      acc := blankCells
      opr := [] }
  else
    { e with
      mode := false
      ccfg := e.ccfg &&& 0x60000000#64
      opr := [], tags := Vector.replicate 4 15, recs := [] }

/-- The cells of a CLDC placed, with NT written and NS cleared (07 R172). -/
def Eng.placeCells (e : Eng) (l : List (Nat × Byte)) (recs : List Nat) (nt : Nat) : Eng :=
  { e with
    acc := l.foldl (fun m p => writeByte m p.1 p.2) blankCells
    recs := recs
    ccfg := setFld (setFld e.ccfg 14 8 nt) 22 7 0 }

/-- A vector of 64-bit registers read from an image. -/
def imgRegs (img : Mem) (a : Nat) : Vector W64 6 := Vector.ofFn fun i => w64 (readLe img (a + 8 * i.val) 8)

/-- A descriptor of an image. DESIGN CHOICE (log 67): of its source the bits above [1:0] are dropped unchecked (06 R158). -/
def imgDsc (img : Mem) (a : Nat) : Dsc := ⟨w64 (readLe img a 8), w64 (readLe img (a + 8) 8), readLe img (a + 16) 8 % 4⟩

/-- An MACC of an image. DESIGN CHOICE (log 67): undefined bits of its bytes are dropped unchecked. -/
def imgMacc (img : Mem) (a : Nat) : Macc := ⟨readLe img a 1 % 4, readLe img (a + 1) 1 % 2 == 1⟩

/-- The bytes of an area of an image, moved to offset 0. -/
def imgArea (img : Mem) (a n : Nat) : Mem :=
  (img.filter fun c => a ≤ c.1 && c.1 < a + n).map fun c => (c.1 - a, c.2)

/-- The engine state of an image reinstated (06 R158, R159; 07 R178). Cells that differ from the empty cell are
taken to hold a record (log 41). The command and the nest in progress are the engine's own. SUSP follows FLAGS; DEDUCED (log 65): it
is cleared as the resumed nest retires, which then awaits nothing (06 R140). DESIGN CHOICE (log 67): the undefined bits of TAGS are
dropped unchecked. -/
def Eng.reinstate (e : Eng) (img : Mem) : Eng :=
  let mst := w64 (readLe img 8 8)
  let fl := readLe img 6 2
  let mode := fl / 2 % 2 == 1
  let acc := imgArea img 512 16384
  { e with
    acc := acc
    opr := imgArea img 16896 12288
    tags := if mode then Vector.replicate 4 15
      else Vector.ofFn fun i => BitVec.ofNat 4 (readLe img (248 + i.val) 1)
    lvl := imgRegs img 32
    slvl := imgRegs img 80
    adsc := imgDsc img 128
    bdsc := imgDsc img 152
    sadsc := imgDsc img 176
    sbdsc := imgDsc img 200
    macc := imgMacc img 224
    smacc := imgMacc img 232
    go := w64 (readLe img 240 8)
    next := Vector.ofFn fun i => BitVec.ofNat 13 (readLe img (16 + 2 * i.val) 2)
    flags := BitVec.ofNat 7 (fld mst 0 6)
    pxm := bitAt mst 16
    susp := fl % 2 == 1
    mode := mode
    acci := BitVec.ofNat 4 (fld mst 24 4)
    ccfg := w64 (readLe img 28 4)
    recs := if mode then (List.range 1024).filter fun c => readBytes acc (16 * c) 16 != emptyCell else [] }

/-! ### Scheduled writes (03 R55) -/

/-- One scheduled write made. -/
def Tile.apply (t : Tile) : Tgt → Tile
  | .reg k n bank v => t.writeS k n bank v
  | .grd k n bank v => t.writeG k n bank v
  | .xreg n v => { t with x := t.x.set n v }
  | .spad l => t.spadWrite l
  | .vflags f => { t with flags := t.flags ||| f, nowV := t.nowV ||| f }
  | .mflags f => { t with eng := { t.eng with flags := t.eng.flags ||| (f &&& 0x3F) }, nowM := t.nowM ||| (f &&& 0x3F) }
  | .sq v => { t with sq := t.sq ++ [v] }
  | .acc l => { t with eng := { t.eng with acc := l.foldl (fun m p => writeByte m p.1 p.2) t.eng.acc } }
  | .opr l => { t with eng := { t.eng with opr := l.foldl (fun m p => writeByte m p.1 p.2) t.eng.opr } }
  | .tag r f => { t with eng := { t.eng with tags := t.eng.tags.set (Fin.ofNat 4 r) (BitVec.ofNat 4 f) } }
  | .shLevel l v => { t with eng := { t.eng with slvl := t.eng.slvl.set l v } }
  | .shDesc isB src b sh =>
    if isB then { t with eng := { t.eng with sbdsc := ⟨b, sh, src⟩ } }
    else { t with eng := { t.eng with sadsc := ⟨b, sh, src⟩ } }
  | .shMacc a i => { t with eng := { t.eng with smacc := ⟨a, i⟩ } }
  | .cset v => { t with eng := t.eng.cset v }
  | .cells l recs nt => { t with eng := t.eng.placeCells l recs nt }
  | .missing => { t with eng := { t.eng with ccfg := t.eng.ccfg ||| 0x40000000#64 }, nowC := t.nowC ||| 2 }
  | .noleaf => { t with eng := { t.eng with ccfg := t.eng.ccfg ||| 0x20000000#64 }, nowC := t.nowC ||| 1 }
  | .noleafEnd => { t with eoc := t.eoc ++ [.noleaf] }
  | .pxm => { t with eng := { t.eng with pxm := true }, nowM := t.nowM ||| 0x40 }
  | .samples n => { t with eng := { t.eng with ccfg := setFld t.eng.ccfg 22 7 n } }
  | .mrest img => { t with eng := t.eng.reinstate img }

/-- Every scheduled write that is due, made in the order of 03 R55: within one slot in issue order, and a
higher-numbered slot's write last. Due scoreboard entries and pending bits end. -/
def Tile.applyDue (t : Tile) : Tile :=
  let due := t.pend.filter fun p => p.at_ ≤ t.cyc
  let t1 := allSlots.foldl (fun t k => (due.filter fun p => p.slot == k).foldl (fun t p => t.apply p.tgt) t) t
  { t1 with
    pend := t.pend.filter fun p => t.cyc < p.at_
    board := t.board.filter fun b => t.cyc < b.at_
    reserved := t.reserved.filter fun r => t.cyc < r.at_ }

/-- A write left to the end of the cycle in progress. -/
def Tile.atEnd (t : Tile) (e : Eoc) : Tile := { t with eoc := t.eoc ++ [e] }

/-- A write scheduled for a word of slot k that issues now. -/
def Tile.sched (t : Tile) (k : Slot) (at_ : Nat) (w : Tgt) : Tile :=
  { t with pend := t.pend ++ [⟨at_, k, t.cyc, (t.slot k).pc.toNat, w⟩] }

/-- A write put among those scheduled, after those of words that issued no later: within one slot the later-issued
word's write stands (03 R55). -/
def insPend (p : PendW) : List PendW → List PendW
  | [] => [p]
  | q :: r => if p.iss < q.iss then p :: q :: r else q :: insPend p r

/-- A write scheduled for a word of slot k that issued at a cycle, at a PC. -/
def Tile.schedAs (t : Tile) (k : Slot) (iss pc at_ : Nat) (w : Tgt) : Tile :=
  { t with pend := insPend ⟨at_, k, iss, pc, w⟩ t.pend }

/-- A scalar result of slot k, scheduled with its scoreboard entry; a write to s0 is ignored. -/
def Tile.schedS (t : Tile) (k : Slot) (n : Fin 32) (at_ : Nat) (v : W64) : Tile :=
  if n = 0 then t
  else
    let t1 := t.sched k at_ (.reg k n (t.banked k n) v)
    { t1 with board := t1.board ++ [⟨k, t.codeS k n, at_⟩] }

/-- A guard result of slot k, scheduled with its scoreboard entry. -/
def Tile.schedG (t : Tile) (k : Slot) (n : Fin 8) (at_ : Nat) (v : Bool) : Tile :=
  if n = 0 then t
  else
    let t1 := t.sched k at_ (.grd k n (t.gbanked k n) v)
    { t1 with board := t1.board ++ [⟨k, t.codeG k n, at_⟩] }

/-- An exchange-register result of slot k (05 R97). -/
def Tile.schedX (t : Tile) (k : Slot) (n : Fin 8) (at_ : Nat) (v : W64) : Tile :=
  let t1 := t.sched k at_ (.xreg n v)
  { t1 with board := t1.board ++ [⟨k, 40 + n.val, at_⟩] }

/-- Scratchpad bytes scheduled, with their pending bits (03 R57). -/
def Tile.schedSpad (t : Tile) (k : Slot) (at_ : Nat) (l : List (Nat × Byte × Byte)) : Tile :=
  if l.isEmpty then t else (t.sched k at_ (.spad l)).reserve k t.cyc at_ (l.map (·.1))

/-- The same for a word that issued at a cycle. -/
def Tile.schedSpadAs (t : Tile) (k : Slot) (iss pc at_ : Nat) (l : List (Nat × Byte × Byte)) : Tile :=
  if l.isEmpty then t else (t.schedAs k iss pc at_ (.spad l)).reserve k iss at_ (l.map (·.1))

/-- The cycle of the last write in flight in any slot, or the cycle in progress (05 R116). A nest that is broken off leaves the
updates of its earlier steps in flight. -/
def Tile.lastWrite (t : Tile) : Nat :=
  let a := t.pend.foldl (fun m p => max m p.at_) t.cyc
  let b := t.reserved.foldl (fun m p => max m p.at_) a
  let c := t.board.foldl (fun m p => max m p.at_) b
  let c := if t.eng.cmd.isNone then t.eng.upds.foldl (fun m u => max m u.at_) c else c
  t.vjobs.foldl (fun m j => max m (j.iss + j.lat + j.ivl * ((j.count + 63) / 64 - 1))) c

/-! ### Recorder events (20 R377, R379) -/

/-- An event record (20 R377). -/
def mkEvent (type slot flag part lcyc addr info : Nat) : BitVec 128 :=
  BitVec.ofNat 128 (type % 64 * 2 ^ 122 + slot % 4 * 2 ^ 120 + part % 64 * 2 ^ 114 + flag % 16 * 2 ^ 110
    + lcyc % 2 ^ 32 * 2 ^ 78 + addr % 2 ^ 48 * 2 ^ 30 + info % 2 ^ 30)

/-- The number of the partition that a tile serves: its task's, or its owner's. -/
def Tile.part (t : Tile) : Option Nat :=
  match t.task, t.owner with
  | some b, _ => some b.part
  | none, some o => some o.part
  | none, none => none

/-- A record of a tile in a cycle, attributed to the partition that holds the tile (19 R358); held tells that its target is held
(19 R365). -/
def Tile.recordFor (t : Tile) (held : Bool) (slot type cyc addr info : Nat) : BitVec 128 :=
  let h := if held then 1 else 0
  match t.part with
  | some p => mkEvent type slot (2 + h) p cyc addr info
  | none => mkEvent type slot h 0 cyc addr info

/-- A record of a tile that is its own target. -/
def Tile.record (t : Tile) (slot type cyc addr info : Nat) : BitVec 128 := t.recordFor t.hold.isSome slot type cyc addr info

/-- An event of a tile in one of its cycles: slot number, or 4 for an engine. -/
def Tile.eventAt (t : Tile) (cyc slot type addr info : Nat) : Tile :=
  { t with evs := t.evs ++ [(slot, t.record (if slot = 4 then 0 else slot) type cyc addr info)] }

/-- An event of the cycle in progress, and one that a move makes between two cycles, at the end of the earlier one. -/
def Tile.event (t : Tile) (slot type addr info : Nat) : Tile := t.eventAt t.cyc slot type addr info
def Tile.eventPast (t : Tile) (slot type addr info : Nat) : Tile := t.eventAt (t.cyc - 1) slot type addr info

/-- Counts for the event counters of the cycle in progress (21 R400): code, slot, number. -/
def Tile.count (t : Tile) (code slot n : Nat) : Tile := { t with tally := t.tally ++ [(code, slot, n)] }

/-- Whether a counter counts an event: enabled, its code, and its slot for codes 2 to 4 (21 R400). -/
def counts_ (sel : W64) (code slot : Nat) : Bool :=
  bitAt sel 0 && fld sel 8 8 == code && (code < 2 || 4 < code || bitAt sel (4 + slot))

/-- Events added to the counters that select them. -/
def Tile.tallied (t : Tile) (sel : Vector W64 8) (l : List (Nat × Nat × Nat)) : Tile :=
  { t with cnt := Vector.ofFn fun i =>
      l.foldl (fun c (code, slot, n) => if counts_ (sel.get i) code slot then c + BitVec.ofNat 48 n else c) (t.cnt.get i) }

/-- An event of a move of the device: one made between two cycles counts at the end of the earlier one, and stands behind the
MTSRs of that cycle (21 R400, log 10). -/
def Tile.countMove (t : Tile) (code slot n : Nat) : Tile :=
  if t.phase = 0 then t.tallied t.past [(code, slot, n)] else t.count code slot n

/-! ### Traps (05 R114 to R116, 03 R59, R60) -/

def Cause.code : Cause → Nat
  | .none => 0
  | .ill => 1
  | .illslot => 2
  | .late => 3
  | .pend => 4
  | .spmap => 5
  | .align => 6
  | .page => 7
  | .pipe => 8
  | .cwidth => 9
  | .wdog => 10
  | .preempt => 11
  | .debug => 12
  | .user => 13

/-- TRAPC for a cause, a slot and a detail (05 R114). -/
def trapcOf (cause : Cause) (k : Slot) (detail : Nat) : W64 :=
  w64 (cause.code + 256 * Slot.num k + 65536 * (detail % 65536))

/-- The queued requests of a slot's word withdrawn, joined and mark being what the word has noted: a waiter leaves its
queue, and a mutex granted to a word that has not issued passes on (13 R286). An arrival stands. -/
def Tile.withdrawAs (t : Tile) (k : Slot) (joined : Bool) (mark : Nat) : Tile :=
  { t with
    muts := t.muts.map fun p =>
      if joined && p.2.owner == some k && mark == p.1 + 65536 then
        (p.1, ⟨(p.2.waiters.filter (· != k)).head?, (p.2.waiters.filter (· != k)).tail⟩)
      else (p.1, { p.2 with waiters := p.2.waiters.filter (· != k) })
    sems := t.sems.map fun p => (p.1, { p.2 with waiters := p.2.waiters.filter (· != k) }) }

/-- The same of the word a slot waits with. -/
def Tile.withdraw (t : Tile) (k : Slot) : Tile := t.withdrawAs k (t.slot k).joined (t.slot k).mark

/-- Where a trap is taken (05 R116): TRAPC, TRAPPC and TRAPV written, INH set, C's task stream held, with the request that its
word still waits with, and slot C at the handler's address. The first word becomes eligible at max(t + 3, w + 1) plus its IDLE.
DESIGN CHOICE (log 64): R116 writes the record "in cycle t", and of the words of that cycle those of the slots above k, which
come after it, read it. -/
def Tile.enterTrap (t : Tile) (k : Slot) (cause : Cause) (detail : Nat) (v : W64) (pc : Nat) : Tile :=
  let t := t.withdraw k
  let c := t.sc
  let held : HeldC :=
    if k = Slot.c then ⟨c.pc, c.base, c.due, none, false, 0⟩ else ⟨c.pc, c.base, c.due, c.stall, c.joined, c.mark⟩
  let t1 := { t with
    trapc := trapcOf cause k detail
    trappc := w64 (pc % 0x40000 / 8 * 8)
    trapv := v
    inh := true
    hEnded := false
    trapT := some t.cyc
    heldC := some held
    sc := { c with
      pc := 0, pre := .none, base := max (t.cyc + 3) (t.lastWrite + 1), due := none, stall := none, joined := false, mark := 0 } }
  let t2 := (t1.event (Slot.num k) 0x01 (pc % 0x40000 / 8 * 8) (cause.code + 32 * (detail % 65536))).count 12 0 1
  t2.modSlot k fun x => if k = .c then x else { x with pre := .none, stall := none, joined := false, mark := 0 }

/-! ### The severity of a PIPE trap (19 R355 to R358) -/

/-- The default action of an error class (19 R356). -/
def sevDefault (c : Nat) : Nat :=
  [3, 1, 3, 1, 1, 3, 0, 2, 2, 1, 0, 1, 2, 2, 2, 2, 2, 2, 1, 1, 3, 3, 1, 2, 5, 1, 3, 2, 5, 5, 2, 3].getD c 0

/-- The action that the matrix sets for a class and source. -/
def State.action (s : State) (cls source : Nat) : Nat := tget s.matrix (sevDefault cls) (16 * cls + source)

/-- The class and source under which a PIPE trap of a code is reported (19 R353, R356). -/
def pipeClass (code : Nat) : Nat × Nat :=
  match code % 16 with
  | 0 => (0, 0)
  | 1 => (5, 5)
  | 2 => (8, 9)
  | _ => (26, 14)

/-- An error detected: the end of the step hands it to the severity matrix. -/
def State.report (s : State) (cls source unit slot addr detail : Nat) : State :=
  { s with errs := s.errs ++ [{ site := ⟨cls, source, unit, slot, addr, detail⟩ }] }

/-- An error of a tile's access that a party detects (19 R358, 20 R376). -/
def State.reportAt (s : State) (party cls source unit addr : Nat) : State :=
  { s with errs := s.errs ++ [{ site := ⟨cls, source, unit, 1, addr, 0⟩, party := some party }] }

/-- An error in a packet that bears a partition's fabric tag (19 R358). -/
def State.reportPkt (s : State) (cls source unit tag : Nat) : State :=
  { s with errs := s.errs ++ [{ site := ⟨cls, source, unit, 0, 0, 0⟩, ptag := some tag }] }

/-! ### Memory by physical address (11 R211, 21 R395) -/

def hostBase : Nat := 0x8000000000

/-- The party of a die (01 R9). -/
def partyOf (d : Nat) : Nat := d + 1

/-- The stack of a device address, the die of its home, and whether the address is backed. -/
def stackOf (pa : Nat) : Nat := pa / 0x1000000000
def homeDie (pa : Nat) : Nat := stackOf pa / 2 % 4
def backed (pa : Nat) : Bool := decide (pa < hostBase) && decide (pa % 0x1000000000 < 0xC00000000)

/-- The party behind which an address lies: CD for host memory, and the home's base die (10 R190, R405). -/
def homeParty (pa : Nat) : Nat := if hostBase ≤ pa then 0 else partyOf (homeDie pa)

/-- Whether an address lies behind a base die that has been removed, with which its stacks are lost (12 R250). -/
def State.lostAt (s : State) (pa : Nat) : Bool := decide (pa < hostBase) && bitAt s.clkmask (homeParty pa)

def State.readPa (s : State) (pa n : Nat) : List Byte :=
  if hostBase ≤ pa then readBytes s.hmem (pa - hostBase) n else readBytes s.dmem pa n

def State.writePa (s : State) (pa : Nat) (l : List Byte) : State :=
  if hostBase ≤ pa then { s with hmem := writeBytes s.hmem (pa - hostBase) l }
  else { s with dmem := writeBytes s.dmem pa l }

/-- Whether the host's IOMMU takes an access to a host page from a function's requester id: the host decides it, freely (18 R338,
R351; log 9). -/
def State.hostTakes (s : State) (fn pa : Nat) : Bool := Config.iommu s.free fn (pa / 65536)

/-! ### The partition table -/

def State.partE (s : State) (p : Nat) : PartE := tget s.parts PartE.reset p

/-! ### Interrupts and fault records (18 R344) -/

/-- An interrupt of a function raised: kind 0 fault, 1 error, 2 the PCIe fatal-error message. A viral CD raises none but that
message (19 R361). -/
def State.irq (s : State) (fn kind : Nat) : State :=
  if (tget s.parties Party.reset 0).viral then s else { s with irqs := s.irqs ++ [(fn, kind)] }

/-- A fault record, its DROPPED bit clear. -/
def faultBytes (va : W64) (rcd rank kind src asid seq : Nat) : List Byte :=
  leBytes 8 va.toNat ++ leBytes 2 rcd ++ leBytes 1 rank ++ leBytes 1 (kind % 16 + src % 4 * 16) ++ leBytes 2 asid ++
    leBytes 2 0 ++ leBytes 8 seq ++ leBytes 8 0

/-- A fault record written to its partition's ring, with the fault interrupt of its function. Its slot follows its FSEQ
(log 50). One that the IOMMU refuses is not written: class 26 of CD (18 R351); nor is one whose ring was lost with its base die:
class 8 (12 R248, R250). -/
def State.putFault (s : State) (p : Nat) (l : List Byte) : State :=
  let e := s.partE p
  let f := tget s.frings FRing.reset p
  let l := if f.drop then l.take 11 ++ ((l.drop 11).take 1).map (· ||| 0x80) ++ l.drop 12 else l
  let seq := fromLe ((l.drop 16).take 8)
  let at_ := fld e.fring 12 40 * 4096 + 32 * ((seq - 1) % 2 ^ (fld e.fring 0 4 + 6))
  let s : State := { s with frings := tset s.frings p { f with drop := false } }
  (if hostBase ≤ at_ && !s.hostTakes e.vf at_ then s.reportPkt 26 14 256 e.ptag
    else if s.lostAt at_ then s.reportPkt 8 9 256 e.ptag
    else s.writePa at_ l).irq e.vf 0

/-- The fault record of a PAGE trap, and its PAGEF event. Whether the ring has a free slot is the host's doing: a free
choice; without one CD holds up to 256 records (log 50). -/
def State.pageFault (s : State) (n : Nat) (k : Slot) (detail : Nat) (va : W64) : State :=
  let t := s.tile n
  let kind := detail % 16
  let src := detail / 2 ^ 14 % 4
  let s := s.setTile n (t.event (Slot.num k) 0x10 (fld va 8 48) (fld va 0 8 + kind * 2 ^ 8 + src * 2 ^ 12))
  match t.part with
  | none => s
  | some p =>
    if (tget s.parties Party.reset 0).viral then s
    else
      let f := tget s.frings FRing.reset p
      let seq := f.seq + 1
      let l := faultBytes va ((t.task.map (·.rcd)).getD 0xFFFF) ((t.task.map (·.rank)).getD 0) kind src (s.partE p).asid seq
      let (room, s) := s.freeBool
      let put (f : FRing) : State := { s with frings := tset s.frings p f }
      if room && f.held.isEmpty then (put { f with seq := seq }).putFault p l
      else if f.held.length < 256 then put { f with seq := seq, held := f.held ++ [l] }
      else put { f with seq := seq, held := f.held.tail ++ [l], drop := true }

/-! ### Taking a trap -/

/-- Whether the action in force for an error of a tile acts in the place of its PIPE trap: KILL or above, with what it is to act
on (19 R357, R358). -/
def State.overrides (s : State) (n act : Nat) : Bool :=
  let t := s.tile n
  decide (3 ≤ act) && (t.task.isSome || act == 5 || (act == 4 && t.owner.isSome))

/-- The end of a stub at a trap or a timeout: its slot takes the default drain (13 R288). -/
def Tile.dropStub (t : Tile) (k : Slot) : Tile :=
  (t.withdraw k).modSlot k fun x => { x with
    stub := false, running := false, drained := some 2, pre := .none, stall := none, joined := false, mark := 0 }

/-- A PIPE trap of a class and source, with its PIPEC event. It is reported; where the action in force at its detection is KILL
or above that action acts in its place, in a stub and while INH = 1 too (19 R357). DEDUCED (log 57): during a drain the trap of a slot that
runs no stub, as of a nest that its MSAVE is stopping, is reported and not taken. -/
def State.pipeTrap (s : State) (n : Nat) (k : Slot) (cls src detail : Nat) (v : W64) (pc act : Nat) : State :=
  let t := (s.tile n).event (Slot.num k) 0x05 (pc % 0x40000 / 8 * 8) (detail / 16 % 16)
  let e : Err := { site := ⟨cls, src, n, Slot.num k, v.toNat, detail⟩, act := some act, va := cls != 2 }
  let s := { s with errs := s.errs ++ [e] }
  s.setTile n (
    if s.overrides n act then { t with killed := true, trapT := some t.cyc }
    else if t.drn.isSome then (if (t.slot k).stub then t.dropStub k else t)
    else if t.inh then { t with double := some ⟨k, .pipe, detail, pc, v, false⟩, killed := true }
    else t.enterTrap k .pipe detail v pc)

/-- Taking a trap that slot k raises in the cycle in progress, with the value TRAPV takes where the rules state one
(a free value where they do not). A trap of another slot that came first in the same cycle wins (03 R59). One raised in a
drain stub ends the stub (13 R288); one raised while INH = 1 is a double trap, which the end of the cycle hands to the
severity matrix (05 R116). -/
def State.takeTrap (s : State) (n : Nat) (k : Slot) (cause : Cause) (detail : Nat) (v : Option W64) (pc : Nat) :
    State :=
  let t := s.tile n
  if t.trapT = some t.cyc then s
  else if (t.slot k).stub ∧ cause ≠ .pipe then
    (if cause = .page then s.pageFault n k detail (v.getD 0) else s).modTile n fun t => t.dropStub k
  else
    let (v, s) := match v with
      | some v => (v, s)
      | none => s.freeWord
    if t.inh ∧ cause ≠ .pipe then s.setTile n { t with double := some ⟨k, cause, detail, pc, v, false⟩, killed := true }
    else match cause with
      | .pipe =>
        let (cls, src) := pipeClass detail
        s.pipeTrap n k cls src detail v pc (s.action cls src)
      | .page => (s.pageFault n k detail v).modTile n fun t => t.enterTrap k .page detail v pc
      | c => s.setTile n (t.enterTrap k c detail v pc)

/-- Whether a slot has another word to issue: its task's or, in slot C, its handler's. -/
def Tile.goesOn (t : Tile) (k : Slot) : Bool := (t.slot k).running || (k == .c && t.inh && !t.hEnded)

/-- IDLE of the word at the end of a unit's prefixes, as the store holds it (03 R40, R50). -/
def Tile.idleAt (t : Tile) : Nat → Nat → Nat
  | 0, a => fld (t.iword a) 54 10
  | n + 1, a =>
    let w := t.iword a
    if fld w 30 10 = 0x0BF ∨ fld w 30 10 = 0x0BE then t.idleAt n (a + 8) else fld w 54 10

/-- The cycle at which each slot's next unit is eligible, fixed as the store now stands: its shortfall is held from here on
(05 R116 point 4, R118). At a trap slot C's stands in heldC. -/
def Tile.holdDues (t : Tile) (trap : Bool) : Tile :=
  let due (d : Option Nat) (base : Nat) (pc : BitVec 18) : Option Nat := some (d.getD (base + t.idleAt 2 pc.toNat))
  let ks : List Slot := if trap then [.a, .v, .m] else allSlots
  let t1 := { t with heldC := t.heldC.map fun h => { h with due := due h.due h.base h.pc } }
  ks.foldl (fun u k => u.modSlot k fun x => { x with due := due x.due x.base x.pc }) t1

/-- The shortfall d of a slot whose next unit is at pc, at cycle c (03 R60). -/
def Tile.shortfall (t : Tile) (pc base : Nat) (due : Option Nat) (c : Nat) : Nat :=
  (match due with
    | some q => q
    | none => base + t.idleAt 2 pc) - c

/-- A slot resumed at cycle e after issue stopped at cycle c (03 R60). -/
def Tile.resumeSlot (t : Tile) (k : Slot) (e c : Nat) : Tile :=
  let x := t.slot k
  let d := t.shortfall x.pc.toNat x.base x.due c
  t.setSlot k { x with due := some (e + 3 + d), base := e + 3, pre := .none }

/-- The task's streams taken up again at cycle e, as a return from a trap leaves them: INH := 0, every slot with its
shortfall, and the trapping slot at TRAPPC, eligible at once. -/
def Tile.unwind (t : Tile) (e : Nat) : Tile :=
  let c := t.trapT.getD e
  let ts := slotOf (fld t.trapc 8 2)
  let t := match t.heldC with
    | some h => { t with sc := { t.sc with
        pc := h.pc, pre := .none, base := h.base, due := h.due, stall := h.stall, joined := h.joined, mark := h.mark } }
    | none => t
  let t := allSlots.foldl (fun t k => t.resumeSlot k e c) { t with inh := false, hEnded := false }
  let t := t.modSlot ts fun x => { x with
    pc := BitVec.ofNat 18 (fld t.trappc 0 18), pre := .none, due := some (e + 3), stall := none, joined := false }
  { t with trapT := none, heldC := none }

/-- The return from a trap at cycle e (03 R60, 05 R117). -/
def Tile.returnTrap (t : Tile) (e : Nat) : Tile := (t.unwind e).event 0 0x02 (fld t.trappc 0 18) 0

/-- Whether the bring-up service lacks a format: it has RAW8, F32 and BF16 alone (21 R399). -/
def State.lacks (s : State) (f : Fmt) : Bool := !s.full && f != RAW8 && f != F32 && f != BF16

/-- The formats of a word that the service of 21 R399 has. -/
def State.offers (s : State) (ok : Fmt → Bool) (f : Fmt) : Bool := ok f && !s.lacks f

/-- The state code in DIESTAT of a compute die that is admitted: in the bring-up service D0 alone is (19 R366, 21 R399). -/
def State.served (s : State) (d : Nat) : Nat := if s.full || d == 0 then 0 else 4

end Sys2Proof.Machine
end

