-- ==== Sys2Proof/Machine/Operands.lean ====
section
/-! DEFINITION. Every operand form of a word, read at its issue (03 R45, 05 R95, R96): registers, constants, K,
the load data queue and the store data queue; the scoreboard's checks (03 R57); and the one operation by which a
word issues, waits or traps (03 R42 to R60). -/

namespace Sys2Proof.Machine

/-- The constants of codes 56 to 63 (03 R45). -/
def conVal (n : Fin 8) : W64 :=
  match n.val with
  | 0 => 0
  | 1 => 1
  | 2 => 2
  | 3 => 3
  | 4 => 4
  | 5 => 8
  | 6 => 16
  | _ => BitVec.allOnes 64

/-- The constant of the PFX.K before the word, sign-extended (03 R47). -/
def kVal (c : Cur) : W64 := (c.k.getD 0).signExtend 64

/-- A source other than LQ. -/
def Tile.readSrc (t : Tile) (c : Cur) : Src → W64
  | .s n => t.readS c.slot n
  | .x n => t.x.get n
  | .lq => 0
  | .k => kVal c
  | .con n => conVal n

/-- The values of a word's sources in field order; each LQ field takes the next popped value (05 R95). -/
def Tile.readSrcs (t : Tile) (c : Cur) : List Src → List W64 → List W64
  | [], _ => []
  | .lq :: r, q :: qs => q :: t.readSrcs c r qs
  | x :: r, qs => t.readSrc c x :: t.readSrcs c r qs

/-- The n-th value of a word's sources. -/
def nth (v : List W64) (n : Nat) : W64 := v.getD n 0

/-! ### The load data queue and the store data queue (11 R220, R222, R238) -/

/-- A trap to raise: cause, DETAIL, TRAPV where the rules state it. -/
structure TrapReq where
  cause  : Cause
  detail : Nat
  v      : Option W64
  deriving DecidableEq, Repr

/-- What the queues answer to a word: values, a wait, or a trap. -/
inductive QAns where
  | ok (v : List W64)
  | wait
  | trap (r : TrapReq)
  deriving DecidableEq, Repr

/-- The entry of a queue with a number. -/
def Tile.ent (t : Tile) (id : Nat) : Option QEnt := t.ents.find? fun e => e.id == id

/-- The PAGE trap of a faulted entry (11 R222): SRC, KIND and the effective address. -/
def pageTrap (src kind : Nat) (va : W64) : TrapReq := ⟨.page, src * 16384 + kind, some va⟩

/-- The values that n LQ fields would pop, in order (05 R95, 11 R222, R238). -/
def Tile.lqPeek (t : Tile) : Nat → List LqEnt → QAns
  | 0, _ => .ok []
  | _ + 1, [] => .wait
  | n + 1, e :: r =>
    match e.val with
    | .val v =>
      match t.lqPeek n r with
      | .ok vs => .ok (v :: vs)
      | x => x
    | .failed code va => .trap ⟨.pipe, code, some va⟩
    | .waiting =>
      match t.ent e.id with
      | some q =>
        match q.tr with
        | .faulted kind => .trap (pageTrap 0 kind q.va)
        | _ => .wait
      | none => .wait

/-- Data pushes of C that have issued and not reached the queue. -/
def Tile.sqFlight (t : Tile) : Nat :=
  (t.pend.filter fun p => match p.tgt with
    | .sq _ => true
    | _ => false).length

/-- The entries that lack data, oldest first, one per missing datum; the flag marks an entry's first datum. -/
def lackingOf (l : List QEnt) : List (QEnt × Bool) :=
  l.flatMap fun e => (List.range (e.need - e.data.length)).map fun i => (e, e.data.length + i == 0)

def Tile.lacking (t : Tile) : List (QEnt × Bool) := lackingOf (t.saq.filterMap t.ent)

/-- Whether a push to SQ may issue (03 R45, 11 R222, R240): not before the entry that it fills is placed, be it by slot A's
word of the same cycle, and translated (log 42). -/
def Tile.sqCheck (t : Tile) : QAns :=
  if 32 ≤ t.sq.length + t.sqFlight then .wait
  else match (t.lacking ++ lackingOf (t.ahead.map (·.1)))[t.sq.length + t.sqFlight]? with
    | some (e, true) =>
      match e.tr with
      | .pending => .wait
      | .ok _ => .ok []
      | .faulted kind => .trap (pageTrap 1 kind e.va)
    | some (_, false) => .ok []
    | none => .wait

/-- One pushed value given to the oldest entry that lacks data, where there is one (10 R188 DATA). -/
def Tile.giveData (t : Tile) (v : W64) : Option Tile :=
  match t.lacking with
  | (e, _) :: _ => some { t with ents := t.ents.map fun q => if q.id = e.id then { q with data := q.data ++ [v] } else q }
  | [] => none

/-- Pushed values given to waiting entries, in order, as far as they go. -/
def Tile.joinList (t : Tile) : List W64 → Tile
  | [] => { t with sq := [] }
  | v :: r =>
    match t.giveData v with
    | some t' => t'.joinList r
    | none => { t with sq := v :: r }

/-- Every datum in SQ given to the oldest entries that lack data (10 R188 DATA). -/
def Tile.joinData (t : Tile) : Tile := t.joinList t.sq

/-! ### The scoreboard's checks (03 R57) -/

/-- A register that a word writes. -/
inductive Out where
  | s (n : Fin 32)
  | g (n : Fin 8)
  | x (n : Fin 8)
  deriving DecidableEq, Repr

/-- The scoreboard code and the operand code of an output; none for the registers that ignore writes. -/
def Tile.outCode (t : Tile) (k : Slot) : Out → Option (Nat × Nat)
  | .s n => if n = 0 then none else some (t.codeS k n, n.val)
  | .g n => if n = 0 then none else some (t.codeG k n, 32 + n.val)
  | .x n => some (40 + n.val, 40 + n.val)

/-- The same of a source. -/
def Tile.srcCodeOf (t : Tile) (k : Slot) : Src → Option (Nat × Nat)
  | .s n => t.outCode k (.s n)
  | .x n => t.outCode k (.x n)
  | .lq | .k | .con _ => none

/-- The operand code that raises LATE, if any (03 R57): a source whose pending write comes after the read, or an
output scheduled at or before a pending write. -/
def Tile.lateCode (t : Tile) (k : Slot) (srcs : List Src) (grds : List (Fin 8)) (outs : List (Out × Nat)) : Option Nat :=
  let mine := t.board.filter fun b => b.slot == k && t.cyc < b.at_
  let reads := srcs.filterMap (t.srcCodeOf k) ++ grds.filterMap fun g => t.outCode k (.g g)
  match reads.find? fun c => mine.any fun b => b.code == c.1 with
  | some c => some c.2
  | none =>
    (outs.filterMap fun o => (t.outCode k o.1).map fun c => (c, o.2)).findSome? fun p =>
      if mine.any fun b => b.code == p.1.1 && t.cyc + p.2 ≤ b.at_ then some p.1.2 else none

/-! ### Tokens (03 R43) -/

/-- The FIFO that carries tokens from one slot to another. -/
def fifoOf (src dst : Nat) : Nat := src % 4 * 4 + dst % 4

/-- The FIFO that a token action pops. -/
def popFifo (k : Slot) : Tok → Option Nat
  | .pop i => some (fifoOf (Slot.num k + i.val + 1) (Slot.num k))
  | .none | .push _ => none

/-- The FIFO that a token action pushes. -/
def pushFifo (k : Slot) : Tok → Option Nat
  | .push i => some (fifoOf (Slot.num k) (Slot.num k + i.val + 1))
  | .none | .pop _ => none

def Tile.tokens (t : Tile) (f : Nat) : Nat := t.toks.get (Fin.ofNat 16 f)

/-- Whether the word's token action lets it issue (03 R43). DESIGN CHOICE (log 66): the place that a pop of the same cycle frees in a
full FIFO is there for a push of a slot above the popping one, and not for one of a slot below it. -/
def Tile.tokenOk (t : Tile) (k : Slot) (a : Tok) : Bool :=
  (match popFifo k a with
    | some f => t.tokens f != 0
    | none => true) &&
  (match pushFifo k a with
    | some f => t.tokens f + (t.tpush.filter fun p => p.fifo == f).length < 16
    | none => true)

/-- The word's token action taken: the pop at once, the push noted until retirement (03 R43). -/
def Tile.takeToken (t : Tile) (k : Slot) (a : Tok) (retire : Option Nat) : Tile :=
  let t := match popFifo k a with
    | some f => { t with toks := t.toks.set (Fin.ofNat 16 f) (t.tokens f - 1) }
    | none => t
  match pushFifo k a with
  | some f => { t with tpush := t.tpush ++ [⟨f, k, t.cyc, retire⟩] }
  | none => t

/-- The retirement cycle of the word that slot k issued at a cycle, now that it is known. -/
def Tile.setRetire (t : Tile) (k : Slot) (iss at_ : Nat) : Tile :=
  { t with tpush := t.tpush.map fun p => if p.slot = k ∧ p.iss = iss then { p with at_ := some at_ } else p }

/-! ### The next word (03 R52, R58; 05 R107, R109) -/

/-- Where a slot goes after its word. -/
inductive Flow where
  /-- To the next word, or along a loop's back edge. -/
  | seq
  /-- A taken branch; pops tells whether it leaves loops (05 R109: CALL does not). -/
  | jump (target : Nat) (pops : Bool)
  /-- A loop opened: its end address and count (05 R109). -/
  | open_ (stop left : Nat)
  /-- Nowhere: the slot has ended, or the rules set its next word themselves. -/
  | stay
  deriving DecidableEq, Repr

/-- Whether a frame's body contains an address. -/
def Loop.has (l : Loop) (a : Nat) : Bool := l.start ≤ a && a ≤ l.stop

/-- The frames after the word at an address, and the start of the loop that goes round, if one does (05 R109). -/
def loopEdge (a : Nat) : List Loop → List Loop × Option Nat
  | [] => ([], none)
  | f :: r =>
    if f.stop = a then
      if 1 < f.left then (⟨f.start, f.stop, f.left - 1⟩ :: r, some f.start) else loopEdge a r
    else (f :: r, none)

/-- The frames left by a taken branch to an address (05 R109). -/
def popFrames (a : Nat) (l : List Loop) : List Loop := l.filter fun f => f.has a

/-- The address of the word itself, after its prefixes (03 R50). -/
def SlotSt.wordPc (x : SlotSt) : Nat := (x.pc.toNat + 8 * x.pre.words) % 0x40000

/-- The slot after its word has issued, or has been annulled, in the cycle in progress. C's handler changes no loop
of the task's stream (05 R116), and a drain stub neither examines nor changes the loop stack (13 R288). DEDUCED (log 55): a
LOOP that stands at the innermost frame's own end address opens its frame without that frame being examined, since the
next word is then inside the new body. -/
def Tile.advance (t : Tile) (k : Slot) (f : Flow) : Tile :=
  let x := t.slot k
  let w := x.wordPc
  let x0 := { x with pre := Prefixes.none, due := none, stall := none, joined := false, mark := 0 }
  let loops := !(k == .c && t.inh) && !x.stub
  match f with
  | .seq =>
    let (ls, back) := if loops then loopEdge w x.loops else (x.loops, none)
    t.setSlot k { x0 with loops := ls, pc := BitVec.ofNat 18 (back.getD (w + 8)), base := t.cyc + 1 }
  | .jump target pops =>
    t.setSlot k { x0 with
      loops := if loops && pops then popFrames target x.loops else x.loops
      pc := BitVec.ofNat 18 target, base := t.cyc + 3 }
  | .open_ stop left =>
    t.setSlot k { x0 with
      loops := ⟨w + 8, stop, left⟩ :: x.loops, pc := BitVec.ofNat 18 (w + 8), base := t.cyc + 1 }
  | .stay => t

/-! ### Issuing a word -/

/-- What a word does, once its operands are read. trap is a check made before LATE and PEND (05 R102); early tells
whether PENDTRAP would raise PEND; wait is a stall its entry names, join what the waiting word does meanwhile;
after is a check made once nothing stalls the word (06 R151). -/
structure Plan where
  trap   : Option TrapReq := none
  outs   : List (Out × Nat) := []
  early  : Bool := false
  wait   : Option Wait := none
  join   : Tile → Tile := id
  /-- Whether join is done at any stall, not only at the entry's own (13 R278). -/
  eager  : Bool := false
  after  : Option TrapReq := none
  /-- What the word records beside the trap of after (05 R118). -/
  note   : Tile → Tile := id
  act    : Tile → Tile := id
  sys    : State → State := id
  flow   : Flow := .seq
  retire : Nat := 0
  /-- Whether the retirement cycle is not known at issue. -/
  open_  : Bool := false

/-- A trap as a whole plan. -/
def Plan.raise (cause : Cause) (detail : Nat) (v : Option W64) : Plan := { trap := some ⟨cause, detail, v⟩ }

/-- ILL decided by more than the word's bits (05 R114). -/
def Plan.ill4 : Plan := Plan.raise .ill 4 none

/-- The static operands of a word. -/
structure Operands where
  srcs : List Src := []
  grds : List (Fin 8) := []
  sq   : Bool := false

/-- The result of an attempt to issue, seen as a machine outcome. -/
abbrev Out3 := Host.Outcome State Fault Refusal

/-- The word stalls: its wait is noted with the cycle since which it stalls (03 R53, 13 R296). -/
def Tile.stallOn (t : Tile) (k : Slot) (w : Wait) : Tile :=
  (t.modSlot k fun x => { x with stall := some (match x.stall with
    | some (_, since) => (w, since)
    | none => (w, t.cyc)) }).count 4 (Slot.num k) 1

/-- Whether the word of the attempt has guards that count as read (03 R42). -/
def ctlGuards (c : Ctl) : List (Fin 8) := [c.ga.idx, c.gb.idx]

/-- The stall that holds a word back, after its traps (03 R53). -/
def Tile.stallOf (t : Tile) (c : Cur) (lq sq : QAns) (p : Plan) : Option Wait :=
  if !t.tokenOk c.slot c.ctl.tok then some .token
  else if lq = .wait then some .queue
  else if sq = .wait then some .queue
  else p.wait

/-- The trap that the queues raise at the word (11 R222). -/
def queueTrap (lq sq : QAns) : Option TrapReq :=
  match lq, sq with
  | .trap r, _ => some r
  | _, .trap r => some r
  | _, _ => none

/-- LQ without its n oldest entries. -/
def Tile.popLq (t : Tile) (n : Nat) : Tile := { t with lq := t.lq.drop n }

/-- The tile once the word has issued: token, popped LQ entries, effect, next word, counts. -/
def Tile.issued (t : Tile) (c : Cur) (pops : Nat) (p : Plan) : Tile :=
  let t1 := t.takeToken c.slot c.ctl.tok (if p.open_ then none else some (max p.retire t.cyc))
  ((p.act (t1.popLq pops)).advance c.slot p.flow).count 2 (Slot.num c.slot) 1

/-- The one way a word issues, waits or traps (03 R51 to R60): checks decided by its operands, LATE, PEND, its
stalls, then its effect. In a probe (03 R54) it only answers whether it would stall; while its bundle is incomplete none of
its waits acts. DEDUCED (log 34): R51 does not place a trap that operand values decide (ALIGN of BRI, ILL of DETAIL
4); it comes before LATE and PEND, as the checks of 05 R102 do. -/
def runWord (s : State) (o : Operands) (plan : Tile → List W64 → Plan) : Out3 :=
  let c := s.cur
  let t := s.tile c.tile
  let pc := (t.slot c.slot).pc.toNat
  let pops := (o.srcs.filter fun x => x == .lq).length
  let lq := t.lqPeek pops t.lq
  let sq := if o.sq then t.sqCheck else .ok []
  let vals := t.readSrcs c o.srcs (match lq with
    | .ok v => v
    | _ => [])
  let p := plan t vals
  let take (r : TrapReq) : Out3 := .next (s.takeTrap c.tile c.slot r.cause r.detail r.v pc)
  let latch := bitAt t.tcfg 0
  let ptrap := bitAt t.tcfg 1
  let known : Bool := match lq with
    | .ok _ => true
    | .wait | .trap _ => false
  if c.probe then .next { s with cur := { c with ready := (t.stallOf c lq sq p).isNone } }
  else match (if known then p.trap else none) with
    | some r => take r
    | none =>
      match (if latch then t.lateCode c.slot o.srcs (o.grds ++ ctlGuards c.ctl) p.outs else none) with
      | some code => take ⟨.late, code, none⟩
      | none =>
        if ptrap && p.early then take ⟨.pend, 0, none⟩
        else if c.gather then .next (s.setTile c.tile (t.stallOn c.slot .bundle))
        else match t.stallOf c lq sq p with
          | some .token => .next (s.setTile c.tile ((if p.eager && known then p.join t else t).stallOn c.slot .token))
          | w =>
            match queueTrap lq sq with
            | some r => take r
            | none =>
              match w with
              | some w =>
                .next (s.setTile c.tile ((if p.wait == some w || (p.eager && known) then p.join t else t).stallOn c.slot w))
              | none =>
                if !c.mayGo then
                  .next (s.setTile c.tile ((if p.eager && known then p.join t else t).stallOn c.slot .bundle))
                else match p.after with
                  | some r =>
                    .next ((s.setTile c.tile (p.note t)).takeTrap c.tile c.slot r.cause r.detail r.v pc)
                  | none => .next (p.sys (s.setTile c.tile (t.issued c pops p)))

end Sys2Proof.Machine
end

