-- ==== Sys2Proof/Machine/Scalar.lean ====
section
/-! DEFINITION. The scalar words, classes 0x0 and 0x1 (05 R95 to R99). -/

namespace Sys2Proof.Machine

/-- The outputs of a destination, for the scoreboard. -/
def dstOut (d : Dst) (lat : Nat) : List (Out × Nat) :=
  match d with
  | .s n => [(.s n, lat)]
  | .sq => []

/-- A scalar result scheduled to its destination (05 R95, R96). -/
def Tile.putDst (t : Tile) (k : Slot) (d : Dst) (lat : Nat) (v : W64) : Tile :=
  match d with
  | .s n => t.schedS k n (t.cyc + lat) v
  | .sq => t.sched k (t.cyc + lat) (.sq v)

/-- A word that writes one function of its sources to a destination at issue + lat (05 R96). DESIGN CHOICE (log 66): one whose
destination is s0 or g0, where the write is ignored, retires at issue + lat as well, and pushes its token then (03 R43). -/
def scalarWord (s : State) (d : Dst) (lat : Nat) (srcs : List Src) (f : List W64 → W64) : Out3 :=
  runWord s { srcs := srcs, sq := d == .sq } fun t v =>
    { outs := dstOut d lat
      act := fun t => t.putDst s.cur.slot d lat (f v)
      retire := t.cyc + lat }

/-- A word that writes one function of its sources to a guard at issue + 1 (05 R99). -/
def guardWord (s : State) (d : Fin 8) (srcs : List Src) (grds : List (Fin 8)) (f : Tile → List W64 → Bool) : Out3 :=
  runWord s { srcs := srcs, grds := grds } fun t v =>
    { outs := [(.g d, 1)]
      act := fun u => u.schedG s.cur.slot d (u.cyc + 1) (f t v)
      retire := t.cyc + 1 }

/-! ### Values (05 R97) -/

def mulhVal (a b : W64) : W64 := w64 (a.toNat * b.toNat / 2 ^ 64)
def mulhsVal (a b : W64) : W64 := w64i (a.toInt * b.toInt / 2 ^ 64)
def divVal (a b : W64) : W64 := if b = 0 then BitVec.allOnes 64 else w64 (a.toNat / b.toNat)
def remVal (a b : W64) : W64 := if b = 0 then a else w64 (a.toNat % b.toNat)

/-- Quotient rounded toward zero; -2^63 by -1 gives -2^63 by wrapping. -/
def divsVal (a b : W64) : W64 := if b = 0 then BitVec.allOnes 64 else w64i (truncDiv a.toInt b.toInt)
def remsVal (a b : W64) : W64 := if b = 0 then a else w64i (a.toInt - truncDiv a.toInt b.toInt * b.toInt)
def minVal (a b : W64) : W64 := if a.toNat ≤ b.toNat then a else b
def maxVal (a b : W64) : W64 := if a.toNat ≤ b.toNat then b else a
def minsVal (a b : W64) : W64 := if a.toInt ≤ b.toInt then a else b
def maxsVal (a b : W64) : W64 := if a.toInt ≤ b.toInt then b else a

/-- A region descriptor built without a check (05 R98). -/
def rgnVal (base stride count : W64) (fmt : BitVec 4) (list : Bool) : W64 :=
  w64 (fld base 0 22 + fld stride 0 16 * 2 ^ 24 + fld count 0 16 * 2 ^ 40 + fmt.toNat * 2 ^ 56 + list.toNat * 2 ^ 60)

/-- ROT: a rotation left (05 R99). -/
def rotVal (a b : W64) : W64 := (a <<< fld b 0 6) ||| (a >>> ((64 - fld b 0 6) % 64))

/-- The number of leading zero bits; 64 for zero. -/
def clzVal (a : W64) : Nat := if a = 0 then 64 else 63 - a.toNat.log2

/-- The number of trailing zero bits; 64 for zero. -/
def ctzVal (a : W64) : Nat := ((List.range 64).find? fun i => a.getLsbD i).getD 64

def popcVal (a : W64) : Nat := ((List.range 64).filter fun i => a.getLsbD i).length

/-- The product of two polynomials over GF(2), 128 bits (05 R99). -/
def clmulNat (a b : W64) : Nat :=
  (List.range 64).foldl (fun r i => if b.getLsbD i then r ^^^ (a.toNat * 2 ^ i) else r) 0

/-- The condition of CMP (05 R99). -/
def cmpVal (c : Cond) (a b : W64) : Bool :=
  match c with
  | .eq => a == b
  | .ne => a != b
  | .lt => a.toNat < b.toNat
  | .le => a.toNat ≤ b.toNat
  | .lts => a.toInt < b.toInt
  | .les => a.toInt ≤ b.toInt

/-! ### Class 0x0 (05 R97, R98) -/

def execAdd (d : Dst) (a b : Src) (s : State) : Out3 := scalarWord s d 1 [a, b] fun v => nth v 0 + nth v 1
def execSub (d : Dst) (a b : Src) (s : State) : Out3 := scalarWord s d 1 [a, b] fun v => nth v 0 - nth v 1
def execMul (d : Dst) (a b : Src) (s : State) : Out3 := scalarWord s d 3 [a, b] fun v => nth v 0 * nth v 1
def execMulh (d : Dst) (a b : Src) (s : State) : Out3 := scalarWord s d 3 [a, b] fun v => mulhVal (nth v 0) (nth v 1)
def execMulhs (d : Dst) (a b : Src) (s : State) : Out3 := scalarWord s d 3 [a, b] fun v => mulhsVal (nth v 0) (nth v 1)
def execDiv (d : Dst) (a b : Src) (s : State) : Out3 := scalarWord s d 20 [a, b] fun v => divVal (nth v 0) (nth v 1)
def execDivs (d : Dst) (a b : Src) (s : State) : Out3 := scalarWord s d 20 [a, b] fun v => divsVal (nth v 0) (nth v 1)
def execRem (d : Dst) (a b : Src) (s : State) : Out3 := scalarWord s d 20 [a, b] fun v => remVal (nth v 0) (nth v 1)
def execRems (d : Dst) (a b : Src) (s : State) : Out3 := scalarWord s d 20 [a, b] fun v => remsVal (nth v 0) (nth v 1)
def execMin (d : Dst) (a b : Src) (s : State) : Out3 := scalarWord s d 1 [a, b] fun v => minVal (nth v 0) (nth v 1)
def execMins (d : Dst) (a b : Src) (s : State) : Out3 := scalarWord s d 1 [a, b] fun v => minsVal (nth v 0) (nth v 1)
def execMax (d : Dst) (a b : Src) (s : State) : Out3 := scalarWord s d 1 [a, b] fun v => maxVal (nth v 0) (nth v 1)
def execMaxs (d : Dst) (a b : Src) (s : State) : Out3 := scalarWord s d 1 [a, b] fun v => maxsVal (nth v 0) (nth v 1)

/-- SEL reads both a and b, so both of its LQ fields pop (05 R97). -/
def execSel (d : Dst) (g : Fin 8) (a b : Src) (s : State) : Out3 :=
  runWord s { srcs := [a, b], grds := [g], sq := d == .sq } fun t v =>
    { outs := dstOut d 1
      act := fun u => u.putDst s.cur.slot d 1 (if t.readG s.cur.slot g then nth v 0 else nth v 1)
      retire := t.cyc + 1 }

def execMovk (d : Dst) (imm : BitVec 24) (s : State) : Out3 := scalarWord s d 1 [] fun _ => imm.signExtend 64

/-- MOVKH reads its own destination at issue (05 R97). -/
def execMovkh (d : Fin 32) (imm : BitVec 20) (s : State) : Out3 :=
  scalarWord s (.s d) 1 [.s d] fun v => imm ++ (nth v 0).setWidth 44

/-- XMOV, the only word that writes x0 to x7 (05 R97). -/
def execXmov (d : XDst) (a : Src) (s : State) : Out3 :=
  match d with
  | .s n => scalarWord s (.s n) 1 [a] fun v => nth v 0
  | .sq => scalarWord s .sq 1 [a] fun v => nth v 0
  | .x n =>
    runWord s { srcs := [a] } fun t v =>
      { outs := [(.x n, 1)]
        act := fun u => u.schedX s.cur.slot n (u.cyc + 1) (nth v 0)
        retire := t.cyc + 1 }

def execRgn (d : Dst) (base stride count : Src) (fmt : BitVec 4) (list : Bool) (s : State) : Out3 :=
  scalarWord s d 1 [base, stride, count] fun v => rgnVal (nth v 0) (nth v 1) (nth v 2) fmt list

/-! ### Class 0x1 (05 R99) -/

def execAnd (d : Dst) (a b : Src) (s : State) : Out3 := scalarWord s d 1 [a, b] fun v => nth v 0 &&& nth v 1
def execOr (d : Dst) (a b : Src) (s : State) : Out3 := scalarWord s d 1 [a, b] fun v => nth v 0 ||| nth v 1
def execXor (d : Dst) (a b : Src) (s : State) : Out3 := scalarWord s d 1 [a, b] fun v => nth v 0 ^^^ nth v 1
def execAndn (d : Dst) (a b : Src) (s : State) : Out3 := scalarWord s d 1 [a, b] fun v => nth v 0 &&& ~~~nth v 1
def execShl (d : Dst) (a b : Src) (s : State) : Out3 := scalarWord s d 1 [a, b] fun v => nth v 0 <<< fld (nth v 1) 0 6
def execShr (d : Dst) (a b : Src) (s : State) : Out3 := scalarWord s d 1 [a, b] fun v => nth v 0 >>> fld (nth v 1) 0 6
def execSra (d : Dst) (a b : Src) (s : State) : Out3 :=
  scalarWord s d 1 [a, b] fun v => (nth v 0).sshiftRight (fld (nth v 1) 0 6)
def execRot (d : Dst) (a b : Src) (s : State) : Out3 := scalarWord s d 1 [a, b] fun v => rotVal (nth v 0) (nth v 1)
def execClz (d : Dst) (a : Src) (s : State) : Out3 := scalarWord s d 1 [a] fun v => w64 (clzVal (nth v 0))
def execCtz (d : Dst) (a : Src) (s : State) : Out3 := scalarWord s d 1 [a] fun v => w64 (ctzVal (nth v 0))
def execPopc (d : Dst) (a : Src) (s : State) : Out3 := scalarWord s d 1 [a] fun v => w64 (popcVal (nth v 0))
def execExtr (d : Dst) (a : Src) (pos lenm1 : BitVec 6) (s : State) : Out3 :=
  scalarWord s d 1 [a] fun v => w64 (fld (nth v 0) pos.toNat (lenm1.toNat + 1))

/-- INS reads its own destination at issue (05 R99). -/
def execIns (d : Fin 32) (a : Src) (pos lenm1 : BitVec 6) (s : State) : Out3 :=
  scalarWord s (.s d) 1 [.s d, a] fun v => setFld (nth v 0) pos.toNat (lenm1.toNat + 1) (nth v 1).toNat

def execClmul (d : Dst) (a b : Src) (s : State) : Out3 := scalarWord s d 3 [a, b] fun v => w64 (clmulNat (nth v 0) (nth v 1))
def execClmulh (d : Dst) (a b : Src) (s : State) : Out3 :=
  scalarWord s d 3 [a, b] fun v => w64 (clmulNat (nth v 0) (nth v 1) / 2 ^ 64)

def execGand (d g1 g2 : Fin 8) (s : State) : Out3 :=
  guardWord s d [] [g1, g2] fun t _ => t.readG s.cur.slot g1 && t.readG s.cur.slot g2
def execGor (d g1 g2 : Fin 8) (s : State) : Out3 :=
  guardWord s d [] [g1, g2] fun t _ => t.readG s.cur.slot g1 || t.readG s.cur.slot g2
def execGnot (d g1 : Fin 8) (s : State) : Out3 := guardWord s d [] [g1] fun t _ => !t.readG s.cur.slot g1

def execCmpEq (d : Fin 8) (a b : Src) (s : State) : Out3 := guardWord s d [a, b] [] fun _ v => cmpVal .eq (nth v 0) (nth v 1)
def execCmpNe (d : Fin 8) (a b : Src) (s : State) : Out3 := guardWord s d [a, b] [] fun _ v => cmpVal .ne (nth v 0) (nth v 1)
def execCmpLt (d : Fin 8) (a b : Src) (s : State) : Out3 := guardWord s d [a, b] [] fun _ v => cmpVal .lt (nth v 0) (nth v 1)
def execCmpLts (d : Fin 8) (a b : Src) (s : State) : Out3 := guardWord s d [a, b] [] fun _ v => cmpVal .lts (nth v 0) (nth v 1)
def execCmpLe (d : Fin 8) (a b : Src) (s : State) : Out3 := guardWord s d [a, b] [] fun _ v => cmpVal .le (nth v 0) (nth v 1)
def execCmpLes (d : Fin 8) (a b : Src) (s : State) : Out3 := guardWord s d [a, b] [] fun _ v => cmpVal .les (nth v 0) (nth v 1)

end Sys2Proof.Machine
end

