-- ==== Sys2Proof/Machine/Control.lean ====
section
/-! DEFINITION. The control words, class 0x2 (05 R106 to R110), and the prefixes (03 R47 to R50). -/

namespace Sys2Proof.Machine

/-- A word with no operand, result or wait of its own. -/
def plainWord (s : State) (act : Tile → Tile) : Out3 := runWord s {} fun t _ => { act := act, retire := t.cyc }

def execNop (s : State) : Out3 := plainWord s id

/-- Whether the word runs in handler mode (05 R107, R109). -/
def Tile.inHandler (t : Tile) (k : Slot) : Bool := k == .c && t.inh

/-- The branch target of a displacement from the word at an address (05 R107). -/
def brTarget (pc : Nat) (disp : BitVec 24) : Nat := wrapTo 18 ((pc : Int) + 8 * disp.toInt)

/-- The BRANCH event of a taken branch (20 R379). -/
def Tile.branchEvent (t : Tile) (k : Slot) (kind target pc : Nat) : Tile :=
  t.event (Slot.num k) 0x00 target (pc + kind * 2 ^ 18)

/-- A taken branch, with its target's checks (05 R107): ALIGN for a target from a register, then the resident
area. DESIGN CHOICE (log 66): a target that fails both raises ALIGN. -/
def branchPlan (t : Tile) (k : Slot) (kind target : Nat) (pops : Bool) : Plan :=
  let pc := (t.slot k).wordPc
  if target % 8 ≠ 0 then Plan.raise .align 0 (some (w64 target))
  else if target < 0x8000 ∧ t.inHandler k = false then Plan.raise .ill 4 (some (w64 target))
  else { flow := .jump target pops, act := fun u => u.branchEvent k kind target pc, retire := t.cyc }

def execBr (disp : BitVec 24) (s : State) : Out3 :=
  runWord s {} fun t _ => branchPlan t s.cur.slot 0 (brTarget (t.slot s.cur.slot).wordPc disp) true

def execBri (a : Src) (s : State) : Out3 :=
  runWord s { srcs := [a] } fun t v => branchPlan t s.cur.slot 1 (fld (nth v 0) 0 18) true

/-- CALL writes the link at issue + 1 and pops no frame (05 R107, R109). -/
def execCall (d : Fin 32) (disp : BitVec 24) (s : State) : Out3 :=
  runWord s {} fun t _ =>
    let k := s.cur.slot
    let pc := (t.slot k).wordPc
    let p := branchPlan t k 2 (brTarget pc disp) false
    { p with
      outs := [(.s d, 1)]
      act := fun u => (p.act u).schedS k d (u.cyc + 1) (w64 (pc + 8))
      retire := t.cyc + 1 }

def execRet (a : Src) (s : State) : Out3 :=
  runWord s { srcs := [a] } fun t v => branchPlan t s.cur.slot 3 (fld (nth v 0) 0 18) true

/-- Whether the word at an address is a prefix (05 R109). -/
def Tile.prefixAt (t : Tile) (a : Nat) : Bool :=
  let op := fld (t.iword a) 30 10
  op == 0x0BE || op == 0x0BF

/-- LOOP (05 R109). In a drain stub it is refused as in handler mode (13 R288, log 43). -/
def execLoop (a : Src) (endw : BitVec 18) (s : State) : Out3 :=
  runWord s { srcs := [a] } fun t v =>
    let k := s.cur.slot
    let x := t.slot k
    let stop := x.wordPc + 8 * endw.toNat
    let n := fld (nth v 0) 0 32
    if t.inHandler k || x.stub then Plan.ill4
    else if 0x40000 ≤ stop then Plan.ill4
    else if t.prefixAt stop then Plan.ill4
    else if n = 0 then { flow := .jump (stop + 8) false, retire := t.cyc }
    else if 4 ≤ x.loops.length then Plan.ill4
    else { flow := .open_ stop n, retire := t.cyc }

/-- TASKEND (05 R110): the slot issues no further word; it stops running at the end of the cycle. In handler mode so
does slot C, whose handler then issues none either. -/
def execTaskend (s : State) : Out3 :=
  runWord s {} fun t _ =>
    let k := s.cur.slot
    { flow := .stay
      act := fun u =>
        let u := if t.inHandler k then { u with hEnded := true } else u
        (u.modSlot k fun x => { x with stall := none, joined := false, pre := .none }).atEnd (.ended k)
      retire := t.cyc }

/-- A prefix read: a second one of its kind raises ILL at itself (03 R50). -/
def readPrefix (s : State) (twice : Bool) (f : Prefixes → Prefixes) : Out3 :=
  let c := s.cur
  let t := s.tile c.tile
  let x := t.slot c.slot
  if twice then .next (s.takeTrap c.tile c.slot .ill 3 none x.wordPc)
  else .next (s.setTile c.tile (t.setSlot c.slot { x with pre := f { x.pre with words := x.pre.words + 1 } }))

/-- PFX.K: the next word reads code 50 as its constant (03 R47, R50). -/
def execPfxK (k : BitVec 44) (s : State) : Out3 :=
  readPrefix s ((s.tile s.cur.tile).slot s.cur.slot).pre.k.isSome fun p => { p with k := some k }

/-- PFX.SM: the next word reads its region sources through three modifiers (03 R48 to R50). -/
def execPfxSm (m1 m2 m3 : SMod) (s : State) : Out3 :=
  readPrefix s ((s.tile s.cur.tile).slot s.cur.slot).pre.sm.isSome fun p => { p with sm := some (m1, m2, m3) }

end Sys2Proof.Machine
end

