-- ==== Sys2Proof/Machine/Lanes.lean ====
section
/-! DEFINITION. The LANEMAP summary (14 R302). -/

namespace Sys2Proof.Machine

/-- The number of lanes of a mask. -/
def lanes (m : BitVec 8) : Nat := ((List.range 8).filter fun i => m.getLsbD i).length

/-- The ports of this package that the topology table names. -/
def State.named (s : State) : List Nat :=
  let own := s.group.toNat * 512 + s.member.toNat
  (s.fab.topo.filterMap fun e => if e.1 / 1024 = own then some (e.1 % 1024) else none).eraseDups

/-- The summary of the package's ports that every tile reads as LANEMAP (14 R302). -/
def State.laneSummary (s : State) : W64 :=
  let up (lo hi : Nat) : Nat := (s.ports.filter fun e =>
    decide (e.1 < 576) && e.2.up && decide (lo ≤ lanes e.2.act) && decide (lanes e.2.act ≤ hi)).length
  let down := (s.named.filter fun p => decide (p < 576) && !(tget s.ports Port.reset p).up).length
  w64 (up 8 8 * 2 ^ 38 + up 4 7 * 2 ^ 28 + down * 2 ^ 18 + s.fab.rsh % 2 ^ 18)

end Sys2Proof.Machine
end

