-- ==== Sys2Proof/Machine/System.lean ====
section
/-! DEFINITION. The system registers and the system words, class 0x3 (05 R112 to R119). -/

namespace Sys2Proof.Machine

/-! ### Registers as they read -/

/-- COORD as slot k of tile n reads it (01 R15). -/
def State.coord (s : State) (n : Nat) (k : Slot) : W64 :=
  w64 ((if s.pval then 2 ^ 52 + s.group.toNat * 2 ^ 35 + s.member.toNat * 2 ^ 26 else 0)
    + tileStage n * 2 ^ 10 + tileQuad n * 2 ^ 6 + tileDie n * 2 ^ 4 + Slot.num k)

/-- TSTAT (05 R113). -/
def Tile.tstat (t : Tile) : W64 :=
  w64 (t.flags.toNat + (if t.inh then 2 ^ 16 else 0)
    + (allSlots.foldl (fun r k => r + if (t.slot k).running then 2 ^ (12 + Slot.num k) else 0) 0))

/-- TASKID (13 R273). -/
def Tile.taskid (t : Tile) : W64 :=
  match t.task with
  | some b => w64 (b.rcd % 2 ^ 16 * 2 ^ 32 + b.part % 64 * 2 ^ 24 + b.ntm1 % 256 * 2 ^ 16 + b.rank % 256 * 2 ^ 8
      + b.stages % 16 * 16 + b.qm1 % 16)
  | none => 0

/-- ASID (18 R339). -/
def Tile.asidReg (t : Tile) : W64 :=
  match t.owner with
  | some o => w64 (o.vf % 64 * 2 ^ 24 + o.part % 64 * 2 ^ 16 + o.asid % 2 ^ 16)
  | none => 0

/-- DRTB (13 R287). -/
def Tile.drtb (t : Tile) : W64 :=
  w64 (t.drnTab.length % 128 + (allSlots.foldl (fun r k => r + if (t.slot k).stub then 2 ^ (16 + Slot.num k) else 0) 0))

/-- A system register as MFSR reads it at issue (05 R112). -/
def State.readSys (s : State) (n : Nat) (k : Slot) (num : Nat) : W64 :=
  let t := s.tile n
  match num with
  | 0 => t.tstat
  | 1 => t.tcfg
  | 2 => s.coord n k
  | 3 => t.trapc
  | 4 => t.trappc
  | 5 => t.trapv
  | 6 => t.drtb
  | 7 => t.srseed
  | 8 => t.asidReg
  | 9 => t.taskid
  | 10 => s.laneSummary
  | 11 => s.clkmask
  | 12 => s.slew
  | 13 => t.sevm
  | _ =>
    if 16 ≤ num ∧ num < 28 then (t.bfmt.get (Fin.ofNat 12 (num - 16))).setWidth 64
    else if 32 ≤ num ∧ num < 44 then t.bscl.get (Fin.ofNat 12 (num - 32))
    else if 48 ≤ num ∧ num < 56 then t.cntsel.get (Fin.ofNat 8 (num - 48))
    else if 56 ≤ num then (t.cnt.get (Fin.ofNat 8 (num - 56))).setWidth 64
    else 0

/-! ### Registers as MTSR writes them, at the end of the issue cycle (05 R117) -/

/-- SRSEED with SEED written and STATE set from it (04 R73). -/
def seedReg (seed : BitVec 32) : W64 :=
  (if seed = 0 then 0x9E3779B9#32 else seed) ++ seed

/-- The effect of an MTSR at the end of its cycle (05 R112 to R115, 00 R4, R5). Registers that are RO for the writer
keep their value. -/
def Tile.writeSys (t : Tile) (handler : Bool) (num : Nat) (v : W64) : Tile :=
  match num with
  | 0 => { t with flags := t.flags &&& ~~~((v.setWidth 7) &&& ~~~t.nowV) }
  | 1 => { t with tcfg := v &&& 3 }
  | 4 => if handler then { t with trappc := v &&& 0x3FFF8#64 } else t
  | 5 => if handler then { t with trapv := v } else t
  | 7 => { t with srseed := seedReg (v.setWidth 32) }
  | _ =>
    if 16 ≤ num ∧ num < 28 then { t with bfmt := t.bfmt.set (Fin.ofNat 12 (num - 16)) (v.setWidth 4) }
    else if 32 ≤ num ∧ num < 44 then { t with bscl := t.bscl.set (Fin.ofNat 12 (num - 32)) (v &&& 0x33FFFFF#64) }
    else if 48 ≤ num ∧ num < 56 then { t with cntsel := t.cntsel.set (Fin.ofNat 8 (num - 48)) (v &&& 0xFFF1#64) }
    else if 56 ≤ num ∧ num < 64 then { t with cnt := t.cnt.set (Fin.ofNat 8 (num - 56)) (v.setWidth 48) }
    else t

/-- An MTSR whose value is accepted. DESIGN CHOICE (log 67): it retires, and pushes its token, at issue + 1, the L of its table (03
R43, 05 R117). -/
def mtsrPlan (t : Tile) (k : Slot) (num : Nat) (v : W64) : Plan :=
  { act := fun u => u.atEnd (.sysreg k num v), retire := t.cyc + 1 }

def execMtsr (num : BitVec 6) (a : Src) (s : State) : Out3 :=
  runWord s { srcs := [a] } fun t v => mtsrPlan t s.cur.slot num.toNat (nth v 0)

/-- MTSR to SRSEED (04 R73). -/
def execMtsrSrseed (a : Src) (s : State) : Out3 :=
  runWord s { srcs := [a] } fun t v => mtsrPlan t s.cur.slot 7 (nth v 0)

/-- MTSR to BFMTn (04 R82): FMT = 15 raises ILL, and so does a format that the bring-up service lacks (21 R399). -/
def execMtsrBfmt (n : Fin 12) (a : Src) (s : State) : Out3 :=
  runWord s { srcs := [a] } fun t v =>
    let f := fld (nth v 0) 0 4
    if f = 15 ∨ s.lacks f then Plan.ill4
    else mtsrPlan t s.cur.slot (16 + n.val) (nth v 0)

/-- MTSR to BSCLn (04 R83): GSZ, then alignment, then range. -/
def execMtsrBscl (n : Fin 12) (a : Src) (s : State) : Out3 :=
  runWord s { srcs := [a] } fun t v =>
    let w := nth v 0
    if fld w 24 2 = 3 then Plan.ill4
    else if fld w 0 22 % 4 ≠ 0 then Plan.raise .align 0 none
    else if 0x300000 ≤ fld w 0 22 then Plan.raise .spmap 0 none
    else mtsrPlan t s.cur.slot (32 + n.val) w

/-- MTSR to CNTSELn (21 R400): an unlisted event code raises ILL. -/
def execMtsrCntsel (n : Fin 8) (a : Src) (s : State) : Out3 :=
  runWord s { srcs := [a] } fun t v =>
    if 13 < fld (nth v 0) 8 8 then Plan.ill4 else mtsrPlan t s.cur.slot (48 + n.val) (nth v 0)

/-- MFSR reads at issue and writes at issue + 2 (05 R117). -/
def execMfsr (d : Dst) (num : BitVec 6) (s : State) : Out3 :=
  scalarWord s d 2 [] fun _ => s.readSys s.cur.tile s.cur.slot num.toNat

/-! ### Traps and holds -/

/-- TRAP (05 R117): TRAPV := rd(a), and a USER trap. -/
def execTrap (a : Src) (s : State) : Out3 :=
  runWord s { srcs := [a] } fun _ v => { after := some ⟨.user, 0, some (nth v 0)⟩ }

/-- After ERET a faulted entry is translated again, and the copy engine goes on from the fault that C has met (11 R222,
R239). -/
def Tile.retryFaults (t : Tile) : Tile :=
  { t with
    ents := t.ents.map fun e => match e.tr with
      | .faulted _ => { e with tr := .pending }
      | .pending | .ok _ => e
    chain := { t.chain with stop := t.chain.stop.filter fun f => !f.taken } }

/-- ERET (05 R117, 03 R60). With INH = 0 it raises ILL. -/
def execEret (s : State) : Out3 :=
  runWord s {} fun t _ =>
    if t.inh then { flow := .stay, act := fun u => (u.returnTrap u.cyc).retryFaults, retire := t.cyc }
    else Plan.ill4

/-- Whether a debugger is attached to a tile's partition (05 R118). -/
def State.debugged (s : State) (t : Tile) : Bool :=
  match t.task, t.owner with
  | some b, _ => s.dbg.contains b.part
  | none, some o => s.dbg.contains o.part
  | none, none => false

/-- HALT (05 R118): a debug hold from the end of the cycle when a debugger is attached, and DEBUG otherwise. A HALTE
event is written either way. -/
def execHalt (s : State) : Out3 :=
  let k := s.cur.slot
  let att := s.debugged (s.tile s.cur.tile)
  let note (b : Nat) (t : Tile) : Tile := t.event (Slot.num k) 0x04 (t.slot k).wordPc b
  runWord s {} fun t _ =>
    if att then { act := fun u => (note 1 u).atEnd .held, retire := t.cyc }
    else { after := some ⟨.debug, 0, none⟩, note := note 0 }

/-- ICLR (05 R119): words that issue from issue + 3 on are fetched as the store stands at the end of issue + 1. -/
def execIclr (s : State) : Out3 := plainWord s fun t => { t with iclrs := t.iclrs ++ [t.cyc] }

end Sys2Proof.Machine
end

