-- ==== Sys2Proof/Machine/Region.lean ====
section
/-! DEFINITION. Region descriptors, their checks, and the elements they name (04 R80 to R85, 05 R100 to R105). -/

namespace Sys2Proof.Machine

/-- One past the last byte of the scratchpad (11 R213). -/
def spadEnd : Nat := 0x300000

/-- A region operand as a word reads it: the register's value, whether it is s0 (which names no element), whether its
descriptor names no bank and so no format (04 R84), and the region. -/
structure VReg where
  s0     : Bool
  w      : W64
  noBank : Bool
  r      : Region
  deriving DecidableEq, Repr

/-- GSZ of a BSCL register as a group size (04 R83). -/
def gszOf (b : W64) : Nat := 32 * 2 ^ fld b 24 2

/-- The region that a descriptor names, with the bank's format and table as they stand (04 R84, R85, 05 R100). -/
def Tile.regionOf (t : Tile) (s0 : Bool) (w : W64) : VReg :=
  let base := fld w 0 22
  let bank := base / 0x40000
  let f := fld w 56 4
  let b := if bank < 12 then t.bscl.get (Fin.ofNat 12 bank) else 0
  { s0 := s0, w := w
    noBank := decide (12 ≤ bank) && f == 0
    r := {
      base := base
      stride := signed 16 (fld w 24 16)
      count := fld w 40 16
      fmt := if f ≠ 0 then f else if bank < 12 then (t.bfmt.get (Fin.ofNat 12 bank)).toNat else 0
      list := bitAt w 60
      tbase := fld b 0 22
      gsz := gszOf b } }

/-- The region that a register of slot V names (05 R101). -/
def Tile.vreg (t : Tile) (n : Fin 32) : VReg := t.regionOf (n == 0) (t.readS .v n)

/-- Whether the format of a region can be checked: s0 passes every such check, and a region without a bank skips
them (05 R101, R102). -/
def VReg.typed (v : VReg) : Bool := !v.s0 && !v.noBank

/-- Step 1 of 05 R102 for any region: reserved bits, FMT of 15, and the STRIDE of I4A. -/
def VReg.badBits (v : VReg) : Bool :=
  fld v.w 61 3 != 0 || fld v.w 22 2 != 0 || fld v.w 56 4 == 15 || (v.typed && v.r.fmt == I4A && v.r.stride != 1)

/-- Whether two regions differ in format, or in element width, where both have one. -/
def VReg.fmtDiffer (a b : VReg) : Bool := a.typed && b.typed && a.r.fmt != b.r.fmt
def VReg.widthDiffer (a b : VReg) : Bool := a.typed && b.typed && fmtBits a.r.fmt != fmtBits b.r.fmt
def VReg.scaled (a : VReg) : Bool := a.typed && fmtScaled a.r.fmt
def VReg.real (a : VReg) : Bool := a.typed && fmtReal a.r.fmt
def VReg.eightBit (a : VReg) : Bool := !a.typed || fmtBits a.r.fmt == 8

/-! ### Addresses -/

/-- The first byte of a region's bank. -/
def Region.bank0 (r : Region) : Nat := r.base / 0x40000 * 0x40000

/-- The byte address of element i (05 R100). -/
def Region.addr (r : Region) (i : Nat) : Int :=
  if r.fmt = I4A then ((r.bank0 + (2 * (r.base - r.bank0) + i) / 2 : Nat) : Int)
  else (r.base : Int) + r.stride * i * fmtBytes r.fmt

/-- The index of element i in its bank, from which groups and blocks are counted (04 R80, R81). -/
def Region.index (r : Region) (i : Nat) : Nat :=
  if r.fmt = I4A then 2 * (r.base - r.bank0) + i
  else ((r.addr i - r.bank0) / fmtBytes r.fmt).toNat

/-- The address and size of the table entry of element i (04 R80, R81). -/
def Region.entryAt (r : Region) (i : Nat) : Nat × Nat :=
  if r.fmt = I4A ∨ r.fmt = I8A then (r.tbase + 4 * (r.index i / r.gsz), 4)
  else (r.tbase + r.index i / 32, 1)

/-- Whether element i lies outside the scratchpad or outside the bank of BASE (05 R102 step 2). -/
def Region.outside (r : Region) (i : Nat) : Bool :=
  let a := r.addr i
  decide (a < r.bank0) || decide ((r.bank0 + 0x40000 : Nat) < a + fmtBytes r.fmt) || decide ((spadEnd : Int) ≤ a)

/-- The first element address outside the map or the bank, in element order. DESIGN CHOICE (log 66): one below zero is held in
TRAPV as its 64-bit two's complement. -/
def Region.spmapAt (r : Region) : Option W64 :=
  ((List.range r.count).find? r.outside).map fun i => w64i (r.addr i)

/-- The first table entry at 0x30_0000 or above that the region's elements name (04 R83). -/
def Region.tableAt (r : Region) : Option W64 :=
  if fmtScaled r.fmt then
    ((List.range r.count).find? fun i => spadEnd ≤ (r.entryAt i).1).map fun i => w64 (r.entryAt i).1
  else none

/-- The first element address that is not a multiple of the element width (05 R102 step 3). -/
def Region.alignAt (r : Region) : Option W64 :=
  ((List.range (min r.count 1)).find? fun i => r.addr i % fmtBytes r.fmt != 0).map fun i => w64i (r.addr i)

/-- Steps 2 and 3 of 05 R102 over the regions of a word; tables are those whose entries the word reads. DESIGN CHOICE (log 66): of
several regions that fail a step, TRAPV is that of the destination before those of F1 to F3, and a table entry at 0x30_0000 or
above (04 R83) is found after every region's step 2 and before any region's step 3. -/
def checkRegions (rs tables : List Region) : Option TrapReq :=
  let rs := rs.filter fun r => r.count != 0
  match rs.findSome? Region.spmapAt with
  | some a => some ⟨.spmap, 0, some a⟩
  | none =>
    match tables.findSome? Region.tableAt with
    | some a => some ⟨.spmap, 0, some a⟩
    | none => (rs.findSome? Region.alignAt).map fun a => ⟨.align, 0, some a⟩

/-- The beat interval of a region (05 R103). -/
def Region.interval (r : Region) : Nat :=
  if r.stride = 1 then (if r.base % 256 = 0 then 1 else 2) else 4

/-- The largest interval among a word's regions (05 R103). -/
def wordInterval (rs : List Region) : Nat := rs.foldl (fun m r => max m r.interval) 1

/-! ### Elements -/

/-- The raw bits of element i. -/
def Tile.rawElem (t : Tile) (r : Region) (i : Nat) : Nat :=
  let a := (r.addr i).toNat
  if r.fmt = I4A then
    (readByte t.spad a).toNat / (if r.index i % 2 = 1 then 16 else 1) % 16
  else readLe t.spad a (fmtBytes r.fmt)

/-- The table entry of element i as it stands. -/
def Tile.entryElem (t : Tile) (r : Region) (i : Nat) : Nat :=
  if fmtScaled r.fmt then readLe t.spad (r.entryAt i).1 (r.entryAt i).2 else 0

/-- The scratchpad bits that writing element i changes (04 R70, 05 R100). -/
def Region.elemWrite (r : Region) (i bits : Nat) : List (Nat × Byte × Byte) :=
  let a := (r.addr i).toNat
  if r.fmt = I4A then
    if r.index i % 2 = 1 then [(a, 0xF0, BitVec.ofNat 8 (bits % 16 * 16))] else [(a, 0x0F, BitVec.ofNat 8 (bits % 16))]
  else wholeBytes a (leBytes (fmtBytes r.fmt) bits)

/-- The exact value of raw bits in a region's format, with the element's table entry (04 R68, R80, R81). -/
def decodeRaw (f : Fmt) (bits entry : Nat) : XV :=
  if f = I4A ∨ f = I8A then decodeAffine bits entry
  else if f = E4M3S ∨ f = I8S then decodeShift f bits entry
  else decodeElem f bits

/-- The value of an element in the real domain (04 R86 step 2): rounded to F32 where F32 cannot hold it, which sets OF
when it leaves the range. -/
def realSource (f : Fmt) (bits entry : Nat) : XV × Flags :=
  let (v, fl) := rne32 (decodeRaw f bits entry)
  match v with
  | .nan fresh => (.nan fresh, 0)
  | _ => (v, fl &&& fOF)

/-! ### Source modifiers (03 R48, R49) -/

/-- The element that stands in for element i of a beat. -/
def modPick (m : SMod) (i : Nat) : Nat :=
  let n := 2 ^ m.seg.toNat
  let b := i - i % n
  let p := i % n
  match m.cls.toNat with
  | 1 => b + (p + m.dist.toNat) % n
  | 2 => b + (p ^^^ m.dist.toNat)
  | 3 => b + m.dist.toNat
  | _ => i

def noMod : SMod := ⟨0, 0, 0⟩

/-- The element of a source that element i of the word reads: none where it lies at or beyond the count, which reads as
zero bits (03 R49). -/
def VSrc.pick (s : VSrc) (i : Nat) : Option Nat :=
  let j := i / 64 * 64 + modPick s.mod (i % 64)
  if j < s.reg.count then some j else none

/-- The raw bits and table entry of what element i of the word reads from a source; none where the count ends. -/
def Tile.srcRaw (t : Tile) (s : VSrc) (i : Nat) : Option (Nat × Nat) :=
  match s.bcast with
  | some p => some p
  | none => (s.pick i).map fun j => (t.rawElem s.reg j, t.entryElem s.reg j)

/-- The real-domain value that element i of the word reads. -/
def Tile.srcReal (t : Tile) (s : VSrc) (i : Nat) : XV × Flags :=
  match t.srcRaw s i with
  | some (b, e) => realSource s.reg.fmt b e
  | none => (XV.zero, 0)

/-- The integer-domain value that element i of the word reads. -/
def Tile.srcInt (t : Tile) (s : VSrc) (i : Nat) : Int :=
  match t.srcRaw s i with
  | some (b, _) => decodeInt s.reg.fmt b
  | none => 0

/-- The raw bits that element i of the word reads. -/
def Tile.srcBits (t : Tile) (s : VSrc) (i : Nat) : Nat := ((t.srcRaw s i).getD (0, 0)).1

/-- Whether PENDTRAP would raise PEND for a source: an element, or its table entry where the word reads it, written after its read
cycle (03 R57, 05 R103). -/
def Tile.earlySource (t : Tile) (s : VSrc) (tab : Bool) (n ivl : Nat) : Bool :=
  let hit (j c : Nat) : Bool :=
    t.pendingAfter (s.reg.addr j).toNat (fmtBytes s.reg.fmt) c ||
      (tab && fmtScaled s.reg.fmt && t.pendingAfter (s.reg.entryAt j).1 (s.reg.entryAt j).2 c)
  if t.reserved.isEmpty then false
  else if s.bcast.isSome then hit 0 t.cyc
  else (List.range n).any fun i =>
    match s.pick i with
    | some j => hit j (t.cyc + ivl * (i / 64))
    | none => false

end Sys2Proof.Machine
end

