-- ==== Sys2Proof/Machine/Seeds.lean ====
section
/-! DEFINITION. The seeds and refinement steps (05 R127 to R130). The formulas are over exact reals: the algebraic
ones are decided by comparing integers, and the transcendental ones are computed to far more bits than the 12 that
are kept (log 44). -/

namespace Sys2Proof.Machine

/-- Newton's iteration for the integer square root, with fuel. -/
def isqrtIter (n : Nat) : Nat → Nat → Nat
  | 0, x => x
  | k + 1, x =>
    let y := (x + n / x) / 2
    if y < x then isqrtIter n k y else x

/-- floor of the square root. -/
def isqrt (n : Nat) : Nat := if n = 0 then 0 else isqrtIter n 400 (2 ^ (n.log2 / 2 + 1))

/-- n rounded to the nearest, ties to even, of a rational num / den. -/
def rneDiv (num den : Nat) : Nat := (pickRnd .rne false (num / den) (num % den) den 0).1

/-- rnd12 of a positive rational: the value 2^k * f with f rounded to 12 fraction bits (05 R127), as significand and
exponent. -/
def rnd12 (num den : Nat) : Nat × Int :=
  let k := expOf num den 0
  let (q, r, d) := quantum num den 0 (k - 12)
  ((pickRnd .rne false q r d 0).1, k - 12)

/-- The square root of a positive rational, rounded as rnd12 rounds, decided exactly. -/
def rnd12Sqrt (num den : Nat) : Nat × Int :=
  -- sqrt(num/den) = 2^k * f with k the floor of half the exponent
  let k := expOf num den 0 / 2
  -- squares scaled by 2^(2 * (12 - k))
  let s := 2 * (12 - k)
  let n := if 0 ≤ s then num * 2 ^ s.toNat else num
  let d := if 0 ≤ s then den else den * 2 ^ (-s).toNat
  let q := isqrt (n / d)
  -- compare (q + 1/2)^2 with n / d
  let up : Bool := if (2 * q + 1) ^ 2 * d = 4 * n then q % 2 == 1 else (2 * q + 1) ^ 2 * d < 4 * n
  (if up then q + 1 else q, k - 12)

/-- Fraction bits kept of ln 2 and of 1 / ln 2. -/
def lnBits : Nat := 320

/-- The series sum over i of 1 / (i * 2^i), which is ln 2, to lnBits bits and 64 guard bits. -/
def ln2Series : Nat → Nat → Nat
  | 0, _ => 0
  | k + 1, i => 2 ^ (lnBits + 64) / (i * 2 ^ i) + ln2Series k (i + 1)

/-- ln 2 * 2^lnBits. -/
def ln2Fix : Nat := ln2Series 400 1 / 2 ^ 64

/-- The 256-th root, rounded down. -/
def root256 (n : Nat) : Nat := isqrt (isqrt (isqrt (isqrt (isqrt (isqrt (isqrt (isqrt n)))))))

/-- 2^(k / 256) * 2^lnBits, rounded down. -/
def pow2Fix (k : Nat) : Nat := root256 (2 ^ (k + 256 * lnBits))

/-- Bits of log2 of x / 2^w, for x from 2^w to below 2^(w + 1), by repeated squaring. -/
def log2Iter (w : Nat) : Nat → Nat → Nat → Nat
  | 0, _, r => r
  | k + 1, x, r =>
    let y := x * x / 2 ^ w
    if 2 ^ (w + 1) ≤ y then log2Iter w k (y / 2) (2 * r + 1) else log2Iter w k y (2 * r)

/-- log2((257 + 2j) / 256) * 2^128. -/
def log2Fix (j : Nat) : Nat := log2Iter 400 128 ((257 + 2 * j) * 2 ^ 392) 0

/-- The exponent, and the significand as a 23-bit fraction, of a positive F32-exact magnitude m * 2^e: the value is
2^E * (1 + frac / 2^w), with w bits of fraction. -/
def normalise (m : Nat) (e : Int) : Int × Nat × Nat :=
  let l := m.log2
  (e + l, m - 2 ^ l, l)

/-- The index of the interval of a significand: its top seven fraction bits (05 R127). -/
def seedIndex (frac w : Nat) : Nat := if 7 ≤ w then frac / 2 ^ (w - 7) else frac * 2 ^ (7 - w)

/-- VRCPE of a finite nonzero magnitude (05 R127): significand and exponent of the result. -/
def rcpSeed (m : Nat) (e : Int) : Nat × Int :=
  let (E, frac, w) := normalise m e
  let j := seedIndex frac w
  let c := 257 + 2 * j
  -- u = (2c - m) / c^2 with c over 256 and m = (2^w + frac) / 2^w
  let num := (2 * c * 2 ^ w - 256 * (2 ^ w + frac)) * 256
  let den := c * c * 2 ^ w
  let (k, q) := rnd12 num den
  (k, q - E)

/-- VRSQE of a finite positive magnitude (05 R127). -/
def rsqSeed (m : Nat) (e : Int) : Nat × Int :=
  let (E, frac, w) := normalise m e
  let j := seedIndex frac w
  let p := (E % 2).toNat
  -- cy = C / 256 and y = Y / 2^w
  let C := (257 + 2 * j) * 2 ^ p
  let Y := (2 ^ w + frac) * 2 ^ p
  -- u^2 = (3 cy - y)^2 / (4 cy^3)
  let a := 3 * C * 2 ^ w - 256 * Y
  let num := a * a * 256
  let den := 4 * C * C * C * 2 ^ (2 * w)
  let (k, q) := rnd12Sqrt num den
  (k, q - (E - p) / 2)

/-- VEXP2E of a finite value (05 R129). -/
def exp2Seed (neg : Bool) (m : Nat) (e : Int) : Nat × Int :=
  -- x as an integer over 2^w
  let w := if e < 0 then (-e).toNat else 0
  let x : Int := (if neg then -1 else 1) * (m * 2 ^ (if e < 0 then 0 else e.toNat) : Nat)
  let k := x / (2 ^ w : Nat)
  let f := (x % (2 ^ w : Nat)).toNat
  let j := f * 128 / 2 ^ w
  -- 1 + ln2 * (f - c), with c = (2j + 1) / 256, over 2^(lnBits + w + 8)
  let d : Int := (f * 256 : Nat) - ((2 * j + 1) * 2 ^ w : Nat)
  let t := ((2 ^ (lnBits + w + 8) : Nat) + (ln2Fix : Int) * d).toNat
  let (n, q) := rnd12 (pow2Fix (2 * j + 1) * t) (2 ^ (2 * lnBits + w + 8))
  -- beyond these exponents the result overflows, or rounds to zero, whatever the fraction
  (n, q + max (-400) (min 400 k))

/-- VLOG2E of a finite positive magnitude (05 R129): the result as an integer over 2^12. -/
def log2Seed (m : Nat) (e : Int) : Int :=
  let (E, frac, w) := normalise m e
  let j := seedIndex frac w
  let c := 257 + 2 * j
  -- (m - c) / (c * ln2): numerator over 256 * 2^w, so the quotient is a / (c * 2^w * ln2)
  let a : Int := (256 * (2 ^ w + frac) : Nat) - (c * 2 ^ w : Nat)
  let g : Int := a * (2 ^ (lnBits + 128) : Nat) / (c * 2 ^ w * ln2Fix : Nat)
  let s : Int := (log2Fix j : Int) + g
  -- s over 2^128, rounded to a multiple of 2^-12
  let r := (s + (2 ^ 115 : Nat)) / (2 ^ 116 : Nat)
  E * 4096 + r

/-- One refinement step (05 R130): 2 - a b, or (3 - a b b) / 2, exact; 1 where a source is zero or infinite. -/
def stepVal (sq rdn : Bool) (a b : XV) : XV :=
  if a.isNan || b.isNan then .nan false
  else if a.isZero || b.isZero || a.isInf || b.isInf then .num false 1 0
  else if sq then ((XV.ofInt 3).add rdn (((a.mul b).mul b).neg)).scale (-1)
  else (XV.ofInt 2).add rdn ((a.mul b).neg)

end Sys2Proof.Machine
end

