-- ==== Sys2Proof/Machine/Vector.lean ====
section
/-! DEFINITION. The region-vector words of slot V, classes 0x4 to 0x7 (05 R100 to R105, R120 to R135): what each checks
at issue, and what each beat reads, computes and writes. -/

namespace Sys2Proof.Machine

/-! ### One element (05 R121 to R133) -/

/-- min or max of two real values (05 R121, 04 R92): NaN where either is NaN; −0 below +0. -/
def minMax (isMax : Bool) (a b : XV) : Option XV :=
  if a.isNan || b.isNan then none
  else some (match a.cmp b with
    | .lt => if isMax then b else a
    | .gt => if isMax then a else b
    | .eq => if a.isNeg != isMax then a else b)

/-- The canonical NaN that a NaN input gives (04 R71). -/
def quietNan : XV := .nan false

/-- Results of VRCPE and VRSQE (05 R127, R128), with the flag DZ. The infinity of a zero is one that the word makes
from a finite input (04 R75). -/
def seedRcp (v : XV) : XV × Flags :=
  match v with
  | .nan _ => (quietNan, 0)
  | .inf s _ => (.num s 0 0, 0)
  | .num s m e =>
    if m = 0 then (.inf s true, fDZ)
    else let (n, q) := rcpSeed m e; (.num s n q, 0)

def seedRsq (v : XV) : XV × Flags :=
  match v with
  | .nan _ => (quietNan, 0)
  | .inf s _ => if s then (.nan true, 0) else (.num false 0 0, 0)
  | .num s m e =>
    if m = 0 then (.inf s true, fDZ)
    else if s then (.nan true, 0)
    else let (n, q) := rsqSeed m e; (.num false n q, 0)

/-- Results of VEXP2E and VLOG2E (05 R129). -/
def seedExp2 (v : XV) : XV × Flags :=
  match v with
  | .nan _ => (quietNan, 0)
  | .inf s _ => if s then (.num false 0 0, 0) else (.inf false false, 0)
  | .num s m e => let (n, q) := exp2Seed s m e; (.num false n q, 0)

def seedLog2 (v : XV) : XV × Flags :=
  match v with
  | .nan _ => (quietNan, 0)
  | .inf s _ => if s then (.nan true, 0) else (.inf false false, 0)
  | .num s m e =>
    if m = 0 then (.inf true true, fDZ)
    else if s then (.nan true, 0)
    else let r := log2Seed m e; (.num (r < 0) r.natAbs (-12), 0)

/-- The exact result of an element-wise word in the real domain. rdn is the mode's share in the sign of an exact zero
(04 R72). -/
def realOp (op : VOp) (rdn : Bool) (v : List XV) : XV × Flags :=
  let a := v.getD 0 XV.zero
  let b := v.getD 1 XV.zero
  let c := v.getD 2 XV.zero
  match op with
  | .add => (a.add rdn b, 0)
  | .sub => (a.add rdn b.neg, 0)
  | .mul => (a.mul b, 0)
  | .fma => ((a.mul b).add rdn c, 0)
  | .fms => ((a.mul b).add rdn c.neg, 0)
  | .fnma => ((a.mul b).neg.add rdn c, 0)
  | .min => ((minMax false a b).getD (.nan true), 0)
  | .max => ((minMax true a b).getD (.nan true), 0)
  | .abs => (a.abs, 0)
  | .neg => (a.neg, 0)
  | .rcpe => seedRcp a
  | .rsqe => seedRsq a
  | .exp2e => seedExp2 a
  | .log2e => seedLog2 a
  | .rcps => (stepVal false rdn a b, 0)
  | .rsqs => (stepVal true rdn a b, 0)
  | _ => (a, 0)

/-- The most negative value of the integer domain (04 R86). -/
def domainBits (wide : Bool) : Nat := if wide then 64 else 32

/-- The magnitude or negation of the most negative domain value wraps to that value, or saturates with .s (05 R121). -/
def wrapNeg (wide sat : Bool) (v : Int) : Int × Flags :=
  let lim : Int := 2 ^ (domainBits wide - 1)
  if v = lim then (if sat then (lim - 1, fSAT) else (-lim, 0)) else (v, 0)

/-- The exact result of an element-wise word in the integer domain (05 R121, R122). -/
def intOp (op : VOp) (wide sat : Bool) (v : List Int) : Int × Flags :=
  let a := v.getD 0 0
  let b := v.getD 1 0
  let c := v.getD 2 0
  let w := domainBits wide
  let k := (b % w).toNat
  match op with
  | .add => (a + b, 0)
  | .sub => (a - b, 0)
  | .mul => (a * b, 0)
  | .fma => (a * b + c, 0)
  | .fms => (a * b - c, 0)
  | .fnma => (c - a * b, 0)
  | .min => (min a b, 0)
  | .max => (max a b, 0)
  | .abs => wrapNeg wide sat a.natAbs
  | .neg => wrapNeg wide sat (-a)
  | .shl => (a * 2 ^ k, 0)
  | .shr => ((wrapTo w a / 2 ^ k : Nat), 0)
  | .sra => (a / 2 ^ k, 0)
  | _ => (a, 0)

/-- VCMP on reals: false on a NaN but for NE (05 R123). -/
def cmpReal (c : Cond) (a b : XV) : Bool :=
  if a.isNan || b.isNan then c == .ne
  else match c, a.cmp b with
    | .eq, o => o == .eq
    | .ne, o => o != .eq
    | .lt, o => o == .lt
    | .lts, o => o == .lt
    | .le, o => o != .gt
    | .les, o => o != .gt

/-- VCMP on integers: LT and LE unsigned, LTS and LES signed (05 R123). -/
def cmpInt (c : Cond) (wide : Bool) (a b : Int) : Bool :=
  let w := domainBits wide
  match c with
  | .eq => a == b
  | .ne => a != b
  | .lt => wrapTo w a < wrapTo w b
  | .le => wrapTo w a ≤ wrapTo w b
  | .lts => a < b
  | .les => a ≤ b

/-- Results that move or combine bits (05 R122, R123, R133); none for words that compute. DESIGN CHOICE (log 66): VSEL asks of the
bits of m whether they are zero, in every 8-bit format. -/
def bitsOp (op : VOp) (v : List Nat) : Option Nat :=
  let a := v.getD 0 0
  let b := v.getD 1 0
  match op with
  | .and => some (a &&& b)
  | .or => some (a ||| b)
  | .xor => some (a ^^^ b)
  | .sel => some (if a ≠ 0 then b else v.getD 2 0)
  | .copy => some a
  | .fill x => some x.toNat
  | _ => none

/-- Whether a word is a refinement step, and whether it is VRSQS (05 R130). -/
def VOp.step : VOp → Option Bool
  | .rcps => some false
  | .rsqs => some true
  | _ => none

/-- A refinement step of the integer domain, exact, written to its destination (05 R130, 04 R77, R86). DEDUCED (log 55):
the half of VRSQS is rounded to an integer in the word's mode before it wraps, and sets no NX. -/
def stepTo (f : Fmt) (md : Rnd) (draw : Nat) (v : XV) : Written :=
  if fmtInt f then
    match v with
    | .num s m e =>
      let k := (roundInt md draw s m 1 e).1
      intToInt f false false (if s then -(k : Int) else k)
    | .nan _ | .inf _ _ => ⟨0, 0, false⟩
  else writeFp f false md draw v

/-- The flags of an element of the real domain: f its operation's, w those of writing it. DEDUCED (log 55): the infinity
that a seed makes of a zero is what F32 writes for it, so there DZ stands alone, as 05 R128 gives it. -/
def seedFlags (fmt : Fmt) (f w : Flags) : Flags := if f = fDZ ∧ fmt = F32 then f else w ||| f

/-- Shifts and VIOTA wrap whatever the format (05 R122, R133). -/
def VOp.wraps : VOp → Bool
  | .shl | .shr | .sra | .iota _ _ => true
  | _ => false

/-- Element i of an element-wise word: bits and flags (05 R121 to R130, R133). -/
def Tile.vElem (t : Tile) (j : VJob) (i draw : Nat) : Nat × Flags :=
  let rdn := j.md.rnd == .rdn
  match bitsOp j.op (j.srcs.map fun s => t.srcBits s i) with
  | some b => (b % 2 ^ fmtBits j.dst.fmt, 0)
  | none =>
    match j.op with
    | .iota a b =>
      let w := intTo j.dst.fmt false true .rne 0 (a.toInt + i * b.toInt)
      (w.bits, w.flags)
    | .cmp c =>
      if j.real then
        let v := j.srcs.map fun s => t.srcReal s i
        ((cmpReal c (v.getD 0 default).1 (v.getD 1 default).1).toNat, v.foldl (fun f x => f ||| x.2) 0)
      else
        let v := j.srcs.map fun s => t.srcInt s i
        ((cmpInt c j.wide (v.getD 0 0) (v.getD 1 0)).toNat, 0)
    | op =>
      if j.real then
        let v := j.srcs.map fun s => t.srcReal s i
        let (y, f) := realOp op rdn (v.map (·.1))
        let w := realTo j.dst.fmt j.md.ovf j.md.rnd draw y
        (w.bits, seedFlags j.dst.fmt f w.flags ||| v.foldl (fun f x => f ||| x.2) 0)
      else
        let v := j.srcs.map fun s => t.srcInt s i
        match op.step with
        | some sq =>
          let w := stepTo j.dst.fmt j.md.rnd draw (stepVal sq false (XV.ofInt (v.getD 0 0)) (XV.ofInt (v.getD 1 0)))
          (w.bits, w.flags)
        | none =>
          let (y, f) := intOp op j.wide j.md.ovf v
          let w := intTo j.dst.fmt j.md.ovf op.wraps j.md.rnd draw y
          (w.bits, w.flags ||| f)

/-! ### Draws (04 R73) -/

/-- The next k draws, and the state after them. -/
def drawList : Nat → BitVec 32 → List Nat × BitVec 32
  | 0, x => ([], x)
  | k + 1, x =>
    let y := drawNext x
    let (l, z) := drawList k y
    (y.toNat :: l, z)

/-- The state after k draws. -/
def drawSkip : Nat → BitVec 32 → BitVec 32
  | 0, x => x
  | k + 1, x => drawSkip k (drawNext x)

/-- The draws of a beat's elements, and the state for the next beat; zeros unless the mode is SR. -/
def VJob.draws (j : VJob) (k : Nat) : List Nat × BitVec 32 :=
  if j.md.rnd = .sr then drawList k j.seed else (List.replicate k 0, j.seed)

/-! ### Reductions (04 R92) -/

/-- One level of the tree: adjacent results joined; a node with one child passes it on. -/
def pairUp {α : Type} (f : α → α → α) : List α → List α
  | a :: b :: r => f a b :: pairUp f r
  | l => l

/-- The tree over up to 64 present lanes. -/
def treeFold {α : Type} (f : α → α → α) (l : List α) : List α := (List.range 6).foldl (fun l _ => pairUp f l) l

/-- Two partial results of a real reduction joined, with the flags so far. DESIGN CHOICE (log 66): the roundings between the
elements and the result set their flags too (04 R79). -/
def joinReal (op : VOp) (a b : XV × Flags) : XV × Flags :=
  match op with
  | .maxr => ((minMax true a.1 b.1).getD quietNan, a.2 ||| b.2)
  | .minr => ((minMax false a.1 b.1).getD quietNan, a.2 ||| b.2)
  | _ =>
    let (v, f) := rne32 (a.1.add false b.1)
    (v, a.2 ||| b.2 ||| f)

/-- Two partial results of an integer reduction joined: sums wrap in the domain. -/
def joinInt (op : VOp) (wide : Bool) (a b : Int) : Int :=
  match op with
  | .maxr => max a b
  | .minr => min a b
  | _ => signed (domainBits wide) (wrapTo (domainBits wide) (a + b))

/-- Lane i of a real reduction. -/
def Tile.laneReal (t : Tile) (j : VJob) (i : Nat) : XV × Flags :=
  let v := j.srcs.map fun s => t.srcReal s i
  let f := v.foldl (fun f x => f ||| x.2) 0
  match j.op with
  | .dot =>
    let (p, g) := rne32 ((v.getD 0 default).1.mul (v.getD 1 default).1)
    (p, f ||| g)
  | _ => ((v.getD 0 default).1, f)

/-- Lane i of an integer reduction. DESIGN CHOICE (log 61): VDOT's product wraps to the domain before the tree joins it, as
every node of the tree does. -/
def Tile.laneInt (t : Tile) (j : VJob) (i : Nat) : Int :=
  let v := j.srcs.map fun s => t.srcInt s i
  match j.op with
  | .dot => signed (domainBits j.wide) (wrapTo (domainBits j.wide) (v.getD 0 0 * v.getD 1 0))
  | _ => v.getD 0 0

/-! ### VQNT (05 R125) -/

/-- A quotient of a value that is no NaN by a positive one, rounded to F32 with RNE: zero of the value's sign by an
infinite one, and a NaN where both are infinite. -/
def divRne32 (a b : XV) : XV × Bool :=
  match a, b with
  | .num s m e, .num _ n f =>
    let w := ratioTo 4 false .rne 0 s m n (e - f)
    (f32Value a w, w.nx)
  | .num s _ _, .inf _ _ => (.num s 0 0, false)
  | .inf _ _, .inf _ _ => (.nan true, false)
  | v, _ => (v, false)

/-- The least s with m * 2^-s at most the largest finite value of the element format, clamped to −127 to 127. DESIGN CHOICE (log
64): of an infinite m, which no s brings below the bound, s is 127. -/
def blockShift (fmt : Fmt) (m : XV) : Int :=
  match m with
  | .num _ k e =>
    if k = 0 then 0
    else
      let big : XV := if fmt = E4M3S then .num false 448 0 else .num false 127 0
      (((List.range 255).map fun (i : Nat) => (i : Int) - 127).find? fun s =>
        (XV.num false k (e - s)).cmp big != .gt).getD 127
  | _ => 127

/-- A block of E4M3S or I8S: the elements with their flags, and the shift byte. -/
def quantShift (fmt : Fmt) (rnd : Rnd) (v : List XV) (draws : List Nat) : List (Nat × Flags) × Nat :=
  if v.all XV.isZero then (v.map fun _ => (0, 0), 0x80)
  else
    let m := v.foldl (fun m x => (minMax true m x.abs).getD m) XV.zero
    let s := blockShift fmt m
    ((v.zip draws).map fun (x, d) =>
      let y := x.scale (-s)
      let w := if fmt = E4M3S then writeFp 7 false rnd d y else realToInt 1 rnd d y
      (w.bits, w.flags), wrapTo 8 s)

/-- round_int of a value as an integer, with whether it was inexact; an infinity goes beyond every code, and a NaN is 0
(04 R76). -/
def roundIntOf (rnd : Rnd) (d : Nat) : XV → Int × Bool
  | .nan _ => (0, false)
  | .inf s _ => (if s then -1000 else 1000, false)
  | .num s m e =>
    let (k, nx) := roundInt rnd d s m 1 e
    (if s then -(k : Int) else k, nx)

/-- A group of I4A or I8A: the elements with their flags, and the table entry. Every intermediate result is rounded to
F32 with RNE. DESIGN CHOICE (log 61): the rounding or the overflow of an entry's F16 scale, which is no element, sets no
flag. DESIGN CHOICE (log 66): an element sets NX where its quotient, its rounding to an integer or the clamp changes its value, SAT
where the clamp does, and a NaN sets NV in a group of zeros too. -/
def quantAffine (fmt : Fmt) (rnd : Rnd) (v : List XV) (draws : List Nat) : List (Nat × Flags) × Nat :=
  let top : Int := if fmt = I4A then 15 else 255
  let lo := v.foldl (fun m x => (minMax false m x).getD m) XV.zero
  let hi := v.foldl (fun m x => (minMax true m x).getD m) XV.zero
  let nanFl (x : XV) : Flags := if x.isNan then fNV else 0
  if lo.isZero && hi.isZero then (v.map fun x => (0, nanFl x), 0x3C00)
  else
    let span := (rne32 (hi.add false lo.neg)).1
    let sc := (divRne32 span (XV.ofInt top)).1
    let bits := (writeFp 6 false .rne 0 sc).bits
    -- the smallest positive F16 is 2^-24, encoded 1
    let bits := if bits % 0x8000 = 0 then 1 else bits
    let scale := decodeFp 6 bits
    let z := max 0 (min top (roundIntOf .rne 0 (divRne32 lo.neg scale).1).1)
    ((v.zip draws).map fun (x, d) =>
      if x.isNan then (z.toNat, fNV)
      else
        let (q, nx1) := divRne32 x scale
        let (k, nx2) := roundIntOf rnd d q
        let y := k + z
        let w := max 0 (min top y)
        (w.toNat, (if (nx1 || nx2 || y != w) && !x.isInf then fNX else 0) ||| (if y != w then fSAT else 0) |||
          (if q.isNan then fNV else 0)),
      z.toNat * 65536 + bits)

/-- Elements of a block or group of a scaled region. -/
def groupLen (r : Region) : Nat := if r.fmt = I4A ∨ r.fmt = I8A then r.gsz else 32

/-- One finished group of VQNT, whose first element is i: masked writes of its elements by element number, its table
entry, and its flags. -/
def quantGroup (j : VJob) (v : List XV) (draws : List Nat) : List (Nat × Flags) × Nat :=
  if j.dst.fmt = I4A ∨ j.dst.fmt = I8A then quantAffine j.dst.fmt j.md.rnd v draws
  else quantShift j.dst.fmt j.md.rnd v draws

/-! ### Beats (05 R103) -/

/-- The number of beats of a count. -/
def beatsOf (n : Nat) : Nat := (n + 63) / 64

/-- The elements of a beat. -/
def VJob.lanes (j : VJob) : List Nat :=
  ((List.range 64).map (64 * j.beat + ·)).filter (· < j.count)

/-- The write cycle of a beat (05 R103). -/
def VJob.writeAt (j : VJob) (b : Nat) : Nat := j.iss + j.lat + j.ivl * b

/-- The write cycle of the last beat, which is also a single result's. -/
def VJob.lastAt (j : VJob) : Nat := j.writeAt (beatsOf j.count - 1)

def VJob.isLast (j : VJob) : Bool := beatsOf j.count ≤ j.beat + 1

/-- Scratchpad writes and flags of the word of a job scheduled for a cycle, in its place among the slot's words. -/
def Tile.schedV (t : Tile) (j : VJob) (at_ : Nat) (l : List (Nat × Byte × Byte)) (f : Flags) : Tile :=
  let t := if l.isEmpty then t else t.schedAs .v j.iss j.pc at_ (.spad l)
  if f = 0 then t else t.schedAs .v j.iss j.pc at_ (.vflags f)

/-- Flags of a list of elements. -/
def orFlags (l : List (Nat × Flags)) : Flags := l.foldl (fun f x => f ||| x.2) 0

/-- A beat of an element-wise word. -/
def Tile.beatElems (t : Tile) (j : VJob) : Tile × VJob :=
  let (ds, seed) := j.draws j.lanes.length
  let l := (j.lanes.zip ds).map fun (i, d) => (i, t.vElem j i d)
  (t.schedV j (j.writeAt j.beat) (l.flatMap fun (i, e) => j.dst.elemWrite i e.1) (orFlags (l.map (·.2))),
    { j with seed := seed })

/-- A beat of a reduction; the last one writes the result. -/
def Tile.beatReduce (t : Tile) (j : VJob) : Tile × VJob :=
  let draw := (drawNext j.seed).toNat
  if j.real then
    let l := treeFold (joinReal j.op) (j.lanes.map (t.laneReal j))
    match (j.vals.map fun v => (v, j.fl)) ++ l with
    | [] => (t, j)
    | x :: r =>
      let (v, f) := r.foldl (joinReal j.op) x
      if j.isLast then
        let w := realTo j.dst.fmt j.md.ovf j.md.rnd draw v
        (t.schedV j j.lastAt (j.dst.elemWrite 0 w.bits) (f ||| w.flags), j)
      else (t, { j with vals := [v], fl := f })
  else
    match j.ints ++ treeFold (joinInt j.op j.wide) (j.lanes.map (t.laneInt j)) with
    | [] => (t, j)
    | x :: r =>
      let v := r.foldl (joinInt j.op j.wide) x
      if j.isLast then
        let w := intTo j.dst.fmt j.md.ovf false j.md.rnd draw v
        (t.schedV j j.lastAt (j.dst.elemWrite 0 w.bits) w.flags, j)
      else (t, { j with ints := [v] })

/-- The value that element i of VQNT's source has. -/
def Tile.quantSource (t : Tile) (j : VJob) (i : Nat) : XV × Flags :=
  match j.srcs with
  | s :: _ => if j.real then t.srcReal s i else (XV.ofInt (t.srcInt s i), 0)
  | [] => (XV.zero, 0)

/-- The groups of VQNT that a list of values completes, from element i on; what is left over stays in the job. -/
def quantGroups (j : VJob) (i : Nat) (vals : List XV) (draws : List Nat) : Nat → Tile → Tile
  | 0, t => t
  | k + 1, t =>
    let g := groupLen j.dst
    let (es, entry) := quantGroup j (vals.take g) (draws.take g)
    let last := i + g - 1
    let t := (es.zipIdx i).foldl (fun t (e, n) => t.schedV j (j.writeAt (n / 64)) (j.dst.elemWrite n e.1) e.2) t
    let (a, w) := j.dst.entryAt last
    let t := t.schedV j (j.writeAt (last / 64)) (wholeBytes a (leBytes w entry)) 0
    quantGroups j (i + g) (vals.drop g) (draws.drop g) k t

/-- A beat of VQNT: groups are written once they are complete, at each element's own cycle. -/
def Tile.beatQuant (t : Tile) (j : VJob) : Tile × VJob :=
  let new := j.lanes.map (t.quantSource j)
  let vals := j.vals ++ new.map (·.1)
  let start := 64 * j.beat - j.vals.length
  let done := vals.length / groupLen j.dst
  let used := done * groupLen j.dst
  let (ds, seed) := j.draws used
  let t := t.schedV j (j.writeAt j.beat) [] (new.foldl (fun f x => f ||| x.2) 0)
  (quantGroups j start vals ds done t, { j with vals := vals.drop used, seed := seed })

/-- The lists of VPART: each outcome's index goes to the end of its list, or sets IDX (05 R134). -/
def partLists (caps : List Nat) : List (Nat × Nat) → List (List Nat) × Bool
  | l => l.foldl (fun (ls, idx) (i, k) =>
      let have_ := (ls.getD k []).length
      if k ≤ 3 ∧ have_ < caps.getD k 0 then (setNth ls k (ls.getD k [] ++ [i]), idx) else (ls, true))
    ([[], [], [], []], false)

/-- The lists of VPART that outcomes, in order, make, and whether IDX is set. -/
def VJob.listsOf (j : VJob) (ints : List Int) : List (List Nat) × Bool :=
  partLists (j.lists.map fun l => l.2.2.count) (ints.zipIdx.map fun (k, i) => (i, k.toNat))

/-- Pending bits for the list elements that a beat's outcomes add (03 R57, log 56). -/
def Tile.reserveLists (t : Tile) (j : VJob) (before after : List (List Nat)) : Tile :=
  t.reserve .v j.iss j.lastAt (((j.lists.zip (before.zip after)).flatMap fun (d, b, a) =>
    (List.range (a.length - b.length)).flatMap fun n => (d.2.2.elemWrite (b.length + n) 0).map (·.1)))

/-- A beat of VPART: outcomes are kept, and the last beat writes the lists and their registers. -/
def Tile.beatPart (t : Tile) (j : VJob) : Tile × VJob :=
  let ints := j.ints ++ j.lanes.map fun i => match j.srcs with
    | s :: _ => (t.srcBits s i : Int)
    | [] => 0
  let (ls, idx) := j.listsOf ints
  let t := t.reserveLists j (j.listsOf j.ints).1 ls
  if j.isLast then
    let t := (j.lists.zip ls).foldl (fun t (d, l) =>
      let r := d.2.2
      let t := t.schedV j j.lastAt (l.zipIdx.flatMap fun (v, n) => r.elemWrite n v) 0
      let w := setFld (setFld (setFld (setFld d.2.1 40 16 l.length) 56 4 3) 60 1 1) 24 16 1
      if d.1 = 0 then t else t.schedAs .v j.iss j.pc j.lastAt (.reg .v d.1 false w)) t
    (t.schedV j j.lastAt [] (if idx then fIDX else 0), j)
  else (t, { j with ints := ints })

/-- A beat of VGATH or VSCAT (05 R135): srcs are the list and the region a; lists' region is the one indexed. -/
def Tile.beatIndexed (t : Tile) (j : VJob) (scat : Bool) : Tile × VJob :=
  match j.srcs with
  | l :: a :: _ =>
    let w := j.writeAt j.beat
    let es := j.lanes.map fun i => (i, signed 32 (t.srcBits l i))
    let inside (k : Int) : Bool := 0 ≤ k && k < (if scat then j.dst.count else a.reg.count)
    let idx := es.any fun e => !inside e.2
    if scat then
      let ws := es.flatMap fun (i, k) => if inside k then j.dst.elemWrite k.toNat (t.srcBits a i) else []
      ((t.schedSpadAs .v j.iss j.pc w ws).schedV j w [] (if idx then fIDX else 0), j)
    else
      let ws := es.flatMap fun (i, k) => j.dst.elemWrite i (if inside k then t.rawElem a.reg k.toNat else 0)
      (t.schedV j w ws (if idx then fIDX else 0), j)
  | _ => (t, j)

/-- Beat j.beat read in the cycle in progress. -/
def Tile.runBeat (t : Tile) (j : VJob) : Tile :=
  let t := t.count 6 2 1
  let (t, j') := match j.op with
    | .sum | .dot | .maxr | .minr => t.beatReduce j
    | .qnt => t.beatQuant j
    | .part => t.beatPart j
    | .gath => t.beatIndexed j false
    | .scat => t.beatIndexed j true
    | _ => t.beatElems j
  if j.isLast then t else { t with vjobs := t.vjobs ++ [{ j' with beat := j.beat + 1 }] }

/-- Every beat due in the cycle in progress (05 R103). -/
def Tile.runBeats (t : Tile) : Tile :=
  let due := t.vjobs.filter fun j => j.iss + j.ivl * j.beat = t.cyc
  due.foldl (fun t j => t.runBeat j)
    { t with vjobs := t.vjobs.filter fun j => j.iss + j.ivl * j.beat != t.cyc }

/-! ### A word's plan (05 R101, R102, R104, R105) -/

/-- The words of a byte range, four bytes each. -/
def wordsOf (a n : Nat) : List Nat := if n = 0 then [] else (List.range ((a + n - 1) / 4 - a / 4 + 1)).map (a / 4 + ·)

/-- Pending bits of elements of a region, for a write at a cycle (03 R57). -/
def Tile.reserveElems (t : Tile) (at_ : Nat) (r : Region) (is : List Nat) : Tile :=
  { t with reserved := t.reserved ++ is.flatMap fun i =>
      (wordsOf (r.addr i).toNat (fmtBytes r.fmt)).map fun w => ⟨w, at_, .v, t.cyc⟩ }

/-- Pending bits for every write whose address is known at issue, and VPART's registers in the scoreboard. DEDUCED (log
56): VPART's list elements and VSCAT's elements, whose addresses depend on data, get their bits with the beat that reads
that data. -/
def Tile.reserveJob (t : Tile) (j : VJob) : Tile :=
  match j.op with
  | .sum | .dot | .maxr | .minr => t.reserveElems j.lastAt j.dst [0]
  | .part =>
    { t with board := t.board ++ (j.lists.filter fun l => l.1 != 0).map fun l => ⟨.v, t.codeS .v l.1, j.lastAt⟩ }
  | .scat => t
  | _ =>
    let t := (List.range (beatsOf j.count)).foldl
      (fun t b => t.reserveElems (j.writeAt b) j.dst { j with beat := b }.lanes) t
    match j.op with
    | .qnt =>
      let g := groupLen j.dst
      { t with reserved := t.reserved ++ (List.range (j.count / g)).map fun k =>
          ⟨(j.dst.entryAt (k * g)).1 / 4, j.writeAt ((k * g + g - 1) / 64), .v, t.cyc⟩ }
    | _ => t

/-- How many draws a word takes at issue (04 R73, 05 R125, R132). -/
def VJob.drawCount (j : VJob) : Nat :=
  if j.md.rnd ≠ .sr then 0
  else match j.op with
    | .sum | .dot => 1
    | _ => j.count

/-- SRSEED with its generator advanced. -/
def Tile.advanceSeed (t : Tile) (k : Nat) : Tile :=
  { t with srseed := drawSkip k (t.srseed.extractLsb' 32 32) ++ t.srseed.extractLsb' 0 32 }

/-- The word's effect at its issue: its pipeline time, draws and pending bits taken, beat 0 read. DEDUCED (log 65): a VPART
of count 0 still writes its lists' registers (05 R134), where any other word of count 0 has no effect (05 R102). -/
def Tile.startJob (t : Tile) (j : VJob) : Tile :=
  if j.count = 0 then (if j.op = .part then ((t.reserveJob j).beatPart j).1 else t)
  else
    let t := { t with vFree := t.cyc + j.ivl * beatsOf j.count }
    let t := (t.advanceSeed j.drawCount).count 11 2 j.drawCount
    (t.reserveJob j).runBeat j

/-- A source of a word with its modifier; a broadcast's element is read now (05 R105). -/
def Tile.mkSrc (t : Tile) (v : VReg) (m : SMod) : VSrc :=
  let r := v.r
  ⟨r, m, if r.count = 1 ∧ m.cls = 0 then some (t.rawElem r 0, t.entryElem r 0) else none⟩

/-- The count rule of 05 R105 for a source: count n, or count 1, a broadcast, which takes no modifier. -/
def countBad (n : Nat) (v : VReg) (m : SMod) : Bool :=
  if v.r.count = 1 then m.cls != 0 else v.r.count != n

/-- What a region word asks of its plan. -/
structure VSpec where
  op    : VOp
  md    : Mode := ⟨.rne, false⟩
  lat   : Nat
  /-- Whether step 1 of 05 R102 forbids the word. -/
  bad   : Bool
  n     : Nat
  dst   : Region
  srcs  : List (VReg × SMod)
  /-- Regions checked by steps 2 and 3, and those whose table entries the word reads or writes. -/
  regs  : List Region
  tabs  : List Region
  /-- Formats of the descriptors, all of which the service must have. -/
  fmts  : List Fmt := regs.map (·.fmt)
  /-- A check after step 3 (05 R126). -/
  more  : Option TrapReq := none
  ivl   : Nat
  real  : Bool
  wide  : Bool
  lists : List (Fin 32 × W64 × Region) := []
  outs  : List (Out × Nat) := []

/-- The job with which a region word starts on a tile. -/
def VSpec.job (v : VSpec) (u : Tile) : VJob := {
  op := v.op, md := v.md, dst := v.dst, srcs := v.srcs.map fun s => u.mkSrc s.1 s.2
  iss := u.cyc, pc := (u.slot .v).pc.toNat, lat := v.lat, ivl := v.ivl, count := v.n, beat := 0, real := v.real, wide := v.wide
  seed := u.srseed.extractLsb' 32 32, vals := [], ints := [], fl := 0, lists := v.lists }

/-- Whether PENDTRAP would raise PEND for a region word (03 R57); the region that VGATH indexes is no such source. -/
def VSpec.early (v : VSpec) (t : Tile) : Bool :=
  let reads := match v.op with
    | .gath => v.srcs.take 1
    | _ => v.srcs
  v.n != 0 && reads.any fun s => t.earlySource (t.mkSrc s.1 s.2) (v.tabs.contains s.1.r) v.n v.ivl

/-- The retirement cycle of a region word that issues at a cycle. -/
def VSpec.ends (v : VSpec) (iss : Nat) : Nat := if v.n = 0 ∧ v.op ≠ .part then iss else iss + v.lat + v.ivl * (beatsOf v.n - 1)

/-- Whether a region word names a format that the bring-up service lacks (21 R399). DESIGN CHOICE (log 64): it raises ILL, as an MTSR
of that format does. -/
def VSpec.lacking (v : VSpec) (s : State) : Bool := v.fmts.any s.lacks

/-- The plan of a region word. -/
def VSpec.plan (v : VSpec) (s : State) (t : Tile) : Plan :=
  if v.bad || v.lacking s then Plan.ill4
  else match checkRegions v.regs (if v.n = 0 then [] else v.tabs) with
    | some r => { trap := some r }
    | none =>
      match v.more with
      | some r => { trap := some r }
      | none =>
        { early := v.early t
          wait := if v.n ≠ 0 ∧ t.cyc < t.vFree then some .busy else none
          outs := v.outs
          act := fun u => u.startJob (v.job u)
          retire := v.ends t.cyc }

/-- The modifiers that the word's prefix gives to F1, F2 and F3. -/
def curMods (c : Cur) : SMod × SMod × SMod := c.mods.getD (noMod, noMod, noMod)

/-- Whether the word computes in the real domain, and whether its integer domain is I64 (04 R86 step 1). -/
def domainOf (vs : List VReg) : Bool × Bool := (vs.any VReg.real, vs.any fun v => v.typed && v.r.fmt == I64)

/-- Which extra checks of step 1 an element-wise word makes. -/
inductive VRule where
  | plain | bitwise | shift | cmp | sel | copy
  deriving DecidableEq, Repr

/-- Step 1 of 05 R102 for an element-wise word, beyond the descriptors' own bits and the counts (05 R121 to R133). -/
def ruleBad (r : VRule) (d : VReg) (ss : List VReg) : Bool :=
  match r with
  | .plain => d.scaled
  | .bitwise => d.scaled || (d :: ss).any fun v => (d :: ss).any v.widthDiffer || (v.typed && v.r.fmt == I4A)
  | .shift => d.scaled || ss.any VReg.real
  | .cmp => d.typed && d.r.fmt != I8 && d.r.fmt != N8 && d.r.fmt != RAW8
  | .sel => (ss.take 1).any (fun m => !m.eightBit) || (ss.drop 1).any (fun v => v.fmtDiffer d) ||
      (match ss.drop 1 with
        | a :: b :: _ => a.fmtDiffer b
        | _ => false)
  | .copy => ss.any fun v => v.widthDiffer d || (d.scaled && v.fmtDiffer d)

/-- What an element-wise word asks, with its sources in F1, F2 and F3. moves tells that bits move and no table entry is
read. -/
def elemSpec (t : Tile) (cur : Cur) (op : VOp) (md : Mode) (lat : Nat) (rule : VRule) (forceReal moves : Bool)
    (d : Fin 32) (as : List (Fin 32)) : VSpec :=
  let vd := t.vreg d
  let vs := as.map t.vreg
  let m := curMods cur
  let n := vd.r.count
  let srcs := vs.zip [m.1, m.2.1, m.2.2]
  { op := op, md := md, lat := lat
    bad := vd.badBits || vs.any VReg.badBits || srcs.any (fun p => countBad n p.1 p.2) || ruleBad rule vd vs
    n := n, dst := vd.r, srcs := srcs
    regs := vd.r :: vs.map (·.r)
    tabs := if moves then [] else vs.map (·.r)
    ivl := wordInterval (vd.r :: vs.map (·.r))
    real := (domainOf vs).1 || forceReal, wide := (domainOf vs).2 }

/-- An element-wise word. -/
def elemWord (s : State) (op : VOp) (md : Mode) (lat : Nat) (rule : VRule) (forceReal moves : Bool)
    (d : Fin 32) (as : List (Fin 32)) : Out3 :=
  runWord s { srcs := Src.s d :: as.map Src.s } fun t _ => (elemSpec t s.cur op md lat rule forceReal moves d as).plan s t

/-! ### Class 0x4: arithmetic (05 R121) -/

def execVadd (d a b : Fin 32) (md : Mode) (s : State) : Out3 := elemWord s .add md 3 .plain false false d [a, b]
def execVsub (d a b : Fin 32) (md : Mode) (s : State) : Out3 := elemWord s .sub md 3 .plain false false d [a, b]
def execVmul (d a b : Fin 32) (md : Mode) (s : State) : Out3 := elemWord s .mul md 5 .plain false false d [a, b]
def execVfma (d a b c : Fin 32) (md : Mode) (s : State) : Out3 := elemWord s .fma md 5 .plain false false d [a, b, c]
def execVfms (d a b c : Fin 32) (md : Mode) (s : State) : Out3 := elemWord s .fms md 5 .plain false false d [a, b, c]
def execVfnma (d a b c : Fin 32) (md : Mode) (s : State) : Out3 := elemWord s .fnma md 5 .plain false false d [a, b, c]
def execVmin (d a b : Fin 32) (md : Mode) (s : State) : Out3 := elemWord s .min md 3 .plain false false d [a, b]
def execVmax (d a b : Fin 32) (md : Mode) (s : State) : Out3 := elemWord s .max md 3 .plain false false d [a, b]
def execVabs (d a : Fin 32) (md : Mode) (s : State) : Out3 := elemWord s .abs md 3 .plain false false d [a]
def execVneg (d a : Fin 32) (md : Mode) (s : State) : Out3 := elemWord s .neg md 3 .plain false false d [a]

/-! ### Class 0x5: bits, comparisons, conversions (05 R122 to R126) -/

/-- The mode of a word without one. -/
def plainMode : Mode := ⟨.rne, false⟩

def execVand (d a b : Fin 32) (s : State) : Out3 := elemWord s .and plainMode 2 .bitwise false true d [a, b]
def execVor (d a b : Fin 32) (s : State) : Out3 := elemWord s .or plainMode 2 .bitwise false true d [a, b]
def execVxor (d a b : Fin 32) (s : State) : Out3 := elemWord s .xor plainMode 2 .bitwise false true d [a, b]
def execVshl (d a b : Fin 32) (s : State) : Out3 := elemWord s .shl plainMode 2 .shift false false d [a, b]
def execVshr (d a b : Fin 32) (s : State) : Out3 := elemWord s .shr plainMode 2 .shift false false d [a, b]
def execVsra (d a b : Fin 32) (s : State) : Out3 := elemWord s .sra plainMode 2 .shift false false d [a, b]
def execVcmpEq (d a b : Fin 32) (s : State) : Out3 := elemWord s (.cmp .eq) plainMode 3 .cmp false false d [a, b]
def execVcmpNe (d a b : Fin 32) (s : State) : Out3 := elemWord s (.cmp .ne) plainMode 3 .cmp false false d [a, b]
def execVcmpLt (d a b : Fin 32) (s : State) : Out3 := elemWord s (.cmp .lt) plainMode 3 .cmp false false d [a, b]
def execVcmpLts (d a b : Fin 32) (s : State) : Out3 := elemWord s (.cmp .lts) plainMode 3 .cmp false false d [a, b]
def execVcmpLe (d a b : Fin 32) (s : State) : Out3 := elemWord s (.cmp .le) plainMode 3 .cmp false false d [a, b]
def execVcmpLes (d a b : Fin 32) (s : State) : Out3 := elemWord s (.cmp .les) plainMode 3 .cmp false false d [a, b]
def execVsel (d m a b : Fin 32) (s : State) : Out3 := elemWord s .sel plainMode 2 .sel false true d [m, a, b]
def execVcvt (d a : Fin 32) (md : Mode) (s : State) : Out3 := elemWord s .cvt md 4 .plain false false d [a]

/-- Whether n elements of a scaled region fall on whole blocks or groups of its bank (05 R125). -/
def Region.wholeGroups (r : Region) (n : Nat) : Bool :=
  let g := groupLen r
  r.index 0 % g == 0 && n % g == 0

/-- VQNT (05 R125). DEDUCED (log 55): a table entry that it would write at 0x30_0000 or above raises SPMAP at issue, as one
that a word would read does (04 R83). -/
def qntSpec (t : Tile) (cur : Cur) (d a : Fin 32) (rnd : Rnd) : VSpec :=
  let vd := t.vreg d
  let va := t.vreg a
  let m1 := (curMods cur).1
  let n := vd.r.count
  { op := .qnt, md := ⟨rnd, false⟩, lat := 8
    bad := vd.badBits || va.badBits || countBad n va m1 || va.scaled || vd.r.stride != 1 ||
      (vd.typed && (!vd.scaled || !vd.r.wholeGroups n))
    n := n, dst := vd.r, srcs := [(va, m1)]
    regs := [vd.r, va.r], tabs := [vd.r]
    ivl := wordInterval [vd.r, va.r], real := (domainOf [va]).1, wide := (domainOf [va]).2 }

def execVqnt (d a : Fin 32) (rnd : Rnd) (s : State) : Out3 :=
  runWord s { srcs := [.s d, .s a] } fun t _ => (qntSpec t s.cur d a rnd).plan s t

/-- VDQNT (05 R126): the table lies at the BASE of t. DESIGN CHOICE (log 64): TRAPV of the ALIGN for it is that BASE, and an
unscaled integer d, for which R126 names no fault, is written by 04 R76. -/
def dqntSpec (t : Tile) (cur : Cur) (d a tb : Fin 32) (md : Mode) : VSpec :=
  let vd := t.vreg d
  let base := fld (t.readS .v tb) 0 22
  let va0 := t.vreg a
  let va := { va0 with r := { va0.r with tbase := base } }
  let m1 := (curMods cur).1
  let n := vd.r.count
  { op := .dqnt, md := md, lat := 5
    bad := vd.badBits || va.badBits || countBad n va m1 || vd.scaled || (va.typed && !va.scaled)
    n := n, dst := vd.r, srcs := [(va, m1)]
    regs := [vd.r, va.r], tabs := [va.r]
    more := if (va.r.fmt = I4A ∨ va.r.fmt = I8A) ∧ base % 4 ≠ 0 ∧ va.typed then some ⟨.align, 0, some (w64 base)⟩ else none
    ivl := wordInterval [vd.r, va.r], real := true, wide := false }

def execVdqnt (d a tb : Fin 32) (md : Mode) (s : State) : Out3 :=
  runWord s { srcs := [.s d, .s a, .s tb] } fun t _ => (dqntSpec t s.cur d a tb md).plan s t

/-! ### Class 0x6: seeds, steps, reductions (05 R127 to R132) -/

def execVrcpe (d a : Fin 32) (s : State) : Out3 := elemWord s .rcpe plainMode 6 .plain true false d [a]
def execVrsqe (d a : Fin 32) (s : State) : Out3 := elemWord s .rsqe plainMode 6 .plain true false d [a]
def execVrcps (d a b : Fin 32) (rnd : Rnd) (s : State) : Out3 := elemWord s .rcps ⟨rnd, false⟩ 5 .plain false false d [a, b]
def execVrsqs (d a b : Fin 32) (rnd : Rnd) (s : State) : Out3 := elemWord s .rsqs ⟨rnd, false⟩ 5 .plain false false d [a, b]
def execVexp2e (d a : Fin 32) (s : State) : Out3 := elemWord s .exp2e plainMode 6 .plain true false d [a]
def execVlog2e (d a : Fin 32) (s : State) : Out3 := elemWord s .log2e plainMode 6 .plain true false d [a]

/-- A reduction (05 R132): the count of d must be 1, and n is the count of a. -/
def reduceSpec (t : Tile) (cur : Cur) (op : VOp) (md : Mode) (lat : Nat) (d a : Fin 32) (b : Option (Fin 32)) : VSpec :=
  let vd := t.vreg d
  let va := t.vreg a
  let vb := (b.map t.vreg).toList
  let m := curMods cur
  let n := va.r.count
  let rs := vd.r :: (va :: vb).map (·.r)
  { op := op, md := md, lat := lat
    bad := vd.badBits || (va :: vb).any VReg.badBits || vd.r.count != 1 || vd.scaled ||
      ((va :: vb).zip [m.1, m.2.1]).any (fun p => countBad n p.1 p.2)
    n := n, dst := vd.r, srcs := (va :: vb).zip [m.1, m.2.1]
    regs := rs, tabs := (va :: vb).map (·.r)
    ivl := wordInterval rs, real := (domainOf (va :: vb)).1, wide := (domainOf (va :: vb)).2 }

def reduceWord (s : State) (op : VOp) (md : Mode) (lat : Nat) (d a : Fin 32) (b : Option (Fin 32)) : Out3 :=
  runWord s { srcs := [.s d, .s a] ++ (b.map Src.s).toList } fun t _ => (reduceSpec t s.cur op md lat d a b).plan s t

def execVsum (d a : Fin 32) (md : Mode) (s : State) : Out3 := reduceWord s .sum md 10 d a none
def execVdot (d a b : Fin 32) (md : Mode) (s : State) : Out3 := reduceWord s .dot md 12 d a (some b)
def execVmaxr (d a : Fin 32) (s : State) : Out3 := reduceWord s .maxr plainMode 8 d a none
def execVminr (d a : Fin 32) (s : State) : Out3 := reduceWord s .minr plainMode 8 d a none

/-! ### Class 0x7: index, fill, copy, partition, gather (05 R133 to R135) -/

/-- VIOTA and VFILL: scalar sources, and no source region. -/
def fillSpec (t : Tile) (lat : Nat) (d : Fin 32) (op : VOp) : VSpec :=
  let vd := t.vreg d
  { op := op, lat := lat
    bad := vd.badBits || vd.scaled
    n := vd.r.count, dst := vd.r, srcs := []
    regs := [vd.r], tabs := []
    ivl := wordInterval [vd.r], real := false, wide := true }

def fillWord (s : State) (lat : Nat) (d : Fin 32) (as : List Src) (op : List W64 → VOp) : Out3 :=
  runWord s { srcs := .s d :: as } fun t v => (fillSpec t lat d (op (v.drop 1))).plan s t

def execViota (d : Fin 32) (a b : Src) (s : State) : Out3 := fillWord s 2 d [a, b] fun v => .iota (nth v 0) (nth v 1)
def execVfill (d : Fin 32) (a : Src) (s : State) : Out3 := fillWord s 1 d [a] fun v => .fill (nth v 0)
def execVcopy (d a : Fin 32) (s : State) : Out3 := elemWord s .copy plainMode 2 .copy false true d [a]

/-- VPART (05 R134). s0 as a list takes no index and is written nowhere (05 R101). DESIGN CHOICE (log 64): the LIST bit of a
d0 to d3, which the word itself sets, is not checked. -/
def partSpec (t : Tile) (ds : List (Fin 32)) (o : Fin 32) : VSpec :=
  let vo := t.vreg o
  let vl := ds.map t.vreg
  let lists := vl.map fun v => { v.r with fmt := I32 }
  let n := vo.r.count
  let rs := vo.r :: lists
  let ivl := wordInterval rs
  { op := .part, lat := 6
    bad := vo.badBits || vl.any VReg.badBits || !vo.eightBit || vl.any (fun v => !v.s0 && v.r.stride != 1)
    n := n, dst := vo.r, srcs := [(vo, noMod)]
    regs := rs, tabs := [], fmts := (vo :: vl).map (·.r.fmt)
    ivl := ivl, real := false, wide := false
    lists := ds.zip ((vl.map (·.w)).zip lists)
    outs := ds.map fun d => (.s d, 6 + ivl * (beatsOf n - 1)) }

def execVpart (d0 d1 d2 d3 o : Fin 32) (s : State) : Out3 :=
  let ds := [d0, d1, d2, d3]
  runWord s { srcs := (ds ++ [o]).map Src.s } fun t _ => (partSpec t ds o).plan s t

/-- Step 1 of 05 R102 for VGATH and VSCAT. -/
def indexedBad (d a l : VReg) : Bool :=
  d.badBits || a.badBits || l.badBits || (!l.s0 && !l.r.list) || (l.typed && l.r.fmt != I32) || a.widthDiffer d ||
    (d.scaled && a.fmtDiffer d)

/-- VGATH (05 R135): the COUNT of d is not used. DESIGN CHOICE (log 64): s0 as d, which names no element (05 R101) and whose
COUNT is not used either, is the region of BASE 0 and STRIDE 0 in bank 0's format. -/
def gathSpec (t : Tile) (cur : Cur) (d a l : Fin 32) : VSpec :=
  let vd := t.vreg d
  let va := t.vreg a
  let vl := t.vreg l
  let n := vl.r.count
  let dst := { vd.r with count := n }
  { op := .gath, lat := 4, bad := indexedBad vd va vl || countBad n vl (curMods cur).2.1
    n := n, dst := dst, srcs := [(vl, (curMods cur).2.1), (va, noMod)]
    regs := [dst, va.r, vl.r], tabs := []
    ivl := 4, real := false, wide := false }

def execVgath (d a l : Fin 32) (s : State) : Out3 :=
  runWord s { srcs := [.s d, .s a, .s l] } fun t _ => (gathSpec t s.cur d a l).plan s t

/-- VSCAT (05 R135): the COUNT of a is not used. DESIGN CHOICE (log 64): s0 as a is read as VGATH's d is written. -/
def scatSpec (t : Tile) (cur : Cur) (d a l : Fin 32) : VSpec :=
  let vd := t.vreg d
  let va := t.vreg a
  let vl := t.vreg l
  let n := vl.r.count
  let src := { va with r := { va.r with count := n } }
  { op := .scat, lat := 4, bad := indexedBad vd va vl || countBad n vl (curMods cur).2.1
    n := n, dst := vd.r, srcs := [(vl, (curMods cur).2.1), (src, (curMods cur).1)]
    regs := [vd.r, src.r, vl.r], tabs := []
    ivl := 4, real := false, wide := false }

def execVscat (d a l : Fin 32) (s : State) : Out3 :=
  runWord s { srcs := [.s d, .s a, .s l] } fun t _ => (scatSpec t s.cur d a l).plan s t

end Sys2Proof.Machine
end

