-- ==== Sys2Proof/Machine/Engine.lean ====
section
/-! DEFINITION. The matrix and Contour engine between its words: operands and their rows, the steps of a nest and their
updates, runs of affine groups, stopping and retiring (06 R136 to R148, R157; 04 R88 to R91). -/

namespace Sys2Proof.Machine

/-! ### Operands and rows (06 R143, R144) -/

/-- A field of a shape register. -/
def Dsc.rot (d : Dsc) : Nat := fld d.shape 40 4
def Dsc.ovr (d : Dsc) : Nat := fld d.shape 44 4

/-- The operand that a descriptor names, with the tags and bank formats as they stand. -/
def Tile.geo (t : Tile) (tags : Vector (BitVec 4) 4) (isB : Bool) (d : Dsc) : Geo :=
  let base := fld d.base 0 22
  let b0 := base / 0x40000
  if d.src = 0 then
    { reg := none, base := base, n := d.rot + 1, rp := fld d.shape 0 18, tp := fld d.shape 20 18
      noBank := d.ovr == 0 && decide (12 ≤ b0)
      fmt := if d.ovr ≠ 0 then d.ovr else if b0 < 12 then (t.bfmt.get (Fin.ofNat 12 b0)).toNat else 0 }
  else
    let r := (if isB then 2 else 0) + (d.src - 1) % 2
    { reg := some r, fmt := (tags.get (Fin.ofNat 4 r)).toNat, base := 0, n := 1, rp := 0, tp := 0, noBank := false }

/-- Whether a scratchpad descriptor has a nonzero reserved field, ROT above 11 or FMT of 15 (06 R143, R151). -/
def Dsc.badBits (d : Dsc) : Bool :=
  d.src == 0 && (fld d.base 22 42 != 0 || fld d.shape 48 16 != 0 || fld d.shape 38 2 != 0 || fld d.shape 18 2 != 0 ||
    decide (11 < d.rot) || d.ovr == 15)

/-- The bank of row i. -/
def Geo.bank (g : Geo) (i : Nat) : Nat := (g.base / 0x40000 + i % g.n) % 12

/-- The banks that the rows touch. -/
def Geo.banks (g : Geo) : List Nat := (List.range (min g.n 12)).map g.bank

/-- Whether the banks that the rows touch hold different formats (06 R144). -/
def Tile.mixedBanks (t : Tile) (g : Geo) : Bool :=
  g.reg.isNone && decide (g.base < spadEnd) &&
    (g.banks.map fun b => t.bfmt.get (Fin.ofNat 12 b)).any fun f => f != t.bfmt.get (Fin.ofNat 12 (g.bank 0))

/-- The offset of row i of tile tau in its bank. -/
def Geo.off (g : Geo) (i : Nat) (tau : Int) : Int := ((g.base % 0x40000 + i / g.n * g.rp : Nat) : Int) + tau * g.tp

/-- The address of row i of tile tau. -/
def Geo.row (g : Geo) (i : Nat) (tau : Int) : Int := ((g.bank i * 0x40000 : Nat) : Int) + g.off i tau

/-- Whether row i of tile tau, of rb bytes, leaves its bank (06 R144). -/
def Geo.rowOut (g : Geo) (rb i : Nat) (tau : Int) : Bool := g.off i tau < 0 || 0x40000 < g.off i tau + rb

/-- The first row address of a tile that lies outside its bank, or BASE where it names no bank (11 R213). DESIGN CHOICE (log 67):
for a row partly outside it is the row's start address, a negative one as 64-bit two's complement (06 R144, R151). -/
def Geo.spmapRow (g : Geo) (rb : Nat) (tau : Int) : Option W64 :=
  if g.reg.isSome then none
  else if spadEnd ≤ g.base then some (w64 g.base)
  else ((List.range 32).find? fun i => g.rowOut rb i tau).map fun i => w64i (g.row i tau)

/-- BASE, RPITCH and TPITCH must be multiples of 8 (06 R144, R151 step 3). -/
def Geo.alignBad (g : Geo) : Option TrapReq :=
  if g.reg.isNone ∧ (g.base % 8 ≠ 0 ∨ g.rp % 8 ≠ 0 ∨ g.tp % 8 ≠ 0) then some ⟨.align, 0, some (w64 g.base)⟩ else none

/-- Bytes of kw elements. -/
def Geo.rowBytes (g : Geo) (kw : Nat) : Nat := kw * fmtBits g.fmt / 8

/-- The affine formats. -/
def affine (f : Fmt) : Bool := f == I4A || f == I8A

/-- The address and size of the table entry of element k of the row at address a (04 R80, R81, 06 R144). -/
def entryOf (bscl : List W64) (fmt a k : Nat) : Nat × Nat :=
  let b := bscl.getD (a / 0x40000 % 12) 0
  let e := a % 0x40000 * 8 / fmtBits fmt + k
  if affine fmt then (fld b 0 22 + 4 * (e / gszOf b), 4) else (fld b 0 22 + e / 32, 1)

/-- The first table entry at 0x30_0000 or above that a tile's rows use (06 R151 step 2). -/
def Geo.spmapTable (g : Geo) (bscl : List W64) (kw : Nat) (tau : Int) : Option W64 :=
  if g.reg.isSome || !fmtScaled g.fmt then none
  else (List.range 32).findSome? fun i =>
    let a := (g.row i tau).toNat
    if (entryOf bscl g.fmt a (kw - 1)).1 < spadEnd then none
    else ((List.range kw).find? fun k => spadEnd ≤ (entryOf bscl g.fmt a k).1).map fun k => w64 (entryOf bscl g.fmt a k).1

/-- T of 06 R138 for row bytes of one or two operands. -/
def stepTime (gs : List (Geo × Nat)) : Nat :=
  (List.range 12).foldl (fun m b =>
    let bytes := gs.foldl (fun s (g, rb) =>
      if g.reg.isSome then s else s + rb * ((List.range 32).filter fun i => g.bank i == b).length) 0
    max m ((bytes + 255) / 256)) 4

/-! ### The walk of a nest (06 R145, R146) -/

def lvlCnt (v : W64) : Nat := fld v 0 13
def lvlK (v : W64) : Bool := bitAt v 13
def lvlA (v : W64) : Int := signed 16 (fld v 16 16)
def lvlB (v : W64) : Int := signed 16 (fld v 32 16)
def lvlC (v : W64) : Nat := fld v 48 2

/-- A level register that MGO refuses (06 R145). DEDUCED (log 57): the active levels of R151 are the active level registers, one
of CNT 0 among them, as 17 R334 shows of a value of 8,192. -/
def lvlBad (v : W64) : Bool :=
  fld v 50 14 != 0 || fld v 14 2 != 0 || decide (4096 < lvlCnt v) || (lvlK v && lvlC v != 0)

/-- Iterations of each level. -/
def counts (lvl : List W64) : List Nat := lvl.map fun v => max 1 (lvlCnt v)

/-- The number of steps of a whole nest. -/
def nestSteps (lvl : List W64) : Nat := (counts lvl).foldl (· * ·) 1

/-- The index vector after one, level 0 innermost. -/
def nextIdx : List Nat → List Nat → List Nat
  | c :: cs, i :: is => if i + 1 < c then (i + 1) :: is else 0 :: nextIdx cs is
  | _, l => l

/-- The number of a step in its whole nest. -/
def idxNum : List Nat → List Nat → Nat
  | c :: cs, i :: is => i + c * idxNum cs is
  | _, _ => 0

/-- tau of A and of B, the accumulator, and whether every K index is 0. -/
def tauA (lvl : List W64) (idx : List Nat) : Int := (lvl.zip idx).foldl (fun s (v, i) => s + i * lvlA v) 0
def tauB (lvl : List W64) (idx : List Nat) : Int := (lvl.zip idx).foldl (fun s (v, i) => s + i * lvlB v) 0
def accOf (lvl : List W64) (m : Macc) (idx : List Nat) : Nat :=
  (m.acc + (lvl.zip idx).foldl (fun s (v, i) => s + i * lvlC v) 0) % 4
def kZero (lvl : List W64) (idx : List Nat) : Bool := (lvl.zip idx).all fun (v, i) => !lvlK v || i == 0

/-- Whether runs may go on from one step to the next: they differ only in K levels, and in no accumulator (06 R147). -/
def walksK (lvl : List W64) (m : Macc) (a b : List Nat) : Bool :=
  accOf lvl m a == accOf lvl m b && (lvl.zip (a.zip b)).all fun (v, i, j) => lvlK v || i == j

/-! ### Reading a step (06 R148) -/

/-- A row as a step reads it: raw elements, their values (for an affine format q − z), and for an affine format the
address and word of each element's table entry. -/
structure Row where
  raws : List Nat
  vals : List XV
  keys : List Nat
  ents : List Nat
  deriving DecidableEq, Repr

/-- Raw elements of a row's bytes; I4A elements are nibbles, low first (04 R70). -/
def rawList (fmt : Fmt) (l : List Byte) : List Nat :=
  if fmt = I4A then l.flatMap fun b => [b.toNat % 16, b.toNat / 16] else leList (fmtBytes fmt) l

/-- q − z of an element under a table word. -/
def affVal (q ent : Nat) : XV := XV.ofInt ((q : Int) - ((ent / 65536 % 256 : Nat) : Int))

/-- The scale of a table word. -/
def affScale (ent : Nat) : XV := decodeFp 6 (ent % 65536)

/-- Row i of an operand read in the cycle in progress. -/
def Tile.matRow (t : Tile) (bscl : List W64) (g : Geo) (kw i : Nat) (tau : Int) : Row :=
  let rb := g.rowBytes kw
  match g.reg with
  | some r =>
    let raws := (rawList g.fmt (readRange t.eng.opr (3072 * r + 96 * i) rb)).take kw
    ⟨raws, raws.map (decodeElem g.fmt), [], []⟩
  | none =>
    let a := (g.row i tau).toNat
    let raws := (rawList g.fmt (readRange t.spad a rb)).take kw
    if fmtScaled g.fmt then
      let es := (List.range kw).map fun k => entryOf bscl g.fmt a k
      let words := es.map fun e => readLe t.spad e.1 e.2
      if affine g.fmt then ⟨raws, (raws.zip words).map fun (q, w) => affVal q w, es.map (·.1), words⟩
      else ⟨raws, (raws.zip words).map fun (q, w) => decodeShift g.fmt q w, [], []⟩
    else ⟨raws, raws.map (decodeElem g.fmt), [], []⟩

/-- Positions after which a row's table entry changes. -/
def Row.cuts (r : Row) : List Nat :=
  ((r.keys.zip (r.keys.drop 1)).zipIdx 1).filterMap fun ((a, b), k) => if a = b then none else some k

/-- An exact sum of products (04 R88, R89, R91). An exact zero is −0 only where every product is −0. -/
def exactDot (a b : List XV) : XV :=
  match (a.zip b).map fun (x, y) => x.mul y with
  | [] => XV.zero
  | p :: ps => ps.foldl (XV.add false) p

/-- The values of positions lo to hi − 1, with an open run's own zero point where it still holds. -/
def Row.part (r : Row) (fmt : Fmt) (held : Option Nat) (lo hi : Nat) : List XV :=
  match held with
  | some e => if affine fmt then ((r.raws.drop lo).take (hi - lo)).map fun q => affVal q e else (r.vals.drop lo).take (hi - lo)
  | none => (r.vals.drop lo).take (hi - lo)

/-- P of a run times its scales (04 R89). -/
def runTerm (ga gb : Geo) (r : RunSt) : XV :=
  let x := if affine ga.fmt then r.sum.mul (affScale r.entA) else r.sum
  if affine gb.fmt then x.mul (affScale r.entB) else x

/-- The runs of one cell in a step: the terms of the runs that end, and the run left open at the step's end. opened is the
run that comes in; stays tells whether the last run goes on. -/
def cellRuns (ga gb : Geo) (a b : Row) (stays : Bool) : Option RunSt → Nat → List Nat → List XV × Option RunSt
  | _, _, [] => ([], none)
  | opened, lo, hi :: his =>
    let p := exactDot (a.part ga.fmt (opened.map (·.entA)) lo hi) (b.part gb.fmt (opened.map (·.entB)) lo hi)
    let r : RunSt := match opened with
      | some o => { o with sum := o.sum.add false p }
      | none => ⟨p, a.ents.getD lo 0, b.ents.getD lo 0⟩
    if his.isEmpty && stays then ([], some r)
    else
      let (ts, o) := cellRuns ga gb a b stays none hi his
      (runTerm ga gb r :: ts, o)

/-- The ends of a cell's runs within a step of kw elements. -/
def cellEnds (a b : Row) (kw : Nat) : List Nat :=
  let c := a.cuts ++ b.cuts
  (((List.range kw).filter fun k => c.contains k)) ++ [kw]

/-- The address of the first table entry of row i in the next step. -/
def firstKey (bscl : List W64) (g : Geo) (i : Nat) (tau : Int) : Nat := (entryOf bscl g.fmt (g.row i tau).toNat 0).1

/-- Whether row i's last entry in this step is its first in the next. -/
def keyStays (n : Nest) (g : Geo) (r : Row) (i : Nat) (tau : Int) : Bool :=
  !affine g.fmt || r.keys.getLast? == some (firstKey n.bscl g i tau)

/-- The rows of both operands, read; the terms of every cell, and the runs left open. -/
def Tile.readStep (t : Tile) (n : Nest) : List (List XV) × List (Option RunSt) :=
  let ta := tauA n.lvl n.idx
  let tb := tauB n.lvl n.idx
  let as := (List.range 32).map fun i => t.matRow n.bscl n.ga n.kw i ta
  let bs := (List.range 32).map fun j => t.matRow n.bscl n.gb n.kw j tb
  if affine n.ga.fmt || affine n.gb.fmt then
    let next := nextIdx (counts n.lvl) n.idx
    let goes := decide (1 < n.left) && walksK n.lvl n.macc n.idx next
    let sa := (as.zipIdx).map fun (r, i) => goes && keyStays n n.ga r i (tauA n.lvl next)
    let sb := (bs.zipIdx).map fun (r, j) => goes && keyStays n n.gb r j (tauB n.lvl next)
    let cells := ((as.zip sa).zipIdx).flatMap fun ((a, ka), i) => ((bs.zip sb).zipIdx).map fun ((b, kb), j) =>
      cellRuns n.ga n.gb a b (ka && kb) ((n.runs.getD (32 * i + j) none)) 0 (cellEnds a b n.kw)
    let open_ := cells.map (·.2)
    (cells.map (·.1), if open_.any Option.isSome then open_ else [])
  else (as.flatMap fun a => bs.map fun b => [exactDot a.vals b.vals], [])

/-! ### Updating an accumulator (04 R88 to R91, 06 R146) -/

/-- An exact integer's value. -/
def XV.toInt : XV → Int
  | .num s m e => (if s then -1 else 1) * (m * 2 ^ e.toNat : Nat)
  | _ => 0

/-- One cell of the real domain: each term rounded, then added with one rounding. A NaN sets NV whatever made it
(04 R91). -/
def accReal (old : Nat) (terms : List XV) : Nat × Flags :=
  terms.foldl (fun (v, f) x =>
    let (s, f1) := rne32 x
    let w := writeFp 4 false .rne 0 ((decodeFp 4 v).add false s)
    (w.bits, f ||| f1 ||| w.flags ||| (if (decodeFp 4 w.bits).isNan then fNV else 0))) (old, 0)

/-- One cell of the integer domain (04 R90). -/
def accInt (old : Nat) (terms : List XV) : Nat := wrapTo 32 ((old : Int) + terms.foldl (fun s x => s + x.toInt) 0)

/-- The engine after an update; its flags are set in the cycle in progress. -/
def Tile.applyUpd (t : Tile) (u : AccUpd) : Tile :=
  let e := t.eng
  let old := if u.zero then List.replicate 1024 0 else leList 4 (readRange e.acc (4096 * u.acc) 4096)
  let new := (old.zip u.cells).map fun (v, ts) => if u.int then (accInt v ts, (0 : Flags)) else accReal v ts
  let acci := if u.int then e.acci ||| (1#4 <<< u.acc) else e.acci &&& ~~~(1#4 <<< u.acc)
  let t1 := { t with eng := { e with
    acc := writeRange e.acc (4096 * u.acc) (new.flatMap fun (v : Nat × Flags) => leBytes 4 v.1), acci := acci } }
  t1.apply (.mflags (orFlags new))

/-! ### A nest's steps -/

/-- The nest stops at the boundary before its next step (06 R157): it retires at cycle f with SUSP set at f's end. -/
def Tile.suspend (t : Tile) (n : Nest) (f : Nat) : Tile :=
  let e := t.eng
  { t with eng := { e with
    nest := none
    next := Vector.ofFn fun i => BitVec.ofNat 13 (n.idx.getD i.val 0)
    save := e.save.map fun s => { s with susp := true }
    cmd := e.cmd.map fun c => { c with retire := some f } } }

/-- After a step has started: the nest goes on, ends, or stops where an MSAVE asked and no run is open. -/
def Tile.afterStep (t : Tile) (n : Nest) : Tile :=
  if n.left = 0 then { t with eng := { t.eng with nest := none } }
  else if n.stop.isSome && n.runs.isEmpty then t.suspend n (n.lastUpd.getD t.cyc)
  else { t with eng := { t.eng with nest := some n } }

/-- The step that starts in the cycle in progress, if one does. -/
def Tile.runNest (t : Tile) : Tile :=
  match t.eng.nest with
  | some n =>
    if n.start = t.cyc ∧ n.left ≠ 0 then
      let (cells, runs) := t.readStep n
      let u : AccUpd := ⟨t.cyc + n.time + 6, n.num, accOf n.lvl n.macc n.idx, n.macc.init && kZero n.lvl n.idx, n.int, cells⟩
      let t := { t with eng := { t.eng with upds := t.eng.upds ++ [u] } }
      (t.count 5 3 1).afterStep { n with
        idx := nextIdx (counts n.lvl) n.idx, left := n.left - 1, num := n.num + 1, start := t.cyc + n.time
        runs := runs, lastUpd := some u.at_ }
    else t
  | none => t

/-- Updates that take effect in the cycle in progress. -/
def Tile.runUpds (t : Tile) : Tile :=
  let due := t.eng.upds.filter fun u => u.at_ ≤ t.cyc
  due.foldl Tile.applyUpd { t with eng := { t.eng with upds := t.eng.upds.filter fun u => t.cyc < u.at_ } }

/-- The key of row i's last entry of a step; none where the row has no affine entries. -/
def lastKey (bscl : List W64) (g : Geo) (kw i : Nat) (tau : Int) : Option Nat :=
  if g.reg.isSome || !affine g.fmt then none else some (entryOf bscl g.fmt (g.row i tau).toNat (kw - 1)).1

/-- Whether the next step of a nest leaves a run open (06 R147): some row of each operand keeps its entry, which the addresses
alone decide. -/
def Nest.opens (n : Nest) : Bool :=
  let next := nextIdx (counts n.lvl) n.idx
  let stays (g : Geo) (tau : List Nat → Int) : Bool := (List.range 32).any fun i =>
    !affine g.fmt || lastKey n.bscl g n.kw i (tau n.idx) == some (firstKey n.bscl g i (tau next))
  (affine n.ga.fmt || affine n.gb.fmt) && decide (1 < n.left) && walksK n.lvl n.macc n.idx next &&
    stays n.ga (tauA n.lvl) && stays n.gb (tauB n.lvl)

/-- The cycle in which the last started step of a nest that stops has its update (06 R157), from the boundary before its next
step, at which a run is open or not, with a bound on the steps looked at; now where no step had started. -/
def Nest.stopsAt (now : Nat) : Nat → Bool → Nest → Nat
  | 0, _, n => n.lastUpd.getD now
  | k + 1, open_, n =>
    if n.left = 0 || !open_ then n.lastUpd.getD now
    else Nest.stopsAt now k n.opens { n with
      idx := nextIdx (counts n.lvl) n.idx, left := n.left - 1, start := n.start + n.time, lastUpd := some (n.start + n.time + 6) }

/-- The cycle f of 06 R157 for an MSAVE that issues in the cycle in progress. -/
def Tile.saveCycle (t : Tile) : Nat :=
  match t.eng.nest, t.eng.cmd with
  | some n, _ => n.stopsAt t.cyc n.left (!n.runs.isEmpty)
  -- every step has started, or no nest runs
  | none, some c => c.retire.getD t.cyc
  | none, none => t.cyc

/-- MSAVE's request to stop, made at its issue (06 R157): f is fixed then, and with it the cycle of the image's bytes. -/
def Tile.stopNest (t : Tile) : Tile :=
  let f := t.saveCycle
  let t : Tile := { t with eng := { t.eng with save := t.eng.save.map fun s => { s with f := some f } } }
  match t.eng.nest with
  | some n => t.afterStep { n with stop := some t.cyc }
  | none => t

/-! ### Busy and retirement (06 R141) -/

/-- Whether the engine is busy: from a command's issue through its retirement cycle. -/
def Eng.busy (e : Eng) : Bool := e.cmd.isSome || e.save.isSome

/-- An engine command begun, retiring at a cycle. -/
def Tile.beginCmd (t : Tile) (kind : EngKind) (retire : Nat) : Tile :=
  { t with eng := { t.eng with cmd := some ⟨kind, t.cyc, (t.slot .m).pc.toNat, some retire⟩ } }

/-- Whether a command runs a nest, one that MREST resumes among them. -/
def EngKind.nests (k : EngKind) : Bool := k == .mgo || k == .mrest

/-- A command ends with the cycle of its retirement, and its token enters its FIFO (03 R43, 06 R141). Nothing of a CRUN is left
then, and a nest that was resumed awaits nothing any more (06 R140): one that an MSAVE stops is marked anew by the save. -/
def Tile.retireCmd (t : Tile) : Tile :=
  match t.eng.cmd with
  | some c =>
    match c.retire with
    | some r =>
      if r ≤ t.cyc then { (t.setRetire .m c.iss t.cyc) with
        eng := { t.eng with cmd := none, crun := none, susp := t.eng.susp && !c.kind.nests } }
      else t
    | none => t
  | none => t

/-! ### Reading the engine's status -/

/-- MST (06 R140). -/
def Eng.mst (e : Eng) : W64 :=
  w64 (fld (e.flags.setWidth 64) 0 6 + (if e.pxm then 2 ^ 16 else 0) + (if e.busy then 2 ^ 19 else 0)
    + (if e.susp then 2 ^ 20 else 0) + (if e.mode then 2 ^ 21 else 0) + e.acci.toNat * 2 ^ 24)

end Sys2Proof.Machine
end

