-- ==== Sys2Proof/Machine/Matrix.lean ====
section
/-! DEFINITION. The matrix words of slot M, classes 0x8 and 0x9 (06 R149 to R161). -/

namespace Sys2Proof.Machine

/-! ### The checks of MGO (06 R151) -/

/-- The matrix operand formats (06 R137), and those of MLDA and MLDB, MDRAIN (06 R153, R154). -/
def matFmt (f : Fmt) : Bool := [0, 1, 5, 6, 7, 8, 9, 10, 11, 12, 13].contains f
def loadFmt (f : Fmt) : Bool := [0, 1, 5, 6, 7, 8, 13].contains f
def drainFmt (f : Fmt) : Bool := [1, 2, 3, 4, 5, 6, 7, 8, 13].contains f

/-- The integer formats of 04 R90. -/
def intPair (a b : Fmt) : Bool := [0, 1, 13].contains a && [0, 1, 13].contains b

/-- The step limit k_s of a pair (06 R137). -/
def stepLimit (a b : Fmt) : Nat :=
  if a = I4A ∧ b = I4A then 192 else if a = BF16 ∨ a = F16 ∨ b = BF16 ∨ b = F16 then 48 else 96

/-- What a nest is started from: the shadows and the go register, or a saved image. -/
structure NestReq where
  tags  : Vector (BitVec 4) 4
  mode  : Bool
  lvl   : List W64
  a     : Dsc
  b     : Dsc
  macc  : Macc
  go    : W64
  idx   : List Nat
  start : Nat

/-- Step 1 of 06 R151. full is the service of 21 R399. DESIGN CHOICE (log 67): where one operand names no bank, nothing of KW is
checked; and a register whose tag is a scaled format, which an MREST alone can leave, is refused as an empty one is. -/
def Tile.mgoIll (t : Tile) (full : Bool) (q : NestReq) : Bool :=
  let ga := t.geo q.tags false q.a
  let gb := t.geo q.tags true q.b
  let kw := fld q.go 0 8
  let known := !ga.noBank && !gb.noBank
  let regBad (g : Geo) : Bool := g.reg.isSome && (g.fmt == 15 || fmtScaled g.fmt)
  q.mode || fld q.go 8 56 != 0 || q.a.badBits || q.b.badBits || q.lvl.any lvlBad ||
    regBad ga || regBad gb || (!ga.noBank && !matFmt ga.fmt) || (!gb.noBank && !matFmt gb.fmt) ||
    (known && (decide (stepLimit ga.fmt gb.fmt < kw) || (kw % 2 == 1 && (ga.fmt == I4A || gb.fmt == I4A)))) ||
    (affine ga.fmt && affine gb.fmt &&
      ((ga.banks ++ gb.banks).map fun b => fld (t.bscl.get (Fin.ofNat 12 b)) 24 2).any fun s =>
        s != fld (t.bscl.get (Fin.ofNat 12 (ga.bank 0))) 24 2) ||
    t.mixedBanks ga || t.mixedBanks gb ||
    (!full && known && !(ga.fmt == BF16 && gb.fmt == BF16)) ||
    (q.idx.zip (counts q.lvl)).any fun (i, c) => c ≤ i

/-- The nest that a request starts. -/
def Tile.nestOf (t : Tile) (q : NestReq) : Nest :=
  let ga := t.geo q.tags false q.a
  let gb := t.geo q.tags true q.b
  let kw := if fld q.go 0 8 = 0 then stepLimit ga.fmt gb.fmt else fld q.go 0 8
  let num := idxNum (counts q.lvl) q.idx
  { lvl := q.lvl, ga := ga, gb := gb, bscl := t.bscl.toList, macc := q.macc, kw := kw
    idx := q.idx, left := nestSteps q.lvl - num, num := num
    time := stepTime [(ga, ga.rowBytes kw), (gb, gb.rowBytes kw)]
    start := q.start, int := intPair ga.fmt gb.fmt, stop := none, runs := [], lastUpd := none }

/-- The address that step 2 of 06 R151 names for one step, in the order A's rows, A's table, B's rows, B's table. -/
def Nest.spmapStep (n : Nest) (idx : List Nat) : Option W64 :=
  let ta := tauA n.lvl idx
  let tb := tauB n.lvl idx
  (n.ga.spmapRow (n.ga.rowBytes n.kw) ta).or <| (n.ga.spmapTable n.bscl n.kw ta).or <|
    (n.gb.spmapRow (n.gb.rowBytes n.kw) tb).or <| n.gb.spmapTable n.bscl n.kw tb

/-- The least and greatest tile index of a nest, over all its steps. -/
def tauRange (lvl : List W64) (stride : W64 → Int) : Int × Int :=
  lvl.foldl (fun (lo, hi) v =>
    let d := stride v * ((max 1 (lvlCnt v) : Nat) - 1 : Int)
    (lo + min 0 d, hi + max 0 d)) (0, 0)

/-- Whether any step of the nest leaves a bank or the scratchpad. Rows and table entries move in one direction with the
tile index, so the extreme tile indices decide. -/
def Nest.spmapAny (n : Nest) : Bool :=
  let (la, ha) := tauRange n.lvl lvlA
  let (lb, hb) := tauRange n.lvl lvlB
  let bad (g : Geo) (x : Int) : Bool :=
    (g.spmapRow (g.rowBytes n.kw) x).isSome || (g.spmapTable n.bscl n.kw x).isSome
  bad n.ga la || bad n.ga ha || bad n.gb lb || bad n.gb hb

/-- The first step, in step order, that an address check fails in. -/
def Nest.spmapFrom (n : Nest) : Nat → List Nat → Option W64
  | 0, _ => none
  | k + 1, idx => (n.spmapStep idx).or (n.spmapFrom k (nextIdx (counts n.lvl) idx))

/-- Step 2 of 06 R151. -/
def Nest.spmap (n : Nest) : Option W64 :=
  if n.ga.noBank then some (w64 n.ga.base)
  else if n.gb.noBank then some (w64 n.gb.base)
  else if n.spmapAny then n.spmapFrom n.left n.idx else none

/-- The table entries that a step reads for row i of an operand: those of the elements at which some run that uses the
row begins in the step (06 R147, R148). carried tells of each row of the other operand whether its entry goes on from the
step before. -/
def startsOf (own other : List (List Nat)) (ownStays otherStays : List Bool) (i : Nat) : List Nat :=
  let mine := own.getD i []
  let at_ (k : Nat) : Bool := (other.zipIdx).any fun (o, j) =>
    if k = 0 then !(ownStays.getD i false && otherStays.getD j false)
    else mine.getD k 0 != mine.getD (k - 1) 0 || o.getD k 0 != o.getD (k - 1) 0
  (List.range mine.length).filter at_

/-- The byte ranges that one step reads (06 R148): rows, shift entries, and the affine entries of runs that begin. -/
def Nest.stepReads (n : Nest) (prev : Option (List Nat)) (idx : List Nat) : List (Nat × Nat) :=
  let ta := tauA n.lvl idx
  let tb := tauB n.lvl idx
  let rows (g : Geo) (x : Int) : List (Nat × Nat) :=
    if g.reg.isSome then [] else (List.range 32).map fun i => ((g.row i x).toNat, g.rowBytes n.kw)
  let keys (g : Geo) (x : Int) : List (List Nat) := (List.range 32).map fun i =>
    if affine g.fmt then (List.range n.kw).map fun k => (entryOf n.bscl g.fmt (g.row i x).toNat k).1
    else List.replicate n.kw 0
  let stays (g : Geo) (stride : W64 → Int) : List Bool := (List.range 32).map fun i =>
    match prev with
    | some p =>
      let x0 := (n.lvl.zip p).foldl (fun s (v, i) => s + i * stride v) (0 : Int)
      let x1 := (n.lvl.zip idx).foldl (fun s (v, i) => s + i * stride v) (0 : Int)
      walksK n.lvl n.macc p idx && (!affine g.fmt ||
        (entryOf n.bscl g.fmt (g.row i x0).toNat (n.kw - 1)).1 == (entryOf n.bscl g.fmt (g.row i x1).toNat 0).1)
    | none => false
  let shifts (g : Geo) (x : Int) : List (Nat × Nat) :=
    if g.reg.isNone && fmtScaled g.fmt && !affine g.fmt then
      (List.range 32).flatMap fun i => (List.range n.kw).map fun k => entryOf n.bscl g.fmt (g.row i x).toNat k
    else []
  let entries (g h : Geo) (x y : Int) (sg sh : W64 → Int) : List (Nat × Nat) :=
    if affine g.fmt then
      let kg := keys g x
      let kh := keys h y
      (List.range 32).flatMap fun i =>
        (startsOf kg kh (stays g sg) (stays h sh) i).map fun k => ((kg.getD i []).getD k 0, 4)
    else []
  rows n.ga ta ++ rows n.gb tb ++ shifts n.ga ta ++ shifts n.gb tb ++
    entries n.ga n.gb ta tb lvlA lvlB ++ entries n.gb n.ga tb ta lvlB lvlA

/-- Whether a step reads a byte whose write is scheduled after the read (06 R148, 03 R57). Steps later than every
scheduled write need no look. -/
def Tile.nestEarly (t : Tile) (n : Nest) : Nat → Nat → Option (List Nat) → List Nat → Bool
  | 0, _, _, _ => false
  | k + 1, c, prev, idx =>
    if t.reserved.all fun r => r.at_ ≤ c then false
    else (n.stepReads prev idx).any (fun r => t.pendingAfter r.1 r.2 c) ||
      t.nestEarly n k (c + n.time) (some idx) (nextIdx (counts n.lvl) idx)

/-- The trap that a request to start a nest meets, in the order of 06 R151. -/
def Tile.nestTrap (t : Tile) (full : Bool) (q : NestReq) : Option TrapReq :=
  if t.mgoIll full q then some ⟨.ill, 4, none⟩
  else
    let n := t.nestOf q
    match n.spmap with
    | some a => some ⟨.spmap, 0, some a⟩
    | none =>
      match n.ga.alignBad.or n.gb.alignBad with
      | some r => some r
      | none => if bitAt t.tcfg 1 && t.nestEarly n n.left n.start none n.idx then some ⟨.pend, 0, none⟩ else none

/-! ### Words -/

/-- The wait of an engine command (06 R141). -/
def Tile.busyWait (t : Tile) : Option Wait := if t.eng.busy then some .busy else none

/-- The wait of an engine command while power shaping holds it back (21 R403). -/
def Tile.engineWait (t : Tile) (busy : Bool) : Option Wait := if t.shaped || busy then some .busy else none

/-- A cycle in which power shaping alone holds an engine command back is counted (21 R400, event 13). -/
def Tile.heldBack (k : Slot) (busy : Bool) (t : Tile) : Tile := if t.shaped && !busy then t.count 13 (Slot.num k) 1 else t

/-- An engine command: it waits for the engine, then meets its checks, then acts and retires at a cycle. -/
def engineWord (s : State) (srcs : List Src) (check : Tile → List W64 → Option TrapReq) (kind : EngKind)
    (retire : Tile → List W64 → Nat) (act : List W64 → Tile → Tile) : Out3 :=
  runWord s { srcs := srcs } fun t v =>
    { wait := t.engineWait t.eng.busy
      join := Tile.heldBack s.cur.slot t.eng.busy
      after := check t v
      act := fun u => act v (u.beginCmd kind (retire t v))
      open_ := true }

/-- A setup word: its write is made at issue + 1 (06 R150). -/
def setupWord (s : State) (srcs : List Src) (w : List W64 → Tgt) : Out3 :=
  runWord s { srcs := srcs } fun t v => { act := fun u => u.sched .m (u.cyc + 1) (w v), retire := t.cyc + 1 }

def execMln (lvl : Fin 6) (a : Src) (s : State) : Out3 := setupWord s [a] fun v => .shLevel lvl (nth v 0)
def execMopa (src : Fin 3) (a b : Src) (s : State) : Out3 := setupWord s [a, b] fun v => .shDesc false src.val (nth v 0) (nth v 1)
def execMopb (src : Fin 3) (a b : Src) (s : State) : Out3 := setupWord s [a, b] fun v => .shDesc true src.val (nth v 0) (nth v 1)
def execMacc (acc : Fin 4) (init : Bool) (s : State) : Out3 := setupWord s [] fun _ => .shMacc acc.val init

/-- The nest that an MGO issued now starts. -/
def Tile.mgoReq (t : Tile) (go : W64) : NestReq :=
  { tags := t.eng.tags, mode := t.eng.mode, lvl := t.eng.slvl.toList, a := t.eng.sadsc, b := t.eng.sbdsc
    macc := t.eng.smacc, go := go, idx := [0, 0, 0, 0, 0, 0], start := t.cyc + 2 }

/-- The cycle E of a nest not stopped (06 R148). -/
def Nest.endAt (n : Nest) : Nat := n.start + n.left * n.time + 6

/-- MGO (06 R151): the shadows become active and the nest starts at issue + 2. -/
def execMgo (a : Src) (s : State) : Out3 :=
  engineWord s [a] (fun t v => t.nestTrap s.full (t.mgoReq (nth v 0))) .mgo
    (fun t v => (t.nestOf (t.mgoReq (nth v 0))).endAt)
    fun v u =>
      let e := u.eng
      let q := u.mgoReq (nth v 0)
      { u with eng := { e with
        lvl := e.slvl, adsc := e.sadsc, bdsc := e.sbdsc, macc := e.smacc, go := q.go, susp := false
        nest := some (u.nestOf q) } }

/-- MWAIT (06 R152). -/
def execMwait (s : State) : Out3 := runWord s {} fun t _ => { wait := t.busyWait, retire := t.cyc }

/-- Steps 1 to 3 of 06 R151 for one descriptor, tile 0, of rows of rb bytes each, in one of some formats. -/
def Tile.dscTrap (t : Tile) (ok : Fmt → Bool) (d : Dsc) (bytes : Fmt → Nat) : Option TrapReq :=
  let g := t.geo t.eng.tags false d
  if t.eng.mode || d.badBits || t.mixedBanks g || (!g.noBank && !ok g.fmt) then some ⟨.ill, 4, none⟩
  else match g.spmapRow (bytes g.fmt) 0 with
    | some a => some ⟨.spmap, 0, some a⟩
    | none => g.alignBad

/-- Whether PENDTRAP would raise PEND for rows read now (03 R57). -/
def Tile.rowsEarly (t : Tile) (g : Geo) (rb : Nat) : Option TrapReq :=
  if bitAt t.tcfg 1 && (List.range 32).any fun i => t.pendingAfter (g.row i 0).toNat rb t.cyc
  then some ⟨.pend, 0, none⟩ else none

/-- MLDA and MLDB (06 R153). -/
def loadWord (s : State) (r : Nat) (a b : Src) : Out3 :=
  let geo (t : Tile) (v : List W64) : Geo := t.geo t.eng.tags false ⟨nth v 0, nth v 1, 0⟩
  let at_ (t : Tile) (v : List W64) : Nat := t.cyc + 2 + stepTime [(geo t v, 96)]
  engineWord s [a, b]
    (fun t v => (t.dscTrap (s.offers loadFmt) ⟨nth v 0, nth v 1, 0⟩ fun _ => 96).or (t.rowsEarly (geo t v) 96)) .other at_
    fun v u =>
      let g := geo u v
      let bytes := (List.range 32).flatMap fun i => readRange u.spad (g.row i 0).toNat 96
      (u.sched .m (at_ u v) (.opr ((bytes.zipIdx (3072 * r)).map fun p => (p.2, p.1)))).sched .m (at_ u v) (.tag r g.fmt)

def execMlda (reg : Bool) (a b : Src) (s : State) : Out3 := loadWord s reg.toNat a b
def execMldb (reg : Bool) (a b : Src) (s : State) : Out3 := loadWord s (2 + reg.toNat) a b

/-- The 1,024 cells of an accumulator converted to a format, in element order, with SR draws taken now (06 R154). -/
def Tile.convAcc (t : Tile) (acc : Nat) (fmt : Fmt) (md : Mode) : List (Nat × Flags) × Tile :=
  let raws := leList 4 (readRange t.eng.acc (4096 * acc) 4096)
  let int := t.eng.acci.getLsbD acc
  let sr := md.rnd == .sr
  let ds := if sr then (drawList 1024 (t.srseed.extractLsb' 32 32)).1 else List.replicate 1024 0
  let out := (raws.zip ds).map fun (r, d) =>
    let w := if int then intTo fmt md.ovf false md.rnd d (signed 32 r) else realTo fmt md.ovf md.rnd d (decodeFp 4 r)
    (w.bits, w.flags)
  (out, if sr then (t.advanceSeed 1024).count 11 3 1024 else t)

/-- An accumulator cleared where ZERO is 1: all +0, its ACCI bit 0 (06 R154). -/
def Tile.zeroAcc (t : Tile) (acc : Nat) (zero : Bool) : Tile :=
  if zero then { t with eng := { t.eng with
    acc := clearBytes t.eng.acc (4096 * acc) 4096, acci := t.eng.acci &&& ~~~(1#4 <<< acc) } }
  else t

/-- Rows 8q to 8q + 7 of a list of 32 rows of 32 elements. -/
def eightRows (l : List (Nat × Flags)) (q : Nat) : List (Nat × Flags) := (l.drop (256 * q)).take 256

/-- Rows written to a destination at issue + 8 + (row div 8) (06 R154, R156). -/
def Tile.writeRows (t : Tile) (g : Geo) (l : List (Nat × Flags)) : Tile :=
  let w := fmtBytes g.fmt
  (List.range 4).foldl (fun t q =>
    let rows := (List.range 8).flatMap fun r =>
      let i := 8 * q + r
      wholeBytes (g.row i 0).toNat (((l.drop (32 * i)).take 32).flatMap fun (e : Nat × Flags) => leBytes w e.1)
    let t := t.schedSpad .m (t.cyc + 8 + q) rows
    let f := orFlags (eightRows l q)
    if f = 0 then t else t.sched .m (t.cyc + 8 + q) (.mflags f)) t

/-- MDRAIN (06 R154). -/
def execMdrain (a b : Src) (acc : Fin 4) (zero : Bool) (md : Mode) (s : State) : Out3 :=
  engineWord s [a, b] (fun t v => t.dscTrap (s.offers drainFmt) ⟨nth v 0, nth v 1, 0⟩ fun f => 32 * fmtBytes f) .other
    (fun t _ => t.cyc + 11)
    fun v u =>
      let g := u.geo u.eng.tags false ⟨nth v 0, nth v 1, 0⟩
      let (out, u) := u.convAcc acc.val g.fmt md
      (u.writeRows g out).zeroAcc acc.val zero

/-- The 3,072 bytes of an operand register that hold 32 rows of 32 elements of w bytes each, the rest of each row zero. -/
def regRows (w : Nat) (out : List (Nat × Flags)) : List Byte :=
  (List.range 32).flatMap fun i =>
    (((out.drop (32 * i)).take 32).flatMap fun (e : Nat × Flags) => leBytes w e.1) ++ List.replicate (96 - 32 * w) 0

/-- MBYA (06 R155). -/
def execMbya (reg : Bool) (acc : Fin 4) (zero : Bool) (fmt : BitVec 6) (md : Mode) (s : State) : Out3 :=
  engineWord s [] (fun t _ => if t.eng.mode || s.lacks fmt.toNat then some ⟨.ill, 4, none⟩ else none) .other (fun t _ => t.cyc + 6)
    fun _ u =>
      let f := fmt.toNat
      let (out, u) := u.convAcc acc.val f md
      let bytes := regRows (fmtBytes f) out
      let u := u.sched .m (u.cyc + 6) (.opr ((bytes.zipIdx (3072 * reg.toNat)).map fun p => (p.2, p.1)))
      let u := u.sched .m (u.cyc + 6) (.tag reg.toNat f)
      let fl := orFlags out
      (if fl = 0 then u else u.sched .m (u.cyc + 6) (.mflags fl)).zeroAcc acc.val zero

/-! ### MXP (06 R156) -/

/-- Formats that MXP moves: 8, 16 or 32 bits, neither I4A nor scaled. -/
def moveFmt (f : Fmt) : Bool := f != I4A && !fmtScaled f && f != I64 && f != 15

/-- Whether an image or matrix of n bytes at an address meets an alignment and lies within one bank (06 R156, R157). -/
def placeTrap (a : W64) (align n : Nat) : Option TrapReq :=
  if a.toNat % align ≠ 0 then some ⟨.align, 0, none⟩
  else if spadEnd ≤ a.toNat ∨ 0x40000 < a.toNat % 0x40000 + n then some ⟨.spmap, 0, none⟩
  else none

/-- col(j) of MXP: the least k with P[k][j] = 1, and whether there are more. -/
def mxpCol (p : List Nat) (j : Nat) : Option Nat × Bool :=
  match (List.range 32).filter fun k => (p.getD k 0) / 2 ^ j % 2 == 1 with
  | [] => (none, false)
  | k :: r => (some k, !r.isEmpty)

/-- The result of MXP in row order: element j of row i is element col(j) of the source's row i, or 0 (06 R156). -/
def Tile.mxpOut (t : Tile) (gs : Geo) (cols : List (Option Nat × Bool)) : List (Nat × Flags) :=
  let w := fmtBytes gs.fmt
  (List.range 32).flatMap fun i =>
    let x := leList w (readRange t.spad (gs.row i 0).toNat (32 * w))
    cols.map fun c => (match c.1 with
      | some k => x.getD k 0
      | none => 0, (0 : Flags))

/-- The columns of the permutation matrix of 128 bytes at an address. -/
def Tile.mxpCols (t : Tile) (p : Nat) : List (Option Nat × Bool) := (List.range 32).map (mxpCol (leList 4 (readRange t.spad p 128)))

/-- MXP (06 R156). DESIGN CHOICE (log 64): PXM, whose cycle the rule does not give, is set at issue + 11, with the last rows.
DESIGN CHOICE (log 67): the source is checked before the destination, and both before p. -/
def execMxp (d e a b p : Src) (s : State) : Out3 :=
  let src (t : Tile) (v : List W64) : Geo := t.geo t.eng.tags false ⟨nth v 2, nth v 3, 0⟩
  let dst (t : Tile) (v : List W64) : Geo := t.geo t.eng.tags false ⟨nth v 0, nth v 1, 0⟩
  engineWord s [d, e, a, b, p]
    (fun t v =>
      let bytes (f : Fmt) : Nat := 32 * fmtBytes f
      let gs := src t v
      let gd := dst t v
      let ill := t.eng.mode || (⟨nth v 2, nth v 3, 0⟩ : Dsc).badBits || (⟨nth v 0, nth v 1, 0⟩ : Dsc).badBits ||
        t.mixedBanks gs || t.mixedBanks gd || (!gs.noBank && !s.offers moveFmt gs.fmt) || (!gd.noBank && !s.offers moveFmt gd.fmt) ||
        (!gs.noBank && !gd.noBank && fmtBits gs.fmt != fmtBits gd.fmt)
      if ill then some ⟨.ill, 4, none⟩
      else match (gs.spmapRow (bytes gs.fmt) 0).or (gd.spmapRow (bytes gd.fmt) 0) with
        | some x => some ⟨.spmap, 0, some x⟩
        | none =>
          (gs.alignBad.or gd.alignBad).or <| (placeTrap (nth v 4) 4 128).or <|
            (t.rowsEarly gs (bytes gs.fmt)).or
              (if bitAt t.tcfg 1 && t.pendingAfter (nth v 4).toNat 128 t.cyc then some ⟨.pend, 0, none⟩ else none))
    .other (fun t _ => t.cyc + 11)
    fun v u =>
      let cols := u.mxpCols (nth v 4).toNat
      let u := u.writeRows (dst u v) (u.mxpOut (src u v) cols)
      if cols.any (·.2) then u.sched .m (u.cyc + 11) .pxm else u

/-! ### MSAVE and MREST (06 R157 to R159, 07 R178) -/

/-- Bytes of a save image (06 R157). -/
def imgSize : Nat := 29184

/-- The save image of the engine as it stands (06 R158, 07 R178). -/
def Eng.image (e : Eng) : List Byte :=
  let reg (v : W64) : List Byte := leBytes 8 v.toNat
  let dsc (d : Dsc) : List Byte := reg d.base ++ reg d.shape ++ leBytes 8 d.src
  let macc (m : Macc) : List Byte := leBytes 8 (m.acc + m.init.toNat * 256)
  leBytes 4 0x4D535631 ++ leBytes 2 1 ++ leBytes 2 ((e.susp && !e.mode).toNat + e.mode.toNat * 2)
    ++ reg (e.mst &&& ~~~0x80000#64)
    ++ (e.next.toList.flatMap fun i => leBytes 2 i.toNat) ++ leBytes 4 e.ccfg.toNat
    ++ (e.lvl.toList.flatMap reg) ++ (e.slvl.toList.flatMap reg)
    ++ dsc e.adsc ++ dsc e.bdsc ++ dsc e.sadsc ++ dsc e.sbdsc ++ macc e.macc ++ macc e.smacc ++ reg e.go
    ++ (if e.mode then List.replicate 4 15 else e.tags.toList.map fun x => x.setWidth 8)
    ++ List.replicate 260 0 ++ readRange e.acc 0 16384 ++ readRange e.opr 0 12288

/-- The pending bits of an image's words, set as its writes are scheduled (03 R57). -/
def Tile.reserveImage (t : Tile) (a at_ : Nat) : Tile :=
  { t with reserved := t.reserved ++ (List.range (imgSize / 4)).map fun i => ⟨a / 4 + i, at_, .m, t.cyc⟩ }

/-- MSAVE (06 R157): it waits for a command other than MGO, stops the nest, and saves at the end of cycle f. -/
def execMsave (a : Src) (s : State) : Out3 :=
  runWord s { srcs := [a] } fun t v =>
    let busy := t.eng.save.isSome || t.eng.cmd.any fun c => c.kind != .mgo
    { wait := t.engineWait busy
      join := Tile.heldBack s.cur.slot busy
      after := placeTrap (nth v 0) 64 imgSize
      act := fun u =>
        (({ u with eng := { u.eng with save := some ⟨(nth v 0).toNat, u.cyc, (u.slot .m).pc.toNat, none, false⟩ } } : Tile).stopNest).reserveImage
          (nth v 0).toNat (u.saveCycle + 16)
      open_ := true }

/-- The address of an MSAVE that the device makes for a frame (13 R290): its image goes to the drain. -/
def deviceSave : Nat := 0x400000

/-- The end of a cycle for an MSAVE (06 R157): the image is taken at the end of f, when every write of that cycle has been made;
its bytes are written at f + 16. -/
def Tile.saveEnd (t : Tile) : Tile :=
  match t.eng.save with
  | some sv =>
    match sv.f with
    | some f =>
      if f = t.cyc then
        let t1 := { t with eng := { t.eng with susp := t.eng.susp || sv.susp } }
        if sv.addr = deviceSave then
          { t1 with
            eng := { t1.eng with save := none }
            drn := t1.drn.map fun d => { d with image := some (cellsFrom 0 t1.eng.image) } }
        else
        t1.schedAs .m sv.iss sv.pc (f + 16) (.spad (wholeBytes sv.addr t1.eng.image))
      else if f + 16 ≤ t.cyc then { (t.setRetire .m sv.iss t.cyc) with eng := { t.eng with save := none } }
      else t
    | none => t
  | none => t

/-- The slot count of 07 R162. -/
def treeSlots (w16 span2 : Bool) : Nat := (if w16 then 128 else 32) / (if span2 then 2 else 1)

/-- The refusals of 06 R159 and 07 R178 that do not concern a nest. DESIGN CHOICE (log 67): a nonzero FLAGS[15:2] is refused as a
reserved byte is. -/
def imageBad (img : Mem) : Bool :=
  let fl := readLe img 6 2
  let mode := fl / 2 % 2 == 1
  let c := w64 (readLe img 28 4)
  readLe img 0 4 != 0x4D535631 || readLe img 4 2 != 1 || decide (4 ≤ fl) ||
    (readRange img 252 260).any (· != 0) || bitAt c 0 != mode || bitAt c 31 || bitAt c 3 ||
    (if mode then
      decide (96 < fld c 22 7) || decide (treeSlots (bitAt c 1) (bitAt c 2) < fld c 14 8) ||
        (leList 16 (readRange img 512 16384)).any fun r =>
          let n := r / 2 ^ 96
          n / 4096 != 0 || decide (fld c 4 10 < n % 1024)
    else
      (c &&& ~~~0x60000000#64) != 0 ||
        (List.range 4).any fun r => readLe img (248 + r) 1 == 15 && (readRange img (16896 + 3072 * r) 3072).any (· != 0))

/-- The nest that an image suspends, resuming at a cycle (06 R159). -/
def imageNest (img : Mem) (start : Nat) : NestReq :=
  { tags := Vector.ofFn fun i => BitVec.ofNat 4 (readLe img (248 + i.val) 1)
    mode := readLe img 6 2 / 2 % 2 == 1
    lvl := (imgRegs img 32).toList, a := imgDsc img 128, b := imgDsc img 152, macc := imgMacc img 224
    go := w64 (readLe img 240 8), idx := (List.range 6).map (fun i => readLe img (16 + 2 * i) 2), start := start }

/-- Whether an image holds a suspended nest. -/
def imageSusp (img : Mem) : Bool := readLe img 6 1 % 2 == 1

/-- The trap that an image meets when it is reinstated, its engine from cycle at_ on (06 R159, 07 R178). -/
def Tile.imageTrap (t : Tile) (full : Bool) (img : Mem) (at_ : Nat) : Option TrapReq :=
  if imageBad img then some ⟨.ill, 4, none⟩
  else if imageSusp img then t.nestTrap full (imageNest img at_) else none

/-- An image's bytes, taken from the scratchpad and moved to offset 0. -/
def Tile.spadImage (t : Tile) (a : Nat) : Mem :=
  (t.spad.filter fun c => a ≤ c.1 && c.1 < a + imgSize).map fun c => (c.1 - a, c.2)

/-- An image reinstated at a cycle, its nest resuming there (06 R159). -/
def Tile.restoreImage (t : Tile) (img : Mem) (at_ : Nat) : Tile :=
  let t := t.sched .m at_ (.mrest img)
  if imageSusp img then { t with eng := { t.eng with nest := some (t.nestOf (imageNest img at_)) } } else t

/-- MREST (06 R159, 07 R178). DESIGN CHOICE (log 67): PEND of the image's own bytes comes before the refusals of its contents. -/
def execMrest (a : Src) (s : State) : Out3 :=
  let img (t : Tile) (v : List W64) : Mem := t.spadImage (nth v 0).toNat
  engineWord s [a]
    (fun t v =>
      match placeTrap (nth v 0) 64 imgSize with
      | some r => some r
      | none =>
        if bitAt t.tcfg 1 && t.pendingAfter (nth v 0).toNat imgSize t.cyc then some ⟨.pend, 0, none⟩
        else t.imageTrap s.full (img t v) (t.cyc + 16))
    .mrest
    (fun t v => if imageSusp (img t v) then (t.nestOf (imageNest (img t v) (t.cyc + 16))).endAt else t.cyc + 16)
    fun v u => u.restoreImage (img u v) (u.cyc + 16)

/-- MSTAT (06 R160). -/
def execMstat (d : Fin 32) (b : Src) (s : State) : Out3 :=
  runWord s { srcs := [b] } fun t v =>
    { outs := [(.s d, 2)]
      act := fun u => (u.schedS .m d (u.cyc + 2) u.eng.mst).atEnd (.mstat (nth v 0))
      retire := t.cyc + 2 }

end Sys2Proof.Machine
end

