-- ==== Sys2Proof/Machine/Contour.lean ====
section
/-! DEFINITION. The Contour words of slot M, class 0xA (07 R162 to R180), and the groups of a CRUN between them. -/

namespace Sys2Proof.Machine

/-! ### CCFG (07 R165) -/

def Eng.w16 (e : Eng) : Bool := bitAt e.ccfg 1
def Eng.span (e : Eng) : Nat := if bitAt e.ccfg 2 then 2 else 1
def Eng.lw (e : Eng) : Nat := if e.w16 then 16 else 64
def Eng.nf (e : Eng) : Nat := fld e.ccfg 4 10 + 1
def Eng.nt (e : Eng) : Nat := fld e.ccfg 14 8
def Eng.ns (e : Eng) : Nat := fld e.ccfg 22 7
def Eng.slots (e : Eng) : Nat := treeSlots e.w16 (bitAt e.ccfg 2)

/-! ### The cell image (07 R167 to R169) -/

/-- A tree word and its address. -/
structure TreeW where
  addr   : Nat
  word   : Nat
  deriving DecidableEq, Repr

def TreeW.leaves (w : TreeW) : Nat := w.word % 256
def TreeW.nodes (w : TreeW) : Nat := w.word / 256 % 256

/-- A node record of an image: its tree, its number in its column group, its address and its 128 bits. -/
structure NodeR where
  tree : Nat
  k    : Nat
  addr : Nat
  bits : Nat
  deriving DecidableEq, Repr

def NodeR.mask (n : NodeR) : Nat := n.bits % 2 ^ 64
def NodeR.tail (n : NodeR) : Nat := n.bits / 2 ^ 96
def NodeR.feat (n : NodeR) : Nat := n.tail % 1024

/-- A cell image as read: NT, tree words, H, records and length. -/
structure CellImg where
  base  : Nat
  nt    : Nat
  trees : List TreeW
  h     : Nat
  recs  : List NodeR
  len   : Nat
  deriving DecidableEq, Repr

/-- The offset of the first node record (07 R167). -/
def imgH (nt : Nat) : Nat := (8 + 4 * nt + 15) / 16 * 16

/-- Records of trees in turn, numbered within their column groups. per is the number of trees in a group. -/
def nodeList (m : Mem) (per : Nat) : Nat → Nat → Nat → List TreeW → List NodeR
  | _, _, _, [] => []
  | tree, k, a, w :: ws =>
    let here := (List.range w.nodes).map fun i => ⟨tree, k + i, a + 16 * i, readLe m (a + 16 * i) 16⟩
    let k' := if (tree + 1) % per = 0 then 0 else k + w.nodes
    here ++ nodeList m per (tree + 1) k' (a + 16 * w.nodes) ws

/-- The image at an address. -/
def Tile.cellImg (t : Tile) (a : Nat) : CellImg :=
  let nt := readLe t.spad a 2
  let trees := (List.range nt).map fun i => ⟨a + 8 + 4 * i, readLe t.spad (a + 8 + 4 * i) 4⟩
  let recs := nodeList t.spad (if t.eng.w16 then 4 else 1) 0 0 (a + imgH nt) trees
  ⟨a, nt, trees, imgH nt, recs, imgH nt + 16 * recs.length⟩

/-- The failures of 07 R169 step 4, in image order: address and DETAIL. DESIGN CHOICE (log 67): of a tree word that fails with both
DETAIL 2 and DETAIL 3, DETAIL 2 is reported. -/
def CellImg.widths (c : CellImg) (e : Eng) : List (Nat × Nat) :=
  (if e.slots < c.nt then [(c.base, 1)] else [])
    ++ c.trees.filterMap (fun w =>
      if w.leaves = 0 ∨ e.lw < w.leaves then some (w.addr, 2)
      else if w.leaves - 1 < w.nodes then some (w.addr, 3) else none)
    ++ c.recs.filterMap fun n =>
      if 32 * e.span ≤ n.k then some (n.addr, 4)
      else if e.w16 ∧ n.mask / 2 ^ 16 ≠ 2 ^ 48 - 1 then some (n.addr, 5) else none

/-- The checks of CLDC on the image at rd(a), in order (07 R169). -/
def Tile.cldcTrap (t : Tile) (a : W64) : Option TrapReq :=
  let base := a.toNat
  let stop := base / 0x40000 * 0x40000 + 0x40000
  if base % 16 ≠ 0 then some ⟨.align, 0, some a⟩
  else if spadEnd ≤ base then some ⟨.spmap, 0, some a⟩
  else if stop < base + imgH (readLe t.spad base 2) then some ⟨.spmap, 0, some (w64 stop)⟩
  else
    let c := t.cellImg base
    if stop < base + c.len then some ⟨.spmap, 0, some (w64 stop)⟩
    else if (readRange t.spad (base + 2) 6).any (· != 0) || c.trees.any (fun w => 65536 ≤ w.word) ||
        (readRange t.spad (base + 8 + 4 * c.nt) (c.h - 8 - 4 * c.nt)).any (· != 0) then some ⟨.ill, 4, none⟩
    else match c.recs.find? fun n => n.tail / 4096 ≠ 0 || decide (t.eng.nf ≤ n.feat) with
      | some n => some ⟨.ill, 4, some (w64 n.addr)⟩
      | none =>
        match c.widths t.eng with
        | (x, d) :: _ => some ⟨.cwidth, d, some (w64 x)⟩
        | [] =>
          if bitAt t.tcfg 1 && t.pendingAfter base c.len t.cyc then some ⟨.pend, 0, none⟩ else none

/-- The cell of a record, and its 16 bytes as placed (07 R168). -/
def NodeR.place (n : NodeR) (w16 : Bool) (span : Nat) : Nat × List Byte :=
  let g := if w16 then n.tree / 4 else n.tree
  let q := n.tree % 4
  let mask := if w16 then 2 ^ 64 - 1 - 0xFFFF * 2 ^ (16 * q) + n.mask % 2 ^ 16 * 2 ^ (16 * q) else n.mask
  (32 * span * g + n.k, leBytes 8 mask ++ leBytes 8 (n.bits / 2 ^ 64))

/-! ### The comparison (07 R164) -/

/-- The feature formats. -/
def featFmt (f : Fmt) : Bool := [1, 2, 3, 4, 5, 6, 7, 8, 13].contains f

/-- The missing code of an integer format (04 R70). -/
def missingCode (f : Fmt) : Int := if f = N8 then 255 else (intRange f).1

/-- Whether a raw feature is missing. -/
def isMissing (f : Fmt) (bits : Nat) : Bool :=
  if fmtReal f then (decodeElem f bits).isNan else decodeInt f bits == missingCode f

/-- Whether a cell sends a sample right. -/
def goesRight (f : Fmt) (cell : Nat) (bits : Nat) : Bool :=
  let tail := cell / 2 ^ 96
  let const := cell / 2 ^ 64 % 2 ^ 32
  let sense := tail / 1024 % 2 == 1
  if isMissing f bits then tail / 2048 % 2 == 1
  else if fmtReal f then
    let x := decodeElem f bits
    let c := decodeFp 4 const
    c.isNan || !(if sense then x.cmp c != .gt else x.cmp c == .lt)
  else
    let x := decodeInt f bits
    let c := signed 32 const
    !(if sense then decide (x ≤ c) else decide (x < c))

/-- The lowest set bit of a mask of n bits, or 0xFF. -/
def lowBit (n m : Nat) : Nat := ((List.range n).find? fun i => m / 2 ^ i % 2 == 1).getD 0xFF

/-- Whether a cell of a group holds a record of a loaded tree slot: with LW = 64 the group is the slot, with LW = 16 the group
holds four, of which a record clears leaves of its own alone; one that clears none counts as the first's (07 R165, R167,
R168). -/
def Eng.loaded (e : Eng) (g cell : Nat) : Bool :=
  let own := (List.range 4).filter fun q => cell / 2 ^ (16 * q) % 2 ^ 16 != 0xFFFF
  if e.w16 then decide (4 * g + own.headD 0 < e.nt) else decide (g < e.nt)

/-- The leaves of one sample in tree slots 0 to NT − 1, and whether a node of a loaded slot met a missing feature. Empty cells
change nothing, so the cells that hold records decide. -/
def Eng.leaves (e : Eng) (f : Fmt) (feats : List Nat) : List Nat × Bool :=
  let cells := e.recs.map fun c => (c / (32 * e.span), readLe e.acc (16 * c) 16)
  let feat (cell : Nat) : Nat := feats.getD (cell / 2 ^ 96 % 1024) 0
  let mask (g : Nat) : Nat := cells.foldl (fun m (h, cell) =>
    if h = g && goesRight f cell (feat cell) then m &&& (cell % 2 ^ 64) else m) (2 ^ 64 - 1)
  ((List.range e.nt).map fun t =>
      if e.w16 then lowBit 16 (mask (t / 4) / 2 ^ (16 * (t % 4))) else lowBit 64 (mask t),
    cells.any fun (g, cell) => e.loaded g cell && isMissing f (feat cell))

/-! ### CRUN (07 R173) -/

/-- A sample descriptor's place in the scratchpad. -/
def sampleAddr (base : Nat) (stride : Int) (w s f : Nat) : Int := base + (stride * s + f) * w

/-- The number of samples of the group that starts at sample n. -/
def groupSize (count n : Nat) : Nat := min 4 (count - n)

/-- T_g of 07 R173. -/
def groupTime (k nf w : Nat) : Nat := max 1 ((k * nf * w + 255) / 256)

/-- The cycle in which the group of sample s starts, for a CRUN issued at iss. -/
def groupStart (iss count nf w : Nat) (s : Nat) : Nat :=
  (List.range (s / 4)).foldl (fun c g => c + groupTime (groupSize count (4 * g)) nf w) (iss + 2)

/-- E of 07 R173. -/
def crunEnd (iss count nf w : Nat) : Nat :=
  let last := (count - 1) / 4 * 4
  groupStart iss count nf w last + groupTime (groupSize count last) nf w + 4

/-- The checks of CRUN, in order (07 R173, R180). -/
def Tile.crunTrap (t : Tile) (w : W64) : Option TrapReq :=
  let v := t.regionOf false w
  let r := v.r
  let b := fmtBytes r.fmt
  let nf := t.eng.nf
  let out (a : Int) : Bool := decide (a < r.bank0) || decide ((r.bank0 + 0x40000 : Nat) < a + b) || decide ((spadEnd : Int) ≤ a)
  if !t.eng.mode || fld w 61 3 != 0 || fld w 22 2 != 0 || r.list || fld w 56 4 == 15 ||
      (!v.noBank && !featFmt r.fmt) || decide (96 < r.count) then some ⟨.ill, 4, none⟩
  else if v.noBank then some ⟨.spmap, 0, some (w64 r.base)⟩
  else match (List.range r.count).findSome? (fun s =>
      ((List.range nf).find? fun f => out (sampleAddr r.base r.stride b s f)).map (sampleAddr r.base r.stride b s)) with
    | some a => some ⟨.spmap, 0, some (w64i a)⟩
    | none =>
      if r.base % b ≠ 0 then some ⟨.align, 0, some (w64 r.base)⟩
      else if bitAt t.tcfg 1 && !t.reserved.isEmpty && (List.range r.count).any (fun s =>
        t.pendingAfter (sampleAddr r.base r.stride b s 0).toNat (nf * b) (groupStart t.cyc r.count nf b s)) then
        some ⟨.pend, 0, none⟩
      else none

/-- What a CRUN writes at a cycle. -/
def Tile.crunWrite (t : Tile) (at_ : Nat) (w : Tgt) : Tile :=
  match t.eng.cmd with
  | some c => t.schedAs .m c.iss c.pc at_ w
  | none => t

/-- The group of a CRUN that starts in the cycle in progress, if one does. -/
def Tile.runCrun (t : Tile) : Tile :=
  match t.eng.crun with
  | some c =>
    if c.start = t.cyc ∧ c.done < c.count then
      let e := t.eng
      let w := fmtBytes c.fmt
      let k := groupSize c.count c.done
      let tg := groupTime k e.nf w
      let leaves := (List.range k).map fun i =>
        let a := (sampleAddr c.base c.stride w (c.done + i) 0).toNat
        (c.done + i, e.leaves c.fmt (leList w (readRange t.spad a (e.nf * w))))
      let bytes := leaves.flatMap fun (s, l, _) => (l.zipIdx (128 * s)).map fun (v, a) => (a, BitVec.ofNat 8 v)
      let t := t.crunWrite (t.cyc + tg + 4) (.opr bytes)
      let t := if leaves.any (·.2.2) then t.crunWrite (t.cyc + tg + 4) .missing else t
      let t := { t with eng := { t.eng with crun := some { c with done := c.done + k, start := t.cyc + tg } } }
      if c.done + k < c.count then t else t.crunWrite (t.cyc + tg + 4) (.samples c.count)
    else t
  | none => t

/-! ### Words -/

/-- CSET (07 R171); with ON = 1 it is refused in the bring-up service (21 R399). -/
def execCset (a : Src) (s : State) : Out3 :=
  engineWord s [a]
    (fun _ v =>
      let w := nth v 0
      if (w &&& ~~~0x3FF7#64) != 0 || (!bitAt w 0 && w != 0) || (!s.full && bitAt w 0) then some ⟨.ill, 4, none⟩ else none)
    .other (fun t _ => t.cyc + 2)
    fun v u => u.sched .m (u.cyc + 2) (.cset (nth v 0))

/-- CLDC (07 R172). -/
def execCldc (a : Src) (s : State) : Out3 :=
  let at_ (t : Tile) (v : List W64) : Nat := t.cyc + 4 + ((t.cellImg (nth v 0).toNat).len + 255) / 256
  engineWord s [a]
    (fun t v => if !t.eng.mode then some ⟨.ill, 4, none⟩ else t.cldcTrap (nth v 0)) .other at_
    fun v u =>
      let c := u.cellImg (nth v 0).toNat
      let cells := c.recs.map fun n => n.place u.eng.w16 u.eng.span
      u.sched .m (at_ u v)
        (.cells (cells.flatMap fun (i, l) => (l.zipIdx (16 * i)).map fun p => (p.2, p.1)) (cells.map (·.1)) c.nt)

/-- CRUN (07 R173). -/
def execCrun (a : Src) (s : State) : Out3 :=
  engineWord s [a] (fun t v => t.crunTrap (nth v 0)) .other
    (fun t v =>
      let r := (t.regionOf false (nth v 0)).r
      if r.count = 0 then t.cyc + 1 else crunEnd t.cyc r.count t.eng.nf (fmtBytes r.fmt))
    fun v u =>
      let r := (u.regionOf false (nth v 0)).r
      if r.count = 0 then u.sched .m (u.cyc + 1) (.samples 0)
      else { u with eng := { u.eng with crun := some ⟨r.base, r.stride, r.fmt, r.count, 0, u.cyc + 2⟩ } }

/-- Leaf-buffer byte (s, t) (07 R166). -/
def Eng.leafAt (e : Eng) (s t : Nat) : Nat := (readByte e.opr (128 * s + t)).toNat

/-- Steps 1 to 3 of 05 R102 for the region of CIDX or CLEAF. -/
def regionTrap (v : VReg) (okFmt : Bool) (count : Nat) : Option TrapReq :=
  if v.badBits || v.r.list || (!v.noBank && !okFmt) || v.r.count != count then some ⟨.ill, 4, none⟩
  else checkRegions [v.r] []

/-- CIDX (07 R174). -/
def execCidx (d : Src) (s : State) : Out3 :=
  engineWord s [d]
    (fun t v =>
      let r := t.regionOf false (nth v 0)
      if !t.eng.mode then some ⟨.ill, 4, none⟩
      else regionTrap r (r.r.fmt == I8 || r.r.fmt == N8 || r.r.fmt == RAW8) (t.eng.ns * t.eng.nt))
    .other
    (fun t _ => let n := t.eng.ns * t.eng.nt; if n = 0 then t.cyc else t.cyc + 4 + (n - 1) / 256)
    fun v u =>
      let r := (u.regionOf false (nth v 0)).r
      let nt := u.eng.nt
      let n := u.eng.ns * nt
      (List.range ((n + 255) / 256)).foldl (fun u b =>
        let es := ((List.range 256).map (256 * b + ·)).filter (· < n)
        let vs := es.map fun e => (e, u.eng.leafAt (e / nt) (e % nt))
        let u := u.schedSpad .m (u.cyc + 4 + b) (vs.flatMap fun (e, x) => r.elemWrite e x)
        if vs.any (fun p => p.2 == 0xFF) then u.sched .m (u.cyc + 4 + b) .noleafEnd else u) u

/-- C of 07 R175. -/
def leafTime (ns nt : Nat) : Nat := (ns * nt + 127) / 128

/-- One score of CLEAF: the accumulator, its flags, and whether a leaf of 0xFF was met. -/
def Tile.leafSum (t : Tile) (tb s start : Nat) : Nat × Flags × Bool :=
  (List.range t.eng.nt).foldl (fun (acc, f, no) k =>
    let l := t.eng.leafAt s k
    if l = 0xFF then (acc, f, true)
    else
      let w := writeFp 4 false .rne 0 ((decodeFp 4 acc).add false (decodeFp 4 (readLe t.spad (tb + 4 * (t.eng.lw * k + l)) 4)))
      (w.bits, f ||| w.flags, no)) (start, 0, false)

/-- CLEAF (07 R175). -/
def execCleaf (d a : Src) (s : State) : Out3 :=
  engineWord s [d, a]
    (fun t v =>
      let r := t.regionOf false (nth v 0)
      let n := 4 * t.eng.lw * t.eng.nt
      let tb := nth v 1
      if !t.eng.mode then some ⟨.ill, 4, none⟩
      else match regionTrap r (r.r.fmt == F32) t.eng.ns with
        | some x => some x
        | none =>
          if tb.toNat % 4 ≠ 0 then some ⟨.align, 0, none⟩
          else if n ≠ 0 ∧ (spadEnd ≤ tb.toNat ∨ 0x40000 < tb.toNat % 0x40000 + n) then some ⟨.spmap, 0, none⟩
          else if bitAt t.tcfg 1 && t.eng.ns != 0 && (t.pendingAfter tb.toNat n t.cyc ||
            (List.range r.r.count).any fun i => t.pendingAfter (r.r.addr i).toNat 4 t.cyc) then some ⟨.pend, 0, none⟩
          else none)
    .other
    (fun t _ => if t.eng.ns = 0 then t.cyc else t.cyc + 6 + leafTime t.eng.ns t.eng.nt)
    fun v u =>
      let r := (u.regionOf false (nth v 0)).r
      let at_ := u.cyc + 6 + leafTime u.eng.ns u.eng.nt
      let out := (List.range u.eng.ns).map fun i => (i, u.leafSum (nth v 1).toNat i (u.rawElem r i))
      let u := u.schedSpad .m at_ (out.flatMap fun (i, x, _) => r.elemWrite i x)
      let f := out.foldl (fun f x => f ||| x.2.2.1) (0 : Flags)
      let u := if f = 0 then u else u.sched .m at_ (.mflags f)
      if out.any (·.2.2.2) then u.sched .m at_ .noleaf else u

/-- CSTAT of slot M (07 R176). -/
def execCstatContour (d : Fin 32) (b : Src) (s : State) : Out3 :=
  runWord s { srcs := [b] } fun t v =>
    { outs := [(.s d, 2)]
      act := fun u => (u.schedS .m d (u.cyc + 2) u.eng.ccfg).atEnd (.ccfg (nth v 0))
      retire := t.cyc + 2 }

end Sys2Proof.Machine
end

