-- ==== Sys2Proof/Machine/Rings.lean ====
section
/-! DEFINITION. The recorder rings (20 R376 to R378), the parts of the package outside a tile by number, and the
reporting of an error to the severity matrix (19 R355). -/

namespace Sys2Proof.Machine

/-! ### Parts by number -/

def State.die (s : State) (d : Nat) : DieSt := tget s.dies DieSt.reset d
def State.setDie (s : State) (d : Nat) (x : DieSt) : State := { s with dies := tset s.dies d x }
def State.modDie (s : State) (d : Nat) (f : DieSt → DieSt) : State := s.setDie d (f (s.die d))

def State.party (s : State) (p : Nat) : Party := tget s.parties Party.reset p
def State.setParty (s : State) (p : Nat) (x : Party) : State := { s with parties := tset s.parties p x }
def State.modParty (s : State) (p : Nat) (f : Party → Party) : State := s.setParty p (f (s.party p))

def vget {α : Type} {n : Nat} [NeZero n] (v : Vector α n) (i : Nat) : α := v.get (Fin.ofNat n i)
def vset {α : Type} {n : Nat} [NeZero n] (v : Vector α n) (i : Nat) (x : α) : Vector α n := v.set (Fin.ofNat n i) x

/-- The base die of a tile, and the tile's end of a mesh path there (01 R8). -/
def dieOf (n : Nat) : Nat := n / 64 % 4
def endOf (n : Nat) : Nat := n % 64

/-- A number for a packet. -/
def State.newId (s : State) : Nat × State := (s.ids, { s with ids := s.ids + 1 })

/-! ### Rings (20 R376, R378) -/

/-- The ring of a party. -/
def dieRing (p : Nat) : Nat := 256 + p

def ringSize (r : Nat) : Nat := if r < 256 then 4096 else 16384

/-- Entries moved from the input queue into the ring, the oldest giving way as it wraps. -/
def Ring.drain (r : Ring) (size k : Nat) : Ring :=
  let ents := r.ents ++ r.queue.take k
  { r with queue := r.queue.drop k, ents := ents.drop (ents.length - size), total := r.total + (r.queue.take k).length }

/-- One record put in the input queue, which has room. -/
def Ring.accept (r : Ring) (e : BitVec 128) : Ring := { r with queue := r.queue ++ [e], count := r.count + 1 }

/-- Whether the ring takes another event in a cycle: up to 4 a cycle, into a queue of 64 (20 R378). -/
def Ring.room (r : Ring) : Bool := decide (r.count < 4) && decide (r.queue.length < 64)

/-- The GAP record that tells of the events lost since the last one. -/
def Ring.gapRecord (r : Ring) (cyc : Nat) : BitVec 128 := mkEvent 0x32 0 0 0 cyc 0 (min r.gap (2 ^ 30 - 1))

/-- GAP, where events were lost and there is room (20 R378). -/
def Ring.settleGap (r : Ring) (cyc : Nat) : Ring :=
  if r.gap ≠ 0 && r.room then { r.accept (r.gapRecord cyc) with gap := 0 } else r

/-- A ring in a cycle: at most 4 events are accepted in each. -/
def Ring.inCycle (r : Ring) (cyc : Nat) : Ring := if r.stamp = cyc then r else { r with stamp := cyc, count := 0 }

/-- An event offered in a cycle: accepted, after a GAP record where events were lost, or counted as lost. -/
def Ring.offer (r : Ring) (cyc : Nat) (e : BitVec 128) : Ring :=
  if r.frozen then r
  else
    let r := (r.inCycle cyc).settleGap cyc
    if r.room then r.accept e else { r with lost := r.lost + 1, gap := r.gap + 1 }

/-- An event written to a ring. How fast the input queue empties is not stated: a free amount leaves it first (log 8). -/
def State.ring (s : State) (n cyc : Nat) (e : BitVec 128) : State :=
  let (k, s) := s.freeNat
  let r := tget s.rings Ring.reset n
  { s with rings := tset s.rings n ((r.drain (ringSize n) (k % (r.queue.length + 1))).offer cyc e) }

/-- The GAP record of a ring that has room again in a cycle without an event. -/
def State.ringGap (s : State) (n cyc : Nat) : State :=
  let r := tget s.rings Ring.reset n
  if r.gap = 0 || r.frozen then s
  else
    let (k, s) := s.freeNat
    { s with rings := tset s.rings n (((r.drain (ringSize n) (k % (r.queue.length + 1))).inCycle cyc).settleGap cyc) }

/-- The events of a tile's cycle written to its ring: in slot order, engines last (20 R378). Those of the moves made before the next
cycle are among them, so that this is done as the next one begins, or as the ring freezes. -/
def State.flushEvents (s : State) (n cyc : Nat) : State :=
  let l := (s.tile n).evs
  let s := [0, 1, 2, 3, 4].foldl (fun s k => (l.filter fun e => e.1 == k).foldl (fun s e => s.ring n cyc e.2) s) s
  (s.ringGap n cyc).modTile n fun t => { t with evs := [] }

/-- An event of a tile made by a move between two of its cycles. -/
def State.tileEvent (s : State) (n slot type addr info : Nat) : State := s.modTile n fun t => t.eventPast slot type addr info

/-! ### Die counters (21 R401)

The event codes are the places of the rule's list, from 1; class c has code 11 + c (log 47). -/

/-- An event counted in the counters of a party that select it. -/
def State.dieCount (s : State) (p code n : Nat) : State :=
  { s with dcnt := s.dcnt.map fun e =>
      if e.1 / 32 = p ∧ bitAt e.2.1 0 ∧ fld e.2.1 8 8 = code then (e.1, e.2.1, e.2.2 + BitVec.ofNat 48 n) else e }

/-- A party's local cycle count, gone on by some cycles: its hold buffer's occupancy is summed over them (01 R13). -/
def State.partyCycles (s : State) (p k : Nat) : State :=
  (s.dieCount p 5 (k * (s.party p).hold.length)).modParty p fun x => { x with cyc := x.cyc + k }

/-! ### Events of parties -/

/-- An event of a party, in its die ring, attributed to a partition where there is one; held tells that its target is held (19
R365). The party's local cycle count has gone on by a free amount (log 7). -/
def State.dieRecord (s : State) (p : Nat) (part : Option Nat) (held : Bool) (type addr info : Nat) : State :=
  let (k, s) := s.freeNat
  let c := (s.party p).cyc + k
  let s := s.partyCycles p k
  let h := if held then 1 else 0
  s.ring (dieRing p) c (match part with
    | some q => mkEvent type 0 (2 + h) q c addr info
    | none => mkEvent type 0 h 0 c addr info)

/-- Whether a debugger holds the compute die over a party. -/
def State.dieHeld (s : State) (p : Nat) : Bool := decide (1 ≤ p) && decide (p ≤ 4) && (s.die (p - 1)).stat == 1

/-- An event of a party about itself or about the die over it. -/
def State.dieEvent (s : State) (p : Nat) (part : Option Nat) (type addr info : Nat) : State :=
  s.dieRecord p part (s.dieHeld p) type addr info

/-! ### Errors (19 R355) -/

/-- The unit of an error: a tile, or a party by its number plus 256. -/
def unitParty (p : Nat) : Nat := 256 + p

/-- An error that a party detects in a packet: that of the tile whose access or marker it carries, or of the partition whose
fabric tag it bears (19 R358). -/
def State.reportBody (s : State) (p cls source : Nat) (b : Body) : State :=
  match b with
  | .req a | .resp a _ _ =>
    if a.who = .host then s.report cls source (unitParty p) 0 a.pa 0 else s.reportAt p cls source a.tile a.pa
  | .marker n _ => s.reportAt p cls source n 0
  | .net x => s.reportPkt cls source (unitParty p) x.ptag
  | .notice | .freeze _ _ _ _ => s.report cls source (unitParty p) 0 0 0

/-- The partition that bears a fabric tag (18 R335). -/
def State.partTagged (s : State) (tag : Nat) : Option Nat := (s.parts.find? fun p => p.2.valid && p.2.ptag == tag).map (·.1)

/-! ### Device addresses (11 R211, 10 R405) -/

/-- The L2 slice of a line as a path end (11 R217: a fixed hash of address bits [35:7]). -/
def sliceEnd (pa : Nat) : Nat := 64 + Config.sliceHash (pa / 128 % 2 ^ 29) % 16

def lineOf (pa : Nat) : Nat := pa / 128

/-- Whether bytes lie in a poisoned sector (19 R360). -/
def State.poisoned (s : State) (pa n : Nat) : Bool :=
  decide (pa < hostBase) && s.poison.any fun q => pa / 32 ≤ q && q ≤ (pa + n - 1) / 32

/-! ### Mesh paths (10 R187, R194) -/

def portEnd : Nat := 80
def pathKey (die src dst : Nat) : Nat := 6561 * die + 81 * src + dst

/-- A packet put at the tail of a mesh path. -/
def State.path (s : State) (die src dst : Nat) (p : Pkt) : State :=
  { s with paths := tset s.paths (pathKey die src dst) (tget s.paths [] (pathKey die src dst) ++ [p]) }

/-- A packet at a party's port, to be sent after the earlier ones from the same path end. -/
def State.atPort (s : State) (party src : Nat) (p : Pkt) : State :=
  s.modParty party fun x => { x with out := tset x.out src (tget x.out [] src ++ [p]) }

/-- A packet sent on its way from an end of a die: along its mesh path to its end, or to the party port. -/
def State.launch (s : State) (die src : Nat) (p : Pkt) : State :=
  s.path die src (if p.dstP = partyOf die then p.dstE else portEnd) p

end Sys2Proof.Machine
end

