-- ==== Sys2Proof/Machine/Copy.lean ====
section
/-! DEFINITION. Copy commands: their checks, their rows and sectors, and how far slot A's accesses have performed
(10 R201; 11 R230 to R235). -/

namespace Sys2Proof.Machine

/-! ### Scopes (10 R201) -/

def Scope.num : Scope → Nat
  | .slot => 0
  | .tile => 1
  | .die => 2
  | .pkg => 3
  | .sys => 4

/-- The ledger's level at which an access has performed at a scope. -/
def scopeLvl (sc : Scope) : Nat := Scope.num sc + 1

def scopeOf (n : Nat) : Scope :=
  match n with
  | 0 => .slot
  | 1 => .tile
  | 2 => .die
  | 3 => .pkg
  | _ => .sys

/-- Whether an acquire of the scope makes an INVAL (10 R203). -/
def scopeInval (sc : Scope) : Bool := 3 ≤ Scope.num sc

/-! ### Fields of a command (11 R231) -/

def sdIs (sd : W64) : Bool := bitAt sd 37
def sdMfmt (sd : W64) : Fmt := fld sd 24 4
def sdAddr (sd : W64) : Nat := fld sd 0 22
def shRows (sh : W64) : Nat := fld sh 32 16
def shLen (sh : W64) : Nat := fld sh 0 24
def piS (p : W64) : Nat := fld p 40 24
def piG (p : W64) : Int := signed 40 (fld p 0 40)

/-- The first scratchpad byte of a command's rows at or above a limit, in row order, with LEN bytes a row. -/
def firstBeyond (sd shape pitch : W64) (len lim : Nat) : Option Nat :=
  if len = 0 then none
  else (List.range (shRows shape)).findSome? fun r =>
    let a := sdAddr sd + r * piS pitch
    if lim ≤ a then some a else if lim < a + len then some lim else none

/-- Step 1 of 11 R232. -/
def copyIll (toMem entry : Bool) (sd shape pitch : W64) : Bool :=
  let sc := fld sd 30 3
  let flags := bitAt sd 28 || bitAt sd 29
  let w := fmtBytes (sdMfmt sd)
  let any := shRows shape != 0 && shLen shape != 0
  fld sd 38 26 != 0 || fld sd 33 3 != 0 || fld sd 22 2 != 0 || fld shape 48 16 != 0 || fld shape 24 8 != 0 ||
    (!entry && bitAt sd 36) || sdMfmt sd == 15 || decide (4 < sc) || (!flags && sc != 0) ||
    (sdMfmt sd != I4A && sdMfmt sd != 15 && shLen shape % w != 0) ||
    (sdIs sd && (toMem || sdMfmt sd != 0 ||
      (any && (decide (sdAddr sd < 0x8000) || (firstBeyond sd shape pitch (shLen shape) 0x40000).isSome))))

/-- The checks of 11 R232, in their order. -/
def copyTrap (toMem entry : Bool) (sd ga shape pitch : W64) : Option TrapReq :=
  let w := fmtBytes (sdMfmt sd)
  if copyIll toMem entry sd shape pitch then some ⟨.ill, 4, none⟩
  else match (if sdIs sd then none else firstBeyond sd shape pitch (shLen shape) 0x300000) with
    | some a => some ⟨.spmap, 0, some (w64 a)⟩
    | none =>
      if sdMfmt sd ≠ I4A ∧ (ga.toNat % w ≠ 0 ∨ piG pitch % w ≠ 0) then some ⟨.align, 0, some ga⟩
      else if sdIs sd ∧ (sdAddr sd % 8 ≠ 0 ∨ piS pitch % 8 ≠ 0 ∨ shLen shape % 8 ≠ 0) then
        some ⟨.align, 0, some (w64 (sdAddr sd))⟩
      else none

/-! ### Rows and sectors (11 R233) -/

/-- Whether the bytes move unchanged (04 R87). -/
def CopyCmd.same (c : CopyCmd) : Bool :=
  sdIs c.sd || sdMfmt c.sd == c.fmt || sdMfmt c.sd == 0 || c.fmt == 0

/-- Bytes of a row on the memory side and on the scratchpad side. -/
def CopyCmd.lenM (c : CopyCmd) : Nat := shLen c.shape
def CopyCmd.lenS (c : CopyCmd) : Nat :=
  if c.same then c.lenM else c.lenM * fmtBits c.fmt / fmtBits (sdMfmt c.sd)

def CopyCmd.rows (c : CopyCmd) : Nat := if c.lenM = 0 then 0 else shRows c.shape

/-- First byte of a row on each side; a global address is taken modulo 2^64. -/
def CopyCmd.gRow (c : CopyCmd) (r : Nat) : Nat := wrapTo 64 (c.ga.toNat + r * piG c.pitch)
def CopyCmd.sRow (c : CopyCmd) (r : Nat) : Nat := sdAddr c.sd + r * piS c.pitch

/-- Sectors that n bytes from an address touch. -/
def sectorsOf (a n : Nat) : Nat := if n = 0 then 0 else (a + n - 1) / 32 - a / 32 + 1

/-- Row length and first byte on the source or destination side. -/
def CopyCmd.side (c : CopyCmd) (dst : Bool) (r : Nat) : Nat × Nat :=
  if c.toMem = dst then (c.gRow r, c.lenM) else (c.sRow r, c.lenS)

/-- How many sector numbers each row has; not every one of them is touched. -/
def CopyCmd.width (c : CopyCmd) : Nat := max c.lenM c.lenS / 32 + 2

/-- The bytes that a numbered sector gives to its row: row, and first and one-past-last byte within the row; none
where the row does not touch the sector. -/
def CopyCmd.sector (c : CopyCmd) (dst : Bool) (k : Nat) : Option (Nat × Nat × Nat) :=
  let r := k / c.width
  let (a, n) := c.side dst r
  let i := k % c.width
  if r < c.rows ∧ i < sectorsOf a n then
    let lo := max a ((a / 32 + i) * 32)
    let hi := min (a + n) ((a / 32 + i + 1) * 32)
    some (r, lo - a, hi - a)
  else none

/-- The number of destination sectors that the command writes. -/
def CopyCmd.total (c : CopyCmd) : Nat :=
  if c.code = 1 || c.code = 3 then 0
  else ((List.range c.rows).map fun r => let (a, n) := c.side true r; sectorsOf a n).foldl (· + ·) 0

/-- Whether every sector write of the command has taken effect; one that an error has halted writes nothing more. -/
def CopyCmd.finished (c : CopyCmd) : Bool :=
  if c.halt then c.wrote.all c.done.contains else c.done.length == c.total

/-- Whether the command has made its reads (10 R205): the value of every source sector is fixed. -/
def CopyCmd.readAll (c : CopyCmd) : Bool :=
  c.halt || c.finished ||
    (List.range (c.rows * c.width)).all fun k => (c.sector false k).isNone || c.reads.contains k

/-- The source bytes of a row that a destination range of it is made from. -/
def CopyCmd.needs (c : CopyCmd) (lo hi : Nat) : Nat × Nat :=
  if c.same then (lo, hi)
  else
    let (src, dst) := if c.toMem then (c.fmt, sdMfmt c.sd) else (sdMfmt c.sd, c.fmt)
    let e0 := lo * 8 / fmtBits dst
    let e1 := (hi * 8 + fmtBits dst - 1) / fmtBits dst
    (e0 * fmtBits src / 8, (e1 * fmtBits src + 7) / 8)

/-- The destination sectors that the bytes of a source sector would fill. -/
def CopyCmd.filledBy (c : CopyCmd) (k : Nat) : List Nat :=
  match c.sector false k with
  | none => []
  | some (r, lo, hi) => (List.range (c.rows * c.width)).filter fun j => match c.sector true j with
    | some (q, a, b) => q == r && decide ((c.needs a b).1 < hi) && decide (lo < (c.needs a b).2)
    | none => false

/-- How far the command has performed (10 R201): at SLOT scope as it has begun, and no further until its reads have their values;
then a write to the tile's own memory when it is committed, and a write to memory at TILE scope at once and at DIE scope when the
party port has sent it. -/
def CopyCmd.level (c : CopyCmd) : Nat :=
  if c.finished then 5
  else if c.toMem && c.readAll then
    if (c.wrote.all fun k => c.sent.contains k || c.done.contains k) && c.wrote.length == c.total then 3 else 2
  else 1

/-! ### The window (11 R230) -/

/-- Entries of the window that have not completed. -/
def Chain.held (c : Chain) : Nat :=
  c.win.length + ((c.act.map (·.ent)) ++ (c.walk.toList.map (·.ent))).eraseDups.length

/-- Whether every copy command issued before an access has performed to a level. -/
def Chain.performed (c : Chain) (lim lvl : Nat) : Bool :=
  c.win.all (fun e => !e.pub || decide (lim ≤ e.id)) &&
    c.walk.all (fun w => decide (lim ≤ w.ent)) &&
    c.act.all fun a => decide (lim ≤ a.ent) || decide (lvl ≤ a.level)

/-- Whether nothing of the commands in progress is on its way: every sector asked for has come, every one written has taken
effect. -/
def Chain.quiet (c : Chain) : Bool :=
  c.act.all fun x => (x.asked.all fun k => x.got.any fun g => g.1 == k) && x.wrote.all x.done.contains

/-- Whether no command is in progress, but for those that a copy fault has stopped (11 R239, 13 R290). -/
def Chain.atRest (c : Chain) : Bool := c.act.isEmpty || (c.stop.isSome && c.quiet)

/-- One command in progress changed. -/
def Tile.modCmd (t : Tile) (seq : Nat) (f : CopyCmd → CopyCmd) : Tile :=
  { t with chain := { t.chain with act := t.chain.act.map fun c => if c.seq = seq then f c else c } }

/-! ### What slot A has issued (10 R201, R202) -/

/-- Whether every access that slot A issued before one of its accesses has performed at a scope. -/
def Tile.performed (t : Tile) (lim : Nat) (sc : Scope) : Bool :=
  t.led.all (fun e => decide (lim ≤ e.id) || decide (scopeLvl sc ≤ e.lvl)) &&
    t.chain.performed lim (scopeLvl sc) &&
    t.tmq.all fun e => decide (lim ≤ e.id) || decide (scopeLvl sc ≤ e.lvl)

/-- Whether every queue entry before an access has performed; and every load and far atomic (10 R193, R203). A load's line
leaves the ledger as its value is fixed. -/
def Tile.entriesDone (t : Tile) (lim : Nat) : Bool := t.led.all fun e => decide (lim ≤ e.id)
def Tile.readsDone (t : Tile) (lim : Nat) : Bool := t.led.all fun e => decide (lim ≤ e.id) || !e.read

/-- Whether every store and far atomic before an access has performed at PKG scope (11 R237). -/
def Tile.storesDone (t : Tile) (lim : Nat) : Bool :=
  t.led.all fun e => decide (lim ≤ e.id) || !e.write || decide (4 ≤ e.lvl)

/-- Whether the value of a load or far atomic that has left its queue is still on its way to the tile. -/
def Tile.awaiting (t : Tile) : Bool :=
  t.lq.any fun e => e.val == .waiting && !(t.ents.any fun q => q.id == e.id) && !t.back.any fun b => b.1 == e.id

/-- The level of an access raised. -/
def Tile.raise (t : Tile) (id lvl : Nat) : Tile :=
  { t with led := t.led.map fun e => if e.id = id then { e with lvl := max e.lvl lvl } else e }

/-- An access that has performed at every scope. -/
def Tile.settle (t : Tile) (id : Nat) : Tile := { t with led := t.led.filter fun e => e.id != id }

/-- Whether the markers of the queues let an engine command or put begin (10 R203, R204). read tells a get, which a REL
does not hold. -/
def Tile.marksPass (t : Tile) (lim : Nat) (read : Bool) : Bool :=
  (t.ents.filter fun e => e.id < lim).all fun e =>
    match e.kind with
    | .mark (.acq sc) => t.readsDone e.id && (e.inv || !scopeInval sc)
    | .mark (.rel sc) => read || t.performed e.id sc
    | _ => true

end Sys2Proof.Machine
end

