-- ==== Sys2Proof/Machine/Queues.lean ====
section
/-! DEFINITION. The words of slot A that fill the queues and the chain: loads, stores, prefetches, markers, fences,
far atomics, copies (11 R220 to R236). -/

namespace Sys2Proof.Machine

/-! ### Placing an entry (11 R220) -/

/-- Whether the queues that an entry enters, and LQ where it returns a value, have room. -/
def Tile.hasRoom (t : Tile) (inL inS ret : Bool) : Bool :=
  (!inL || decide (t.laq.length < 32)) && (!inS || decide (t.saq.length < 32)) && (!ret || decide (t.lq.length < 32))

/-- Bytes of an entry's value, and whether LQ holds it sign-extended (11 R223, R227). -/
def entryWidth : QKind → Nat
  | .load w _ => w
  | .store w => w
  | .atom _ dbl _ => if dbl then 8 else 4
  | .pf | .mark _ => 0

def entrySigned : QKind → Bool
  | .load _ sgn => sgn
  | _ => false

/-- Whether the entry writes memory. -/
def QKind.writes : QKind → Bool
  | .store _ => true
  | .atom _ _ _ => true
  | .load _ _ | .pf | .mark _ => false

/-- An entry placed at the tail of its queues (10 R188 ENQ). A marker is no access, so it has no line in the ledger. -/
def Tile.enq (t : Tile) (kind : QKind) (va : W64) (mf : MemF) (need : Nat) (inL inS ret : Bool) : Tile :=
  let id := t.ids
  let mark := match kind with
    | .mark _ => true
    | _ => false
  let read := match kind with
    | .load _ _ => true
    | .atom _ _ _ => true
    | _ => false
  { t with
    ids := id + 1
    ents := t.ents ++ [⟨id, kind, va, mf.cls.toNat, mf.hint, need, [], .pending, false⟩]
    laq := if inL then t.laq ++ [id] else t.laq
    saq := if inS then t.saq ++ [id] else t.saq
    lq := if ret then t.lq ++ [⟨id, va, entryWidth kind, entrySigned kind, .waiting⟩] else t.lq
    led := if mark then t.led else t.led ++ [⟨id, 0, read, kind.writes⟩] }

/-- The effective address of a load, a store or a prefetch (11 R223). -/
def eaOf (a b : W64) (sh : Nat) : W64 := a + (b <<< sh)

/-- A word that places one entry: its alignment (0 for none), its entry, and the queues it enters. -/
def entryWord (s : State) (o : LdSt) (w : Nat) (kind : QKind) (need : Nat) (inL inS ret : Bool) : Out3 :=
  runWord s { srcs := [o.a, o.b] } fun t v =>
    let ea := eaOf (nth v 0) (nth v 1) o.sh.val
    if w ≠ 0 ∧ ea.toNat % w ≠ 0 then Plan.raise .align 0 (some ea)
    else {
      wait := if t.hasRoom inL inS ret then none else some .busy
      act := fun u => u.enq kind ea o.mf need inL inS ret
      retire := t.cyc }

def ldWord (s : State) (o : LdSt) (w : Nat) (sgn : Bool) : Out3 := entryWord s o w (.load w sgn) 0 true false true
def stWord (s : State) (o : LdSt) (w : Nat) : Out3 := entryWord s o w (.store w) 1 false true false

def execLdB (o : LdSt) (s : State) : Out3 := ldWord s o 1 false
def execLdH (o : LdSt) (s : State) : Out3 := ldWord s o 2 false
def execLdW (o : LdSt) (s : State) : Out3 := ldWord s o 4 false
def execLdD (o : LdSt) (s : State) : Out3 := ldWord s o 8 false
def execLdsB (o : LdSt) (s : State) : Out3 := ldWord s o 1 true
def execLdsH (o : LdSt) (s : State) : Out3 := ldWord s o 2 true
def execLdsW (o : LdSt) (s : State) : Out3 := ldWord s o 4 true
def execStB (o : LdSt) (s : State) : Out3 := stWord s o 1
def execStH (o : LdSt) (s : State) : Out3 := stWord s o 2
def execStW (o : LdSt) (s : State) : Out3 := stWord s o 4
def execStD (o : LdSt) (s : State) : Out3 := stWord s o 8

/-- PF checks no alignment (11 R223). -/
def execPf (o : LdSt) (s : State) : Out3 := entryWord s o 0 .pf 0 true false false

/-! ### Markers (11 R225) -/

def markWord (s : State) (m : Mark) : Out3 :=
  runWord s {} fun t _ =>
    { wait := if t.hasRoom true true false then none else some .busy
      act := fun u => u.enq (.mark m) 0 ⟨.norm, 0⟩ 0 true true false
      retire := t.cyc }

def execQmark (s : State) : Out3 := markWord s .qmark
def execAcqSlot (s : State) : Out3 := markWord s (.acq .slot)
def execAcqTile (s : State) : Out3 := markWord s (.acq .tile)
def execAcqDie (s : State) : Out3 := markWord s (.acq .die)
def execAcqPkg (s : State) : Out3 := markWord s (.acq .pkg)
def execAcqSys (s : State) : Out3 := markWord s (.acq .sys)
def execRelSlot (s : State) : Out3 := markWord s (.rel .slot)
def execRelTile (s : State) : Out3 := markWord s (.rel .tile)
def execRelDie (s : State) : Out3 := markWord s (.rel .die)
def execRelPkg (s : State) : Out3 := markWord s (.rel .pkg)
def execRelSys (s : State) : Out3 := markWord s (.rel .sys)

/-! ### Fences (10 R202, 11 R225) -/

/-- The marker of a fence sent to one used path end or party. -/
def State.sendMarker (s : State) (n end_ : Nat) : State :=
  let (id, s) := s.newId
  let p : Pkt := if end_ < 128 then ⟨id, .marker n id, partyOf (dieOf n), end_⟩ else ⟨id, .marker n id, end_ - 128, portEnd⟩
  let s := s.modTile n fun t => { t with fence := t.fence.map fun f => { f with marks := f.marks ++ [id] } }
  s.launch (dieOf n) (endOf n) p

/-- The markers of a fence of DIE, PKG or SYS scope, one for each path and party used since the last fence. -/
def State.sendMarkers (s : State) (n : Nat) (sc : Scope) : State :=
  if Scope.num sc < 2 then s
  else
    let used := (s.tile n).used
    used.foldl (fun s e => s.sendMarker n e) (s.modTile n fun t => { t with used := [] })

/-- FENCE issues at once; slot A's next word waits for its retirement, which pushes its token. -/
def fenceWord (s : State) (sc : Scope) : Out3 :=
  runWord s {} fun t _ =>
    { act := fun u => { u with fence := some ⟨sc, u.cyc, u.ids, []⟩, ids := u.ids + 1 }
      sys := fun s => s.sendMarkers s.cur.tile sc
      retire := t.cyc
      open_ := true }

def execFenceSlot (s : State) : Out3 := fenceWord s .slot
def execFenceTile (s : State) : Out3 := fenceWord s .tile
def execFenceDie (s : State) : Out3 := fenceWord s .die
def execFencePkg (s : State) : Out3 := fenceWord s .pkg
def execFenceSys (s : State) : Out3 := fenceWord s .sys

/-- Whether the conditions of 10 R202 hold, but for the INVAL. A fence that waits over a trap retires after ERET
(11 R225). -/
def Tile.fenceReady (t : Tile) (f : Fence) : Bool :=
  !t.inh && f.marks.isEmpty && t.performed f.id f.scope

/-- INVAL: an acquire drops every copy, and every fill in flight, of the die (10 R196). -/
def State.inval (s : State) (d : Nat) : State := s.modDie d fun x => { x with rdc := [], fills := [] }

/-- The retirement of a FENCE at the end of a cycle, where its conditions hold: the INVAL, its token, and FENCEW
(20 R379). -/
def State.retireFence (s : State) (n c : Nat) : State :=
  let t := s.tile n
  match t.fence with
  | some f =>
    if t.fenceReady f then
      let s := if scopeInval f.scope then s.inval (dieOf n) else s
      let t := ({ t with fence := none } : Tile).setRetire .a f.iss c
      s.setTile n (t.eventAt c (Slot.num .a) 0x11 0 (Scope.num f.scope + 8 * min (c - f.iss) (2 ^ 27 - 1)))
    else s
  | none => s

/-! ### Far atomics (11 R226, R227) -/

/-- A far atomic of an operation; ret tells the returning form. -/
def atomWord (s : State) (o : Atom) (op need : Nat) (ret : Bool) : Out3 :=
  runWord s { srcs := [o.a, o.b] } fun t v =>
    let ea := nth v 0 + nth v 1
    let w := if o.dbl then 8 else 4
    if ea.toNat % w ≠ 0 then Plan.raise .align 0 (some ea)
    else {
      wait := if t.hasRoom true true ret then none else some .busy
      act := fun u => u.enq (.atom op o.dbl ret) ea o.mf need true true ret
      retire := t.cyc }

def execAadd (o : Atom) (s : State) : Out3 := atomWord s o 0 1 true
def execAmin (o : Atom) (s : State) : Out3 := atomWord s o 1 1 true
def execAmins (o : Atom) (s : State) : Out3 := atomWord s o 2 1 true
def execAmax (o : Atom) (s : State) : Out3 := atomWord s o 3 1 true
def execAmaxs (o : Atom) (s : State) : Out3 := atomWord s o 4 1 true
def execAand (o : Atom) (s : State) : Out3 := atomWord s o 5 1 true
def execAor (o : Atom) (s : State) : Out3 := atomWord s o 6 1 true
def execAxor (o : Atom) (s : State) : Out3 := atomWord s o 7 1 true
def execAswp (o : Atom) (s : State) : Out3 := atomWord s o 8 1 true
def execAcas (o : Atom) (s : State) : Out3 := atomWord s o 9 2 true
def execAaddF32 (o : Atom) (s : State) : Out3 := atomWord s o 10 1 true
def execAaddBf16 (o : Atom) (s : State) : Out3 := atomWord s o 11 1 true
def execAaddNr (o : Atom) (s : State) : Out3 := atomWord s o 0 1 false
def execAminNr (o : Atom) (s : State) : Out3 := atomWord s o 1 1 false
def execAminsNr (o : Atom) (s : State) : Out3 := atomWord s o 2 1 false
def execAmaxNr (o : Atom) (s : State) : Out3 := atomWord s o 3 1 false
def execAmaxsNr (o : Atom) (s : State) : Out3 := atomWord s o 4 1 false
def execAandNr (o : Atom) (s : State) : Out3 := atomWord s o 5 1 false
def execAorNr (o : Atom) (s : State) : Out3 := atomWord s o 6 1 false
def execAxorNr (o : Atom) (s : State) : Out3 := atomWord s o 7 1 false
def execAswpNr (o : Atom) (s : State) : Out3 := atomWord s o 8 1 false
def execAcasNr (o : Atom) (s : State) : Out3 := atomWord s o 9 2 false
def execAaddF32Nr (o : Atom) (s : State) : Out3 := atomWord s o 10 1 false
def execAaddBf16Nr (o : Atom) (s : State) : Out3 := atomWord s o 11 1 false

/-! ### The chain (11 R230 to R236) -/

def Chain.append (c : Chain) (k : ChainKind) : Chain := { c with win := c.win ++ [⟨0, false, k⟩] }

/-- Every appended entry published: each counts as issued by slot A now (11 R230). -/
def Tile.publish (t : Tile) : Tile :=
  let (win, ids) := t.chain.win.foldl (fun (l, i) e =>
    if e.pub then (l ++ [e], i) else (l ++ [{ e with id := i, pub := true }], i + 1)) ([], t.ids)
  { t with chain := { t.chain with win := win }, ids := ids }

def copyWord (s : State) (toMem : Bool) (sd ga shape pitch : Src) (mf : MemF) : Out3 :=
  runWord s { srcs := [sd, ga, shape, pitch] } fun t v =>
    { trap := if s.lacks (sdMfmt (nth v 0)) then some ⟨.ill, 4, none⟩
        else copyTrap toMem false (nth v 0) (nth v 1) (nth v 2) (nth v 3)
      wait := if 64 ≤ t.chain.held then some .busy else none
      act := fun u => { u with
        chain := u.chain.append (.cmd toMem (nth v 0) (nth v 1) (nth v 2) (nth v 3) mf.hint) }
      retire := t.cyc }

def execCpygs (sd ga shape pitch : Src) (mf : MemF) (s : State) : Out3 := copyWord s false sd ga shape pitch mf
def execCpysg (sd ga shape pitch : Src) (mf : MemF) (s : State) : Out3 := copyWord s true sd ga shape pitch mf

def execChainTail (a : Src) (s : State) : Out3 :=
  runWord s { srcs := [a] } fun t v =>
    let x := nth v 0
    if x.toNat % 64 ≠ 0 then Plan.raise .align 0 (some x)
    else {
      wait := if 64 ≤ t.chain.held then some .busy else none
      act := fun u =>
        if x = 0 then u.publish else ({ u with chain := u.chain.append (.link x) } : Tile).publish
      retire := t.cyc }

/-- The status word of CHAIN.WAIT (11 R236). -/
def Chain.status (c : Chain) : W64 := w64 (c.seq.toNat + (if c.err then 2 ^ 32 else 0) + c.ecode % 256 * 2 ^ 40)

def execChainWait (d : Fin 32) (a : Src) (clr : Bool) (s : State) : Out3 :=
  runWord s { srcs := [a] } fun t v =>
    { outs := [(.s d, 1)]
      wait := if (t.chain.seq - (nth v 0).setWidth 32).toNat < 2 ^ 31 then none else some .event
      act := fun u =>
        let u := u.schedS .a d (u.cyc + 1) u.chain.status
        if clr then u.atEnd .clearChain else u
      retire := t.cyc + 1 }

end Sys2Proof.Machine
end

