-- ==== Sys2Proof/Machine/Puts.lean ====
section
/-! DEFINITION. The words that carry data between scratchpads and count its arrival: puts, gets, arrival counters and
byte-counting barriers (12 R252 to R260). -/

namespace Sys2Proof.Machine

/-- The traffic classes of the tile's partition (18 R335, R338). -/
def State.tcmask (s : State) (t : Tile) : BitVec 8 :=
  match t.part with
  | some p => (s.partE p).tcmask
  | none => 0

/-! ### Puts and gets (12 R252 to R254) -/

/-- Whether a package number names no place of the address plan (01 R14). -/
def badPkg (p : Nat) : Bool := decide (73728 < p / 512) || decide (383 < p % 512)

/-- A traffic class that a put may not use: 0, 1, or one that is not the partition's (12 R254). -/
def badTc (mask : BitVec 8) (tc : Nat) : Bool := decide (tc < 2) || !mask.getLsbD tc

/-- The checks of 12 R254, in their order. -/
def putTrap (pval : Bool) (mask : BitVec 8) (tgt adr ctl : W64) : Option TrapReq :=
  let len := fld ctl 0 13
  let sc := fld ctl 34 3
  let here := bitAt tgt 34
  let laddr := fld adr 0 22
  let raddr := fld adr 32 22
  if fld tgt 35 29 ≠ 0 ∨ fld adr 54 10 ≠ 0 ∨ fld adr 22 10 ≠ 0 ∨ fld ctl 44 20 ≠ 0 ∨ fld ctl 30 2 ≠ 0 ∨ fld ctl 13 3 ≠ 0 ∨
      4096 < len ∨ 4 < sc ∨ (sc ≠ 0 ∧ !bitAt ctl 32 ∧ !bitAt ctl 33) ∨
      (here ∧ fld tgt 0 26 ≠ 0) ∨ (!here ∧ !pval) ∨ (!here ∧ badPkg (fld tgt 0 26)) ∨ badTc mask (fld ctl 27 3) then
    some ⟨.ill, 4, none⟩
  else if len ≠ 0 ∧ (0x300000 < laddr + len ∨ laddr / 0x40000 ≠ (laddr + len - 1) / 0x40000) then
    some ⟨.spmap, 0, some (w64 laddr)⟩
  else if laddr % 4 ≠ 0 ∨ raddr % 4 ≠ 0 ∨ len % 4 ≠ 0 then some ⟨.align, 0, some (w64 laddr)⟩
  else none

def putWord (s : State) (get : Bool) (tgt adr ctl : Src) : Out3 :=
  let mask := s.tcmask (s.tile s.cur.tile)
  runWord s { srcs := [tgt, adr, ctl] } fun t v =>
    { trap := putTrap s.pval mask (nth v 0) (nth v 1) (nth v 2)
      wait := if 64 ≤ t.tmq.length then some .busy else none
      act := fun u => { u with
        ids := u.ids + 1
        tmq := u.tmq ++ [⟨u.ids, u.cyc, get, nth v 0, nth v 1, nth v 2, 0, [], false, false, false, none⟩] }
      retire := t.cyc }

def execPut (tgt adr ctl : Src) (_mf : MemF) (s : State) : Out3 := putWord s false tgt adr ctl
def execGet (tgt adr ctl : Src) (_mf : MemF) (s : State) : Out3 := putWord s true tgt adr ctl

/-! ### Arrival counters (12 R257, R258) -/

def Tile.ctr (t : Tile) (i : Nat) : BitVec 32 := tget t.ctrs 0 i
def Tile.setCtr (t : Tile) (i : Nat) (v : BitVec 32) : Tile := { t with ctrs := tset t.ctrs i v }

/-- A counter word: its index below a limit, its number a 32-bit one (12 R258). -/
def counted (v : List W64) (lim : Nat) (p : Plan) : Plan :=
  if lim ≤ (nth v 0).toNat ∨ 2 ^ 32 ≤ (nth v 1).toNat then Plan.ill4 else p

def execArradd (d : Fin 32) (a b : Src) (s : State) : Out3 :=
  runWord s { srcs := [a, b] } fun t v =>
    let i := (nth v 0).toNat
    counted v 1024 {
      outs := [(.s d, 1)]
      act := fun u => (u.schedS .a d (u.cyc + 1) ((u.ctr i).setWidth 64)).atEnd (.arrAdd i (nth v 1).toNat)
      retire := t.cyc + 1 }

def execArrset (a b : Src) (s : State) : Out3 :=
  runWord s { srcs := [a, b] } fun t v =>
    counted v 1024 {
      act := fun u => u.atEnd (.arrSet (nth v 0).toNat (nth v 1).toNat)
      retire := t.cyc }

def execArrw (d : Fin 32) (a b : Src) (subt : Bool) (s : State) : Out3 :=
  runWord s { srcs := [a, b] } fun t v =>
    let i := (nth v 0).toNat
    let n := (nth v 1).setWidth 32
    counted v 1024 {
      outs := [(.s d, 1)]
      wait := if (t.ctr i - n).toNat < 2 ^ 31 then none else some .event
      act := fun u =>
        let u := u.schedS .a d (u.cyc + 1) ((t.ctr i).setWidth 64)
        if subt then u.atEnd (.arrSub i n.toNat) else u
      retire := t.cyc + 1 }

/-! ### Byte-counting barriers (12 R259, R260) -/

def Tile.bcb (t : Tile) (i : Nat) : Bcb := tget t.bcbs Bcb.reset i
def Tile.setBcb (t : Tile) (i : Nat) (x : Bcb) : Tile := { t with bcbs := tset t.bcbs i x }

/-- COUNT as a signed number of 48 bits. -/
def wrap48 (v : Int) : Int := signed 48 (wrapTo 48 v)

/-- A barrier that fires at the end of a cycle, where it does. -/
def Bcb.fire (x : Bcb) : Bcb :=
  if x.armed && decide (0 ≤ x.count) then
    { x with round := x.round + 1, armed := false, excess := x.excess || decide (0 < x.count) }
  else x

/-- Every barrier tested at the end of a cycle; a positive residual writes EXCESS (20 R379). It is tested once the
commits of the cycle are made, that is, as the next one begins, or as the tile's ring freezes. -/
def Tile.fireAll (t : Tile) (cyc : Nat) : Tile :=
  t.bcbs.foldl (fun t p =>
    if p.2.armed && decide (0 ≤ p.2.count) then
      let u := t.setBcb p.1 p.2.fire
      if 0 < p.2.count then u.eventAt cyc 4 0x17 0 (p.1 + 64 * min p.2.count.toNat (2 ^ 24 - 1)) else u
    else t) t

/-- The status word of BCB.WAIT (12 R260). -/
def Bcb.status (x : Bcb) : W64 :=
  w64 (x.round.toNat + (if x.armed then 2 ^ 32 else 0) + (if x.excess then 2 ^ 33 else 0))

def execBcbPost (d : Fin 32) (a b : Src) (s : State) : Out3 :=
  runWord s { srcs := [a, b] } fun t v =>
    let i := (nth v 0).toNat
    counted v 64 {
      outs := [(.s d, 1)]
      act := fun u => (u.schedS .a d (u.cyc + 1) (((u.bcb i).round + 1).setWidth 64)).atEnd (.bcbPost i (nth v 1).toNat)
      retire := t.cyc + 1 }

def execBcbWait (d : Fin 32) (a b : Src) (clr : Bool) (s : State) : Out3 :=
  runWord s { srcs := [a, b] } fun t v =>
    let i := (nth v 0).toNat
    counted v 64 {
      outs := [(.s d, 1)]
      wait := if ((t.bcb i).round - (nth v 1).setWidth 32).toNat < 2 ^ 31 then none else some .event
      act := fun u =>
        let u := u.schedS .a d (u.cyc + 1) (t.bcb i).status
        if clr then u.atEnd (.bcbClear i) else u
      retire := t.cyc + 1 }

/-! ### What these words leave to the end of the cycle -/

def Tile.endCount (t : Tile) : Eoc → Tile
  | .arrAdd i n => t.setCtr i (t.ctr i + BitVec.ofNat 32 n)
  | .arrSet i n => t.setCtr i (BitVec.ofNat 32 n)
  | .arrSub i n => t.setCtr i (t.ctr i - BitVec.ofNat 32 n)
  | .bcbPost i n =>
    let x := t.bcb i
    t.setBcb i { x with count := wrap48 (x.count - n), armed := true }
  | .bcbClear i => t.setBcb i { t.bcb i with excess := false }
  | .clearChain => { t with chain := { t.chain with err := false, ecode := 0 } }
  | _ => t

end Sys2Proof.Machine
end

