-- ==== Sys2Proof/Machine/Translate.lean ====
section
/-! DEFINITION. Translation: the page walk, the two levels of TLB and the permissions (18 R340 to R343, 11 R221), and
the moves ENTRY_TRANSLATE and PAGE_WALK. -/

namespace Sys2Proof.Machine

/-! ### What a table or page may name (18 R341) -/

/-- Whether an address range is covered by extents, each a base and a number of 64 KiB pages. -/
def coveredFrom (ext : List (Nat × Nat)) (stop : Nat) : Nat → Nat → Bool
  | 0, pos => decide (stop ≤ pos)
  | n + 1, pos =>
    if stop ≤ pos then true
    else match ext.find? fun e => e.1 ≤ pos && pos < e.1 + e.2 * 65536 with
      | some e => coveredFrom ext stop n (e.1 + e.2 * 65536)
      | none => false

def covered (ext : List (Nat × Nat)) (lo n : Nat) : Bool := coveredFrom ext (lo + n) 17 lo

/-- Whether a device range lies on backed addresses of stacks in service (11 R211, 21 R399, 12 R250). -/
def State.serves (s : State) (lo n : Nat) : Bool :=
  backed lo && backed (lo + n - 1) && stackOf lo == stackOf (lo + n - 1) &&
    (s.full || decide (stackOf lo < 2)) && !bitAt s.clkmask (homeParty lo)

/-! ### The walk -/

/-- A level: its number, index position and length, bytes of its table, and bytes that its leaf maps (18 R340). -/
structure Level where
  num   : Nat
  lo    : Nat
  len   : Nat
  table : Nat
  page  : Nat
  deriving DecidableEq, Repr

def levels : List Level :=
  [⟨4, 42, 14, 0x20000, 0⟩, ⟨3, 32, 10, 0x2000, 0x100000000⟩, ⟨2, 28, 4, 128, 0x10000000⟩,
    ⟨1, 21, 7, 0x400, 0x200000⟩, ⟨0, 16, 5, 256, 0x10000⟩]

/-- The entry that ends a walk with an event or an error: the event's type (0x1A PTBAD malformed, 0x1B XTNT outlying, 0x18 POISON, or
0 for one that the host's IOMMU does not give, which has no event), address and INFO. -/
abbrev WalkNote := Option (Nat × Nat × Nat)

/-- How a walk ends: a leaf, or a fault KIND with the entry that an event names. -/
inductive WalkEnd where
  | leaf (e : TlbE)
  | fault (kind : Nat) (note : WalkNote)
  deriving DecidableEq, Repr

/-- Whether an entry breaks the form of 18 R341. -/
def pteBad (l : Level) (w : W64) : Bool :=
  let leaf := bitAt w 1
  fld w 60 4 != 0 || fld w 6 6 != 0 || (leaf && l.num == 4) || (!leaf && l.num == 0) ||
    (!leaf && fld w 2 4 != 0) || (bitAt w 4 && !bitAt w 5) || (leaf && l.num != 4 && fld w 0 52 / 4096 * 4096 % l.page != 0)

/-- The walk from a table on, over the levels that remain. DEDUCED (log 57): an entry in a poisoned sector, or one that the host's
IOMMU refuses to the partition's function, is no translation, and is named by its error's class (18 R338, R351; 19 R354). -/
def State.walkFrom (s : State) (p : PartE) (va : Nat) : List Level → Nat → WalkEnd
  | [], _ => .fault 1 none
  | l :: r, table =>
    let at_ := table + 8 * (va / 2 ^ l.lo % 2 ^ l.len)
    let w := w64 (fromLe (s.readPa at_ 8))
    let addr := fld w 12 40 * 4096
    let leaf := bitAt w 1
    let size := if leaf then l.page else (r.head?.map (·.table)).getD 0
    if s.poisoned at_ 8 then .fault 1 (some (0x18, at_ / 16, 0))
    else if hostBase ≤ at_ && !s.hostTakes p.vf at_ then .fault 1 (some (0, at_ / 16, 0))
    else if !bitAt w 0 then .fault 1 none
    else if pteBad l w then .fault 1 (some (0x1A, at_ / 16, l.num))
    else if addr < hostBase ∧ !s.serves addr size then .fault 5 none
    else if addr < hostBase ∧ !covered p.ext addr size then
      .fault 2 (some (0x1B, at_ / 16, l.num + if leaf then 8 else 0))
    else if leaf then .leaf ⟨p.asid, va / l.page * l.page, l.page, w⟩
    else s.walkFrom p va r addr

/-- The valid partition of an ASID, and the function whose requester id its accesses bear (18 R338). -/
def State.partAsid (s : State) (asid : Nat) : Option (Nat × PartE) :=
  s.parts.find? fun p => p.2.valid && p.2.asid == asid
def State.vfAsid (s : State) (asid : Nat) : Nat := ((s.partAsid asid).map (·.2.vf)).getD 0

/-- The walk of an address of an ASID; one with no partition has no translation. The table at ROOT is a table like the others:
it lies on stacks in service and inside the extents, or the walk faults; no entry names it, so no event does. -/
def State.walk (s : State) (asid va : Nat) : WalkEnd :=
  match s.partAsid asid with
  | some (_, p) =>
    if !s.serves p.root 0x20000 then .fault 5 none
    else if !covered p.ext p.root 0x20000 then .fault 2 none
    else s.walkFrom p va levels p.root
  | none => .fault 1 none

/-- The record of an entry that a walk met: its event in the ring of the walker's die; and class 25 from source 5 for a malformed
one, class 5 for a poisoned one, class 26 for one that the host refused (18 R341, R351; 19 R354). -/
def State.walkNote (s : State) (party unit part : Nat) (note : WalkNote) : State :=
  match note with
  | some (ty, addr, info) =>
    let s := if ty = 0 then s else s.dieEvent party (if part < 64 then some part else none) ty addr info
    if ty = 0x1A then s.report 25 5 unit 0 (addr * 16) 0
    else if ty = 0x18 then s.report 5 5 unit 0 (addr * 16) 0
    else if ty = 0 then (if unit < 256 then s.report 26 14 unit 0 (addr * 16) 0 else s.reportPkt 26 14 unit (s.partE part).ptag)
    else s
  | none => s

/-! ### Migratable pages (10 R196, R208; 18 R346) -/

/-- PURGE: every copy of a range's lines in every remote-data cache dropped, with every fill in flight for them. -/
def State.purge (s : State) (b : Nat × Nat) : State :=
  let inside (line : Nat) : Bool := b.1 ≤ 128 * line && 128 * line < b.1 + b.2
  { s with dies := s.dies.map fun d => (d.1, { d.2 with
      rdc := d.2.rdc.filter fun l => !inside l.1
      fills := d.2.fills.filter fun l => !inside l.2 }) }

/-- The device pages that a leaf maps, as base and length. -/
def TlbE.range (e : TlbE) : Nat × Nat := (fld e.leaf 12 40 * 4096, e.size)

/-- A migratable page that a walk finds in the device's hands: where it has been handed over since it was last seen, its old
copies are purged before the device's first access, which needs the leaf that is walked (log 58). -/
def State.handOver (s : State) (e : TlbE) : State :=
  if bitAt e.leaf 5 && !bitAt e.leaf 4 && decide (e.range.1 < hostBase) && !s.mig.contains e then
    { (s.purge e.range) with mig := s.mig ++ [e] }
  else s

/-! ### Permissions (18 R343) -/

/-- The access that a translation serves. -/
inductive Use where
  | read | write | atomic
  deriving DecidableEq, Repr

/-- The physical address that a leaf gives, or the fault KIND. A far atomic to a host address faults with KIND 3 (11 R229). -/
def permit (u : Use) (e : TlbE) (va : Nat) : Nat ⊕ Nat :=
  let w := e.leaf
  let pa := fld w 12 40 * 4096 + va % e.size
  if bitAt w 4 then .inr 3
  else match u with
    | .read => .inl pa
    | .write => if bitAt w 2 then .inl pa else .inr 2
    | .atomic => if hostBase ≤ pa then .inr 3 else if bitAt w 2 && bitAt w 3 then .inl pa else .inr 2

/-! ### The TLBs (18 R342) -/

def tlbFind (l : List TlbE) (asid va : Nat) : Option TlbE :=
  l.find? fun e => e.asid == asid && e.va ≤ va && va < e.va + e.size

/-- An entry held; a leaf that the host owns is never held (18 R346). DESIGN CHOICE (log 64): a full TLB gives up its oldest entry,
which only the counts of its misses show. -/
def tlbHold (l : List TlbE) (cap : Nat) (e : TlbE) : List TlbE :=
  if bitAt e.leaf 4 then l
  else
    let l := l.filter fun x => !(x.asid == e.asid && x.va == e.va && x.size == e.size)
    (l ++ [e]).drop (l.length + 1 - cap)

/-- The ASID under which a tile translates. -/
def State.asidOf (s : State) (t : Tile) : Nat :=
  match t.part with
  | some p => (s.partE p).asid
  | none => 0

/-- What a translation gives at once: a physical address, a fault KIND, or nothing until a walk is made. -/
inductive TrRes where
  | ok (pa : Nat)
  | fault (kind : Nat)
  | miss
  deriving DecidableEq, Repr

def TrRes.of : Nat ⊕ Nat → TrRes
  | .inl pa => .ok pa
  | .inr k => .fault k

/-- The translation of a global address for a tile (11 R221): its first-level TLB, then its die's last-level TLB, then
the walker's answer; failing these a walk is asked for. A miss is counted once, though it is tried again while its walk is on its
way. -/
def State.translate (s : State) (n : Nat) (va : W64) (u : Use) : TrRes × State :=
  let t := s.tile n
  let asid := s.asidOf t
  let v := va.toNat
  let d := dieOf n
  let x := s.die d
  if fld va 56 8 ≠ 0 then (.fault 4, s)
  else match tlbFind t.tlb asid v with
    | some e => (.of (permit u e v), s)
    | none =>
      let mine (m a w : Nat) : Bool := m == n && a == asid && w / 65536 == v / 65536
      let known := (x.walks.any fun w => mine w.tile w.asid w.va) || x.found.any fun f => mine f.tile f.asid f.va
      let s := if known then s else s.setTile n (t.countMove 7 0 1)
      let hold (e : TlbE) (s : State) := s.modTile n fun t => { t with tlb := tlbHold t.tlb 192 e }
      match tlbFind x.tlb2 asid v with
      | some e => (.of (permit u e v), hold e s)
      | none =>
        match x.found.find? fun f => mine f.tile f.asid f.va with
        | some f =>
          let s := s.setDie d { x with found := x.found.filter fun g => !(g == f) }
          match f.res with
          | .inl e => (.of (permit u e v), hold e s)
          | .inr k => (.fault k, s)
        | none =>
          if known then (.miss, s)
          else (.miss, s.setDie d { x with walks := x.walks ++ [⟨n, asid, v, true⟩] })

/-- PAGE_WALK (18 R341): a walk that was asked for on a die. Its event names a malformed or outlying entry; a malformed
one is also reported as class 25 from source 5, and a poisoned or refused one as its class. -/
def execPageWalk (die asid va : Nat) (s : State) : Out3 :=
  let d := die % 4
  let x := s.die d
  match x.walks.find? fun w => w.asid == asid && w.va / 65536 == va / 65536 with
  | none => .next s
  | some w =>
    let e := s.walk asid w.va
    let x := { x with walks := x.walks.filter fun v => !(v == w) }
    match e with
    | .leaf e =>
      let s := s.handOver e
      let x := { s.die d with walks := x.walks }
      .next (s.setDie d { x with
        found := x.found ++ [⟨w.tile, asid, w.va, .inl e⟩]
        tlb2 := if w.keep then tlbHold x.tlb2 4096 e else x.tlb2 })
    | .fault k note =>
      let s := s.setDie d { x with found := x.found ++ [⟨w.tile, asid, w.va, .inr k⟩] }
      .next (s.walkNote (partyOf d) w.tile (((s.partAsid asid).map (·.1)).getD 64) note)

/-- A tile's walks and their answers dropped. -/
def State.forgetWalks (s : State) (n : Nat) : State :=
  s.modDie (dieOf n) fun x => { x with
    walks := x.walks.filter fun w => w.tile != n
    found := x.found.filter fun f => f.tile != n }

/-! ### Queue entries (11 R221) -/

/-- How an entry uses its translation. -/
def QKind.use : QKind → Use
  | .store _ => .write
  | .atom _ _ _ => .atomic
  | _ => .read

/-- An entry taken out of its queues. -/
def Tile.dropEnt (t : Tile) (id : Nat) : Tile :=
  { t with
    ents := t.ents.filter fun e => e.id != id
    laq := t.laq.filter (· != id)
    saq := t.saq.filter (· != id) }

def Tile.setTrans (t : Tile) (id : Nat) (r : Trans) : Tile :=
  { t with ents := t.ents.map fun e => if e.id = id then { e with tr := r } else e }

/-- ENTRY_TRANSLATE: one entry of a queue. A PF that fails is discarded and raises nothing. -/
def execEntryTranslate (tile : Nat) (store : Bool) (index : Nat) (s : State) : Out3 :=
  let n := tile % 256
  let t := s.tile n
  match ((if store then t.saq else t.laq)[index]?).bind t.ent with
  | none => .next s
  | some e =>
    if e.tr ≠ .pending then .next s
    else match e.kind with
      | .mark _ => .next s
      | k =>
        let (r, s) := s.translate n e.va k.use
        match r with
        | .miss => .next s
        | .ok pa => .next (s.modTile n fun t => t.setTrans e.id (.ok pa))
        | .fault f =>
          .next (s.modTile n fun t => if k = .pf then (t.dropEnt e.id).settle e.id else t.setTrans e.id (.faulted f))

end Sys2Proof.Machine
end

