-- ==== Sys2Proof/Machine/NetOps.lean ====
section
/-! DEFINITION. Packets between tiles and packages: where they go, what they record, and what becomes of a put or get
that fails (12 R252 to R256, 14 R307, R308, 20 R379). -/

namespace Sys2Proof.Machine

/-! ### Numbers (01 R14, 14 R307) -/

/-- The package's own number. -/
def State.own (s : State) : Nat := s.group.toNat * 512 + s.member.toNat

/-- Group and member of a package number. -/
def pkgGroup (p : Nat) : Nat := p / 512
def pkgMember (p : Nat) : Nat := p % 512

/-- The tile that a target word names, numbered as DTILE (12 R253, 14 R307). -/
def tgtTile (g : W64) : Nat := fld g 26 2 * 64 + fld g 28 4 * 4 + fld g 32 2
def State.tgtPkg (s : State) (g : W64) : Nat := if bitAt g 34 then s.own else fld g 0 26

/-- The fabric tag of a tile's partition (18 R335, R338). -/
def State.ptagOf (s : State) (t : Tile) : Nat :=
  match t.part with
  | some p => (s.partE p).ptag
  | none => 0

/-! ### Fields of a command (12 R253) -/

def Tm.len (c : Tm) : Nat := fld c.ctl 0 13
def Tm.laddr (c : Tm) : Nat := fld c.adr 0 22
def Tm.raddr (c : Tm) : Nat := fld c.adr 32 22
def Tm.scope (c : Tm) : Scope := scopeOf (fld c.ctl 34 3)
def Tm.acq (c : Tm) : Bool := bitAt c.ctl 32
def Tm.rel (c : Tm) : Bool := bitAt c.ctl 33

/-- CTL of the packet header: ACTR, CNE, BIDX, BCE (14 R307). -/
def Tm.hdrCtl (c : Tm) : Nat := fld c.ctl 16 11 + fld c.ctl 38 6 * 2 ^ 11 + fld c.ctl 37 1 * 2 ^ 17

def Tile.tm (t : Tile) (id : Nat) : Option Tm := t.tmq.find? fun c => c.id == id
def Tile.modTm (t : Tile) (id : Nat) (f : Tm → Tm) : Tile :=
  { t with tmq := t.tmq.map fun c => if c.id = id then f c else c }

/-! ### Sending (10 R194, R200) -/

/-- The path end or party that a packet uses, for the next fence's markers. -/
def usedEnd (d : Nat) (p : Pkt) : Nat := if p.dstP = partyOf d then p.dstE else 128 + p.dstP

def Tile.use (t : Tile) (e : Nat) : Tile := if t.used.contains e then t else { t with used := t.used ++ [e] }

/-- The party and path end that a packet goes to. -/
def State.netPkt (s : State) (id : Nat) (x : Net) : Pkt :=
  if x.dpkg = s.own then ⟨id, .net x, partyOf (dieOf x.dtile), endOf x.dtile⟩ else ⟨id, .net x, 5, portEnd⟩

/-- ADDR of PUTS and PUTX (20 R379). -/
def putAddr (x : Net) (here get : Bool) : Nat :=
  x.dpkg % 2 ^ 26 + x.dtile % 256 * 2 ^ 26 + (if here then 2 ^ 34 else 0) + if get then 2 ^ 35 else 0

/-- Whether the target of a word is held in the sense of 19 R365: a package that reports HELD, or a die of this one. -/
def State.heldTarget (s : State) (g : W64) : Bool :=
  if s.tgtPkg g = s.own then s.dieHeld (partyOf (dieOf (tgtTile g))) else s.fab.held.contains (s.tgtPkg g)

/-- Whether events made for the target bear HELD: a single tile may be held too. -/
def State.targetHeld (s : State) (g : W64) : Bool :=
  s.heldTarget g || (s.tgtPkg g == s.own && (s.tile (tgtTile g)).hold.isSome)

/-- An event of slot A's tensor-move unit at a tile, in a given cycle, about a target word. -/
def State.tmEvent (s : State) (n type cyc : Nat) (g : W64) (addr info : Nat) : State :=
  let held := s.targetHeld g
  s.modTile n fun t => { t with evs := t.evs ++ [(1, t.recordFor held 1 type cyc addr info)] }

/-- PUTS, written when a put or get is sent: its packet index and destination party, 7 when it stays on its die. It
bears the cycle of the word's issue, as the worked example of 20 R379 shows. -/
def State.putsEvent (s : State) (x : Net) (num party : Nat) : State :=
  if 1 < x.kind ∨ x.spkg ≠ s.own then s
  else match (s.tile x.stile).tm x.cmd with
    | some c => s.tmEvent x.stile 0x13 c.iss c.tgt (putAddr x (bitAt c.tgt 34) c.get)
        (c.len + num % 1024 * 2 ^ 13 + party * 2 ^ 23)
    | none => s

/-- Whether a packet is an answer: GETRS, CACK or PACK. -/
def Net.answers (x : Net) : Bool := x.kind == 2 || x.kind == 4 || x.kind == 10

/-- A packet sent from a tile; an answer of a held die bears the HELD mark (19 R365). -/
def State.route (s : State) (n : Nat) (x : Net) : State :=
  let (id, s) := s.newId
  let p := s.netPkt id { x with held := x.answers && s.dieHeld (partyOf (dieOf n)) }
  let d := dieOf n
  let s := (s.modTile n fun t => t.use (usedEnd d p)).launch d (endOf n) p
  if p.dstP = partyOf d then s.putsEvent x 0 7 else s

/-! ### The end of a command (12 R254, R255; 19 R364) -/

/-- A command of a tile's tensor-move unit ends: with code 0 it is done; otherwise it failed, which PUTX records and the
severity matrix hears of, as class 16, or as class 14 where it is only unconfirmed. -/
def State.tmEnd (s : State) (n id code : Nat) (x : Net) : State :=
  let t := s.tile n
  match t.tm id with
  | none => s
  | some c =>
    let s := s.setTile n { t with tmq := t.tmq.filter fun e => e.id != id }
    if code = 0 then s
    else
      let s := s.tmEvent n 0x15 (t.cyc - 1) c.tgt (putAddr { x with dpkg := s.tgtPkg c.tgt, dtile := tgtTile c.tgt }
        (bitAt c.tgt 34) c.get) code
      if code = 6 then s else s.report 16 10 n 1 0 code

/-- The answer to a put, from its target to its source: inside the package by command, and across it as a PACK (14 R308).
A get that fails inside the package is answered alike. -/
def State.answerPut (s : State) (n : Nat) (x : Net) (code : Nat) : State :=
  s.route n { Net.reset with
    kind := 10, tc := x.tc, dpkg := x.spkg, dtile := x.stile, spkg := s.own, stile := n, ptag := x.ptag
    ctl := if code = 0 then 0 else 2 ^ 18, rtag := x.rtag, cmd := x.cmd, code := code }

/-! ### RD (14 R307, R308; 19 R364) -/

/-- Whether the topology table names a package (12 R255, 14 R298). -/
def Fab.names (f : Fab) (p : Nat) : Bool := f.topo.any fun e => e.1 / 1024 == p || e.2 == p

/-- Whether packets for a package go out: it is named, and neither its group is marked unreachable nor the package itself has
timed out at every level (19 R364). -/
def Fab.goes (f : Fab) (p : Nat) : Bool := f.names p && !f.unreach.contains (pkgGroup p) && !f.dead.contains p

/-- Whether a tile is held, with its die or singly by HALT (19 R365, 05 R118). -/
def State.holdsTile (s : State) (n : Nat) : Bool := s.dieHeld (partyOf (dieOf n)) || (s.tile n).hold.isSome

/-- PUTX in a die ring: laid out as PUTS, with HERE as the source's command has it where the source is a tile of this package. -/
def State.putxDie (s : State) (p : Nat) (x : Net) (code : Nat) : State :=
  let here := x.spkg == s.own && ((s.tile x.stile).tm x.cmd).any fun c => bitAt c.tgt 34
  s.dieRecord p (s.partTagged x.ptag) (s.holdsTile x.dtile) 0x15 (putAddr x here (x.kind == 1)) code

/-- The PACK of a put of another package that has failed here (12 R254, 14 R308), with the HELD mark of its target's die (19 R365). -/
def State.failPack (s : State) (x : Net) (code : Nat) : Net :=
  { Net.reset with
    kind := 10, tc := x.tc, dpkg := x.spkg, dtile := x.stile, spkg := s.own, stile := x.dtile, ptag := x.ptag
    ctl := 2 ^ 18, rtag := x.rtag, code := code, held := s.dieHeld (partyOf (dieOf x.dtile)) }

/-- A put or get of another package that is lost here or turned away at a party's port: PUTX in the die ring of its target's base
die, or of RD where that is removed, and for a put the failing PACK, which RD returns. A get has no answer. -/
def State.failForeign (s : State) (x : Net) (code : Nat) : State :=
  let p := partyOf (dieOf x.dtile)
  let s := s.putxDie (if bitAt s.clkmask p then 5 else p) x code
  if x.kind = 0 ∧ !bitAt s.clkmask 5 ∧ s.fab.goes x.spkg then
    { s with fab := { s.fab with rdq := s.fab.rdq ++ [s.failPack x code] } }
  else s

/-- A put or get, or its answer, that will not arrive: lost, or turned away on its way with a code of PUTX. Of a
collective's packets, contributions are sent again by their timer and the others are not missed (14 R318). -/
def State.failNet (s : State) (x : Net) (code : Nat) : State :=
  match x.kind with
  | 0 | 1 => if x.spkg = s.own then s.tmEnd x.stile x.cmd code x else s.failForeign x code
  | 2 =>
    if x.dpkg = s.own then s.tmEnd x.dtile x.cmd code x
    else s.failForeign { x with kind := 1, dpkg := s.own, dtile := x.stile, spkg := x.dpkg, stile := x.dtile } code
  | 10 =>
    if x.dpkg ≠ s.own then s
    else if x.spkg = s.own then s.tmEnd x.dtile x.cmd x.code x
    else (s.reportAt 5 14 11 x.dtile 0).tmEnd x.dtile x.cmd 6 x
  | _ => s

/-- TSUSP in a party's ring: a timer for a package is suspended, at router level (1) or at group level (2) (19 R365). -/
def State.suspend (s : State) (p pkg level : Nat) : State := s.dieRecord p none true 0x27 (pkg % 2 ^ 26) level

/-- A packet that the causal domain delivers to RD: for another package, with a request tag where it is a put or a get, whose
timer is suspended at once where that package reports HELD; one that may not go there fails. -/
def State.rdTake (s : State) (x : Net) : State :=
  if s.fab.goes x.dpkg then
    let f := s.fab
    if x.kind ≤ 1 then
      let x := { x with rtag := f.rtag }
      let s := { s with fab := { f with
        rtag := (f.rtag + 1) % 2 ^ 32, rdq := f.rdq ++ [x], reqs := f.reqs ++ [⟨f.rtag, x⟩] } }
      if f.held.contains x.dpkg then s.suspend 5 x.dpkg 1 else s
    else { s with fab := { f with rdq := f.rdq ++ [x] } }
  else s.failNet x 7

/-! ### Error replies of a base die (19 R367) -/

/-- Whether a die takes packets for its tiles no more: dropped, or in a warm reset or drop whose tasks have left and whose L2 is
written back (19 R367 steps 1 to 3). -/
def State.dieGone (s : State) (d : Nat) : Bool :=
  let x := s.die d
  x.stat == 3 || (x.stat == 2 && match x.quies with
    | some (_, done, _) => done
    | none => true)

/-- A packet for a tile of a die that is gone, answered by its base die: a put or get fails with code 4. -/
def State.errorReply (s : State) (x : Net) : State :=
  if 1 < x.kind then s
  else if x.spkg = s.own then s.failNet x 4
  else
    let s := s.putxDie (partyOf (dieOf x.dtile)) x 4
    if x.kind = 0 then
      let (id, s) := s.newId
      s.atPort (partyOf (dieOf x.dtile)) 81 (s.netPkt id (s.failPack x 4))
    else s

end Sys2Proof.Machine
end

