-- ==== Sys2Proof/Machine/Coll.lean ====
section
/-! DEFINITION. Entries of the collective tile table: their image, their status, and the accumulate-on-write operations
(14 R315, R316, R323). -/

namespace Sys2Proof.Machine

def Tile.cent (t : Tile) (e : Nat) : CEnt := tget t.coll CEnt.reset e
def Tile.setCent (t : Tile) (e : Nat) (x : CEnt) : Tile := { t with coll := tset t.coll e x }
def Tile.modCent (t : Tile) (e : Nat) (f : CEnt → CEnt) : Tile := t.setCent e (f (t.cent e))

/-! ### The image (14 R315) -/

def imgField (img : List Byte) (o n : Nat) : Nat := fromLe ((img.drop o).take n)

def CEnt.fieldAt (x : CEnt) (o n : Nat) : Nat := imgField x.img o n
def CEnt.cid (x : CEnt) : Nat := x.fieldAt 0 2
def CEnt.step (x : CEnt) : Nat := x.fieldAt 2 1
def CEnt.op (x : CEnt) : Nat := x.fieldAt 3 1
def CEnt.npeer (x : CEnt) : Nat := x.fieldAt 4 1
def CEnt.nfin (x : CEnt) : Nat := x.fieldAt 5 1
def CEnt.rank (x : CEnt) : Nat := x.fieldAt 6 1
def CEnt.tc (x : CEnt) : Nat := x.fieldAt 7 1
def CEnt.source (x : CEnt) : Nat := x.fieldAt 8 4
def CEnt.nwords (x : CEnt) : Nat := x.fieldAt 12 4
def CEnt.res (x : CEnt) : Nat := x.fieldAt 16 4
def CEnt.expect (x : CEnt) : Nat := x.fieldAt 20 4
def CEnt.raddr (x : CEnt) : Nat := x.fieldAt 24 4
def CEnt.next (x : CEnt) : Nat := x.fieldAt 28 2
def CEnt.peer (x : CEnt) (j : Nat) : W64 := w64 (x.fieldAt (32 + 8 * j) 8)

/-- A barrier entry (21 R404). -/
def CEnt.isBarrier (x : CEnt) : Bool := x.nwords == 0 && x.expect == 0

/-- Packets of one contribution: up to 4,096 bytes each (14 R317). -/
def CEnt.packets (x : CEnt) : Nat := ceilDiv (4 * x.nwords) 4096

/-- The source range of a contribution packet: address and length. -/
def CEnt.piece (x : CEnt) (seq : Nat) : Nat × Nat := (x.source + 4096 * seq, min 4096 (4 * x.nwords - 4096 * seq))

/-! ### The status word (14 R323) -/

def CEnt.status (x : CEnt) : W64 :=
  let b (v : Bool) (i : Nat) : Nat := if v then 2 ^ i else 0
  w64 (min x.dups 65535 * 2 ^ 48 + min x.fins.length 8 * 2 ^ 40 + x.count % 2 ^ 21 * 2 ^ 16 + b x.nxerr 11 + b x.ovr 10 +
    b x.fail 9 + b x.abrx 8 + x.state % 4 * 2 ^ 6 + b x.fired 5 + b x.allfin 2 + b x.locl 1 + b x.srcreu 0)

/-! ### Accumulation (14 R316) -/

/-- The larger or smaller of two F32 values, as VMAX and VMIN take them (05 R121); a NaN gives the canonical NaN. -/
def pickF32 (mx : Bool) (a b : Nat) : Nat :=
  match minMax mx (decodeFp 4 a) (decodeFp 4 b) with
  | none => 0x7FC00000
  | some v => (writeFp 4 false .rne 0 v).bits

/-- The new word at an address from the old one and the contribution's. -/
def accumWord (op old c : Nat) : Nat :=
  match op with
  | 0 => c
  | 1 => (writeFp 4 false .rne 0 (XV.add false (decodeFp 4 old) (decodeFp 4 c))).bits
  | 2 =>
    let half (h : Nat) : Nat :=
      (writeFp 5 false .rne 0 (XV.add false (decodeFp 5 (old / 2 ^ (16 * h) % 2 ^ 16)) (decodeFp 5 (c / 2 ^ (16 * h) % 2 ^ 16)))).bits
    half 0 + half 1 * 2 ^ 16
  | 3 => pickF32 true old c
  | 4 => pickF32 false old c
  | 5 => old ||| c
  | 6 => if signed 32 old ≤ signed 32 c then c else old
  | _ => if signed 32 c ≤ signed 32 old then c else old

/-- A contribution's words applied from an address on. -/
def Tile.accumulate (t : Tile) (op a : Nat) (l : List Byte) : Tile :=
  let old := readBytes t.spad a l.length
  let new := (List.range (l.length / 4)).flatMap fun i =>
    leBytes 4 (accumWord op (fromLe ((old.drop (4 * i)).take 4)) (fromLe ((l.drop (4 * i)).take 4)))
  { t with spad := writeBytes t.spad a new }

end Sys2Proof.Machine
end

