-- ==== Sys2Proof/Machine/Flits.lean ====
section
/-! DEFINITION. Flits and packet headers as bytes, and what a port sends (14 R299 to R301, R304, R307). -/

namespace Sys2Proof.Machine

/-! ### Flits (14 R299, R300) -/

/-- TYPE of a flit. -/
def tyHead : Nat := 1
def tyData : Nat := 2
def tyAckf : Nat := 3
def tyRshreq : Nat := 4
def tyRshack : Nat := 5
def tyRetry : Nat := 6
def tyCredit : Nat := 7

def sequenced (ty : Nat) : Bool := ty == 1 || ty == 2 || ty == 7

def padTo (n : Nat) (l : List Byte) : List Byte := l.take n ++ List.replicate (n - l.length) 0

/-- The 72 bytes of a flit. -/
def Flit.bytes (f : Flit) : List Byte :=
  let w := f.seq.toNat + f.type % 16 * 2 ^ 12 + f.ack.toNat * 2 ^ 16 + (if f.ackv then 2 ^ 28 else 0) + if f.last then 2 ^ 29 else 0
  let b := leBytes 4 w ++ padTo 64 f.pay
  b ++ leBytes 4 (crc32 b).toNat

/-- A flit read from 72 bytes. -/
def Flit.ofBytes (l : List Byte) : Flit :=
  let w := fromLe (l.take 4)
  { type := w / 2 ^ 12 % 16, seq := BitVec.ofNat 12 w, ack := BitVec.ofNat 12 (w / 2 ^ 16)
    ackv := w / 2 ^ 28 % 2 == 1, last := w / 2 ^ 29 % 2 == 1, pay := (l.drop 4).take 64
    good := w / 2 ^ 30 % 4 == 0 && fromLe ((l.drop 68).take 4) == (crc32 (l.take 68)).toNat }

/-! ### Lanes (14 R301) -/

/-- The lanes of a mask in increasing order. -/
def laneList (m : BitVec 8) : List Nat := (List.range 8).filter fun i => m.getLsbD i

/-- A flit striped over lanes: byte i on active index i mod N in byte-time i div N; a lane that has no byte in the last byte-time
sends a fill symbol. -/
def stripe (m : BitVec 8) (l : List Byte) : Wire :=
  let n := (laneList m).length
  (laneList m).zipIdx.map fun p => (p.1, (List.range (ceilDiv l.length n)).map fun t => l[p.2 + n * t]?)

/-- A flit sent whole: all its bytes on every lane. -/
def wholeOn (m : BitVec 8) (l : List Byte) : Wire := (laneList m).map fun i => (i, l.map some)

/-- The byte that a lane brings in a byte-time; one that does not come reads as zero, which the CRC finds. -/
def Wire.byteAt (w : Wire) (lane t : Nat) : Byte :=
  ((w.find? fun p => p.1 == lane).bind fun p => (p.2[t]?).join).getD 0

/-- The 72 bytes of a flit taken from the active lanes. -/
def Wire.unstripe (w : Wire) (m : BitVec 8) : List Byte :=
  let l := laneList m
  (List.range 72).map fun i => w.byteAt (l.getD (i % l.length) 8) (i / l.length)

/-- The first copy of a reshape flit whose CRC passes. -/
def Wire.whole? (w : Wire) : Option Flit :=
  w.findSome? fun p =>
    let f := Flit.ofBytes (p.2.filterMap id)
    if p.2.length = 72 && f.good && (f.type == tyRshreq || f.type == tyRshack) then some f else none

/-- The flit that a receiver with some active lanes reads. -/
def Wire.flit (w : Wire) (m : BitVec 8) : Flit := (w.whole?).getD (Flit.ofBytes (w.unstripe m))

/-! ### Packet headers (14 R307) -/

/-- Header bytes 0 to 59. A packet in transit keeps its LEN. -/
def Net.head (x : Net) : List Byte :=
  leBytes 1 x.kind ++ leBytes 1 (x.tc % 8 + x.vc % 4 * 8 + if x.down then 32 else 0) ++ leBytes 2 (x.len.getD x.data.length) ++
    leBytes 4 (x.dpkg % 2 ^ 26) ++ leBytes 4 (x.spkg % 2 ^ 26) ++ leBytes 2 (x.dtile % 256) ++ leBytes 2 (x.stile % 256) ++
    leBytes 4 (x.daddr % 2 ^ 22) ++ leBytes 4 (x.saddr % 2 ^ 22) ++ leBytes 4 (x.ctl % 2 ^ 19) ++ leBytes 2 x.ptag ++
    leBytes 2 x.hops ++ leBytes 4 (match x.igrp with
      | some g => g % 2 ^ 17 + 2 ^ 31
      | none => 0) ++ leBytes 2 x.tree ++ leBytes 2 0 ++
    leBytes 8 (if 3 ≤ x.kind ∧ x.kind ≤ 7 then
        x.cid % 2 ^ 16 + x.step % 256 * 2 ^ 16 + x.src % 256 * 2 ^ 24 + x.seq % 64 * 2 ^ 32
      else if x.kind ≤ 2 ∨ x.kind = 10 then x.rtag % 2 ^ 32 else 0) ++
    leBytes 4 (x.ent % 256 + x.op % 8 * 256) ++ leBytes 8 0

/-- The bytes that ECRC covers: those that no router rewrites, then the data. -/
def ecrcOver (h data : List Byte) : List Byte :=
  h.take 1 ++ ((h.drop 1).take 1).map (· &&& 7) ++ (h.drop 2).take 28 ++ (h.drop 40).take 20 ++ data

/-- The 64 bytes of a header: routers rewrite no byte that ECRC covers, so a packet in transit keeps its ECRC. -/
def Net.header (x : Net) : List Byte := x.head ++ leBytes 4 (x.ecrc.getD (crc32 (ecrcOver x.head x.data)).toNat)

/-- A packet read from its header and data; none where KIND or a zero field is out of range. -/
def Net.ofBytes (h data : List Byte) : Option Net :=
  let at_ (o n : Nat) : Nat := fromLe ((h.drop o).take n)
  let kind := at_ 0 1
  let ch := at_ 1 1
  let tag := at_ 40 8
  let coll := decide (3 ≤ kind) && decide (kind ≤ 7)
  let bad := decide (10 < kind) || decide (64 ≤ ch) || ch / 8 % 4 == 3 || decide (4096 < at_ 2 2) ||
    decide (2 ^ 26 ≤ at_ 4 4) || decide (2 ^ 26 ≤ at_ 8 4) || decide (256 ≤ at_ 12 2) || decide (256 ≤ at_ 14 2) ||
    decide (2 ^ 22 ≤ at_ 16 4) || decide (2 ^ 22 ≤ at_ 20 4) || decide (2 ^ 19 ≤ at_ 24 4) ||
    (at_ 24 4 / 2 ^ 18 % 2 == 1 && kind != 10) || at_ 32 4 / 2 ^ 17 % 2 ^ 14 != 0 || at_ 38 2 != 0 ||
    (if coll then decide (2 ^ 38 ≤ tag) else if kind ≤ 2 ∨ kind = 10 then decide (2 ^ 32 ≤ tag) else tag != 0) ||
    decide (2 ^ 11 ≤ at_ 48 4) || at_ 52 8 != 0
  if bad then none
  else some { Net.reset with
    kind := kind, tc := ch % 8, vc := ch / 8 % 4, down := ch / 32 % 2 == 1
    dpkg := at_ 4 4, spkg := at_ 8 4, dtile := at_ 12 2, stile := at_ 14 2, daddr := at_ 16 4, saddr := at_ 20 4
    ctl := at_ 24 4, ptag := at_ 28 2, hops := at_ 30 2
    igrp := if at_ 32 4 / 2 ^ 31 = 1 then some (at_ 32 4 % 2 ^ 17) else none
    tree := at_ 36 2
    rtag := if coll then 0 else tag
    cid := if coll then tag % 2 ^ 16 else 0, step := if coll then tag / 2 ^ 16 % 256 else 0
    src := if coll then tag / 2 ^ 24 % 256 else 0, seq := if coll then tag / 2 ^ 32 % 64 else 0
    ent := at_ 48 4 % 256, op := at_ 48 4 / 256 % 8
    data := data.take (at_ 2 2) }

/-- Whether a packet's ECRC passes. -/
def ecrcOk (h data : List Byte) : Bool :=
  fromLe ((h.drop 60).take 4) == (crc32 (ecrcOver h (data.take (fromLe ((h.drop 2).take 2))))).toNat

/-! ### Sending at a port (14 R304) -/

def State.port (s : State) (p : Nat) : Port := tget s.ports Port.reset p
def State.setPort (s : State) (p : Nat) (x : Port) : State := { s with ports := tset s.ports p x }

/-- A flit of the port with its acknowledgement. -/
def Port.stamp (x : Port) (f : Flit) : Flit := { f with ack := x.exp - 1, ackv := true }

/-- A flit of the port put on its active lanes. -/
def Port.send (x : Port) (f : Flit) : Port := { x with out := x.out ++ [stripe x.act (x.stamp f).bytes], since := 0 }

/-- A flit without a sequence number, and one that is sent whole on each lane of a mask. -/
def plainFlit (ty : Nat) (pay : List Byte) : Flit := ⟨ty, 0, 0, true, false, pay, true⟩
def Port.sendPlain (x : Port) (ty : Nat) (pay : List Byte) : Port := x.send (plainFlit ty pay)
def Port.sendWhole (x : Port) (m : BitVec 8) (ty : Nat) (pay : List Byte) : Port :=
  { x with out := x.out ++ [wholeOn m (x.stamp (plainFlit ty pay)).bytes], since := 0 }

/-- A sequenced flit: it takes the next number and stays in the replay buffer. An initiator sends none until its reshape is over,
which sends the replay buffer (14 R305). -/
def Port.sendSeq (x : Port) (ty : Nat) (last : Bool) (pay : List Byte) : Port :=
  let f : Flit := ⟨ty, x.nseq, 0, true, last, pay, true⟩
  let y : Port := { x with nseq := x.nseq + 1, replay := x.replay ++ [f] }
  if x.ini.isSome then y else y.send f

/-- The flits of a packet's data, the last of them marked. -/
def Port.sendData (x : Port) : Nat → List Byte → Port
  | 0, _ => x
  | n + 1, l => (x.sendSeq tyData (n == 0) (l.take 64)).sendData n (l.drop 64)

/-- How many flits a packet takes. -/
def Net.flits (x : Net) : Nat := 1 + ceilDiv x.data.length 64

/-- A packet's virtual channel at a port: 3 TC + VC. -/
def chanOf (tc vc : Nat) : Nat := tc % 8 * 3 + vc % 3
def Net.chan (x : Net) : Nat := chanOf x.tc x.vc

/-- A packet sent whole at a port, its flits one after another, in the room that the next hop has for it (14 R309). -/
def Port.sendNet (x : Port) (n : Net) : Port :=
  let k := ceilDiv n.data.length 64
  let y := (x.sendSeq tyHead (k == 0) n.header).sendData k n.data
  { y with pkts := y.pkts ++ [(y.nseq - 1, n)], room := vset y.room n.chan (vget y.room n.chan - n.flits) }

/-- Whether a port takes a packet now: up, in no reshape that it has begun, with room in its replay buffer and in the packet's
channel at the next hop. -/
def Port.takes (x : Port) (n : Net) : Bool :=
  x.up && x.ini.isNone && decide (x.replay.length + n.flits ≤ 256) && decide (n.flits ≤ vget x.room n.chan)

/-- PCTL written (14 R314). -/
def setPctl (v : W64) (x : Port) : Port := { x with symth := fld v 0 8, rrth := fld v 8 16 }

/-- PCTL of one port or of every port. -/
def State.putPctl (s : State) (p : Nat) (v : W64) : State :=
  let one (s : State) (p : Nat) : State := s.setPort p (setPctl v (s.port p))
  if p = 0x3FF then (List.range 576).foldl one s else one s p

/-- Whether RD neither sends nor takes a packet: it is viral (19 R361), or has been removed, which cuts the package off from the
fabric (12 R250). -/
def State.cutOff (s : State) : Bool := (s.party 5).viral || bitAt s.clkmask 5

/-- The package that a port leads to, by the topology table (14 R298). -/
def State.peerOf (s : State) (p : Nat) : Option Nat :=
  (s.fab.topo.find? fun e => e.1 == 1024 * s.own + p).map (·.2)

end Sys2Proof.Machine
end

