-- ==== Sys2Proof/Machine/Journal.lean ====
section
/-! DEFINITION. The command journal, launch records as bytes, pinned translations, and completion records (13 R263 to R267,
R275; 18 R349; 19 R370 to R372). -/

namespace Sys2Proof.Machine

/-! ### The journal (19 R370, R371) -/

def journalBase : Nat := 0xBEFC00000

/-- Whether bytes touch the journal's 4 MiB, which CD alone writes. -/
def inJournal (pa n : Nat) : Bool := decide (pa < journalBase + 0x400000) && decide (journalBase < pa + n)

/-- States of an entry. -/
def jAccepted : Nat := 1
def jStarted : Nat := 2
def jDone : Nat := 3
def jFailed : Nat := 4
def jRejected : Nat := 5

def noRec : Nat := 0xFFFF
def noQueue : Nat := 0xFFFF

/-- The bytes of an entry. -/
def journalBytes (jseq queue state cmd rcd qseq cyc ref detail : Nat) : List Byte :=
  let l := leBytes 8 jseq ++ leBytes 2 queue ++ leBytes 1 state ++ leBytes 1 cmd ++ leBytes 2 rcd ++ leBytes 2 0 ++
    leBytes 8 qseq ++ leBytes 8 cyc ++ leBytes 8 ref ++ leBytes 8 detail ++ leBytes 12 0
  l ++ leBytes 4 (crc32 l).toNat

/-! ### Launch records (13 R264, R265) -/

def recFree : Nat := 0
def recBuilt : Nat := 1
def recArmed : Nat := 2
def recReady : Nat := 3
def recRunning : Nat := 4
def recDone : Nat := 5
def recPoisoned : Nat := 6

/-- A field of a record, by its offset and size. -/
def State.recAt (s : State) (r off n : Nat) : Nat := readLe s.recs (256 * r + off) n
def State.setRec (s : State) (r off n v : Nat) : State := { s with recs := writeLe s.recs (256 * r + off) n v }

def State.recState (s : State) (r : Nat) : Nat := s.recAt r 0 1 % 8
def State.recPrio (s : State) (r : Nat) : Nat := s.recAt r 0 1 / 8 % 8
def State.recPin (s : State) (r : Nat) : Bool := s.recAt r 0 1 / 64 % 2 == 1
def State.recStages (s : State) (r : Nat) : Nat := s.recAt r 1 1 % 16
def State.recQuads (s : State) (r : Nat) : Nat := s.recAt r 2 1
def State.recPart (s : State) (r : Nat) : Nat := s.recAt r 3 1 % 64

/-! ### Entries written -/

/-- An entry written: JSEQ rises by one, and CD's local cycle count has gone on by a free amount (log 7). Whose record it names is told
as it is written (log 64). The ring is lost with H0's base die (12 R250). -/
def State.journal (s : State) (queue state cmd rcd qseq ref detail : Nat) : State :=
  let (k, s) := s.freeNat
  let c := (s.party 0).cyc + k
  let s := s.partyCycles 0 k
  let j := s.jseq + 1
  { s with
    jseq := j
    jown := tset s.jown (j % 65536) (if rcd = noRec then 0 else s.recPart rcd + 1)
    dmem := if s.lostAt journalBase then s.dmem
      else writeBytes s.dmem (journalBase + j % 65536 * 64) (journalBytes j queue state cmd rcd qseq c ref detail) }

/-- An entry that the device originates. -/
def State.journalDev (s : State) (state rcd ref detail : Nat) : State := s.journal noQueue state 0 rcd 0 ref detail

def State.recPred (s : State) (r : Nat) : Nat := s.recAt r 4 2
def State.recSuccs (s : State) (r : Nat) : List Nat :=
  (List.range (min 8 (s.recAt r 1 1 / 16))).map fun i => s.recAt r (96 + 2 * i) 2

def State.setRecState (s : State) (r st : Nat) : State := s.setRec r 0 1 (s.recAt r 0 1 / 8 * 8 + st)

/-- An operand entry: DIR, FMT, LEN in bytes, scratchpad address, global address. -/
structure Opnd where
  dir : Nat
  fmt : Nat
  len : Nat
  sad : Nat
  gad : Nat
  deriving DecidableEq, Repr

def opndOf (v : Nat) : Opnd :=
  ⟨v / 2 ^ 94 % 4, v / 2 ^ 90 % 16, v / 2 ^ 73 % 2 ^ 17 * 4, v / 2 ^ 53 % 2 ^ 20 * 4, v % 2 ^ 53 * 8⟩

/-- The operands in use. -/
def State.opnds (s : State) (r : Nat) : List Opnd :=
  ((List.range 12).map fun i => opndOf (s.recAt r (112 + 12 * i) 12)).filter fun o => o.dir != 0

def Opnd.isIn (o : Opnd) : Bool := o.dir % 2 == 1
def Opnd.isOut (o : Opnd) : Bool := decide (2 ≤ o.dir)

def State.rinf (s : State) (r : Nat) : RInfo := tget s.rinfo RInfo.reset r
def State.setRinf (s : State) (r : Nat) (x : RInfo) : State := { s with rinfo := tset s.rinfo r x }

/-! ### Pinned translations (18 R349) -/

/-- The leaf of a page that may be pinned: with V, and for what the device writes with W; no page of image, frames or CREC is
migratable, and no operand's page is the host's. -/
def pinLeaf (s : State) (asid : Nat) (va : Nat) (writes operand : Bool) : Except WalkNote TlbE :=
  match s.walk asid va with
  | .leaf e =>
    let migOk := if operand then !bitAt e.leaf 4 else !bitAt e.leaf 5
    if migOk && (!writes || bitAt e.leaf 2) && decide (va < 2 ^ 56) then .ok e else .error none
  | .fault _ note => .error note

/-- The pins of every 64 KiB page of a range added; where one cannot be pinned, what its walk met. -/
def pinRange (s : State) (asid : Nat) (writes operand : Bool) : Nat → Nat → List TlbE → Except WalkNote (List TlbE)
  | 0, _, pins => .ok pins
  | n + 1, page, pins =>
    match pinLeaf s asid (page * 65536) writes operand with
    | .ok e => pinRange s asid writes operand n (page + 1) (if pins.contains e then pins else pins ++ [e])
    | .error w => .error w

/-- The first page of a range and how many pages it touches. -/
def pagesOf (va len : Nat) : Nat × Nat := (va / 65536, if len = 0 then 0 else (va + len - 1) / 65536 - va / 65536 + 1)

/-- The pinned translation of an address, and the physical address that it gives. -/
def pinEnt (pins : List TlbE) (va : Nat) : Option TlbE := pins.find? fun e => e.va ≤ va && va < e.va + e.size
def TlbE.at_ (e : TlbE) (va : Nat) : Nat := fld e.leaf 12 40 * 4096 + va % e.size
def pinPa (pins : List TlbE) (va : Nat) : Option Nat := (pinEnt pins va).map (·.at_ va)

/-- Whether an access of CD through a pinned translation is taken: in the device where its home has not been removed (12 R250); at
the host where its IOMMU takes it from the function of the partition (18 R338, R351). -/
def State.pinTakes (s : State) (e : TlbE) (pa : Nat) : Bool :=
  if pa < hostBase then !s.lostAt pa else s.hostTakes (s.vfAsid e.asid) pa

/-- The class and source of the error of a place that CD cannot read or write: a host access refused, an access lost with a removed
home, or poison consumed by the dispatcher (12 R248; 19 R354, R356). -/
def State.lossOf (s : State) (pa : Nat) : Nat × Nat :=
  if hostBase ≤ pa then (26, 14) else if s.lostAt pa then (8, 9) else (5, 13)

/-- An access of CD for a partition that is not taken at an address. -/
def State.refused (s : State) (asid pa : Nat) : State :=
  let (cls, source) := s.lossOf pa
  match s.partAsid asid with
  | some p => s.reportPkt cls source (unitParty 0) p.2.ptag
  | none => s.report cls source (unitParty 0) 0 0 0

/-- Bytes of memory read or written in one pass. -/
def State.readBulk (s : State) (pa n : Nat) : List Byte :=
  if hostBase ≤ pa then readRange s.hmem (pa - hostBase) n else readRange s.dmem pa n
def State.writeBulk (s : State) (pa : Nat) (l : List Byte) : State :=
  if hostBase ≤ pa then { s with hmem := writeRange s.hmem (pa - hostBase) l } else { s with dmem := writeRange s.dmem pa l }

/-- Bytes read through pinned translations, page by page; a page without one, or that is lost or that the host refuses, reads as zeros. -/
def State.pinRead (s : State) (pins : List TlbE) : Nat → Nat → Nat → List Byte
  | 0, _, _ => []
  | k + 1, va, n =>
    if n = 0 then []
    else
      let m := min n (65536 - va % 65536)
      (match (pinEnt pins va).filter fun e => s.pinTakes e (e.at_ va) with
        | some e => s.readBulk (e.at_ va) m
        | none => List.replicate m 0) ++ s.pinRead pins k (va + m) (n - m)

def State.pinned (s : State) (pins : List TlbE) (va n : Nat) : List Byte := s.pinRead pins (n / 65536 + 2) va n

/-- The sectors from an address on poisoned at their home (19 R360). -/
def State.taint (s : State) (pa n : Nat) : State :=
  { s with poison := (List.range n).foldl (fun l i => if l.contains (pa / 32 + i) then l else l ++ [pa / 32 + i]) s.poison }

/-- Dirty lines of a die's L2 written back. Whether one can be is free; one that cannot has its four sectors poisoned at their
home, as class 2 (19 R360, R375). -/
def State.writeLines (s : State) (d : Nat) (l : List Nat) : State :=
  l.foldl (fun s line =>
    let (fails, s) := s.freeBool
    if fails then (s.taint (line * 128) 4).report 2 3 (unitParty (partyOf d)) 0 (line * 128) 0 else s) s

/-- A place in bytes read through pinned translations that is poisoned or lost, or that the host refuses, page by page. -/
def State.pinPoison (s : State) (pins : List TlbE) : Nat → Nat → Nat → Option Nat
  | 0, _, _ => none
  | k + 1, va, n =>
    if n = 0 then none
    else
      let m := min n (65536 - va % 65536)
      match (pinEnt pins va).filter fun e => s.poisoned (e.at_ va) m || !s.pinTakes e (e.at_ va) with
      | some e => some (e.at_ va)
      | none => s.pinPoison pins k (va + m) (n - m)

def State.tainted (s : State) (pins : List TlbE) (va n : Nat) : Option Nat := s.pinPoison pins (n / 65536 + 2) va n

/-- A write of a whole sector clears its poison (19 R360). -/
def State.cure (s : State) (pa n : Nat) : State :=
  { s with poison := s.poison.filter fun q => !(pa ≤ q * 32 && q * 32 + 32 ≤ pa + n) }

/-- Bytes written at a home. -/
def State.homeWrite (s : State) (pa : Nat) (l : List Byte) : State := (s.writePa pa l).cure pa l.length

/-- Bytes written through pinned translations, page by page. A viral CD writes nothing to host memory (19 R361), and a page
that is lost, or that the host refuses, is not written. -/
def State.pinWrite (s : State) (pins : List TlbE) : Nat → Nat → List Byte → State
  | 0, _, _ => s
  | k + 1, va, l =>
    if l.isEmpty then s
    else
      let m := 65536 - va % 65536
      let s := match pinEnt pins va with
        | some e =>
          let pa := e.at_ va
          if hostBase ≤ pa && (s.party 0).viral then s
          else if s.pinTakes e pa then (s.writeBulk pa (l.take m)).cure pa (min m l.length)
          else s.refused e.asid pa
        | none => s
      s.pinWrite pins k (va + m) (l.drop m)

def State.pinStore (s : State) (pins : List TlbE) (va : Nat) (l : List Byte) : State :=
  s.pinWrite pins (l.length / 65536 + 2) va l

/-! ### Completion records (13 R275) -/

def completionBytes (r status ndisp jseq : Nat) (trapc trapv : W64) : List Byte :=
  leBytes 2 r ++ leBytes 1 status ++ leBytes 1 0 ++ leBytes 2 ndisp ++ leBytes 2 0 ++ leBytes 8 jseq ++
    leBytes 8 trapc.toNat ++ leBytes 8 trapv.toNat

/-- The completion record of an outcome, through the pin of its page, or where none was made, through a translation that
could be pinned (log 51). -/
def State.complete (s : State) (r status : Nat) (trapc trapv : W64) : State :=
  let va := s.recAt r 24 8
  let put (s : State) (pins : List TlbE) : State :=
    s.pinStore pins va (completionBytes r status (s.rinf r).ndisp s.jseq trapc trapv)
  match pinPa (s.rinf r).pins va with
  | some _ => put s (s.rinf r).pins
  | none =>
    match pinLeaf s (s.partE (s.recPart r)).asid va true false with
    | .ok e => put s [e]
    | .error w => s.walkNote 0 (unitParty 0) (s.recPart r) w

end Sys2Proof.Machine
end

