-- ==== Sys2Proof/Machine/Viral.lean ====
section
/-! DEFINITION. The freezing of the recorder rings and the viral move of a party (19 R361, 20 R380 to R382). -/

namespace Sys2Proof.Machine

/-! ### Freezing a ring (20 R380, R382) -/

/-- A FREEZE or FREEZES record: FIRST, BYSB, GEN and a row of six counts. -/
def freezeRecord (type cyc : Nat) (first bysb : Bool) (gen : BitVec 2) (row : List (BitVec 10)) : BitVec 128 :=
  let f := (row.zipIdx.foldl (fun n p => n + p.1.toNat * 2 ^ (10 * p.2)) 0) % 2 ^ 60 + gen.toNat * 2 ^ 60 +
    (if bysb then 2 ^ 62 else 0) + if first then 2 ^ 63 else 0
  BitVec.ofNat 128 (type % 64 * 2 ^ 122 + cyc % 2 ^ 32 * 2 ^ 78 + f)

/-- A ring frozen in a cycle: every event accepted is written, with the GAP of those lost, then the records given, and nothing
more. -/
def Ring.freeze (r : Ring) (size cyc : Nat) (recs : List (BitVec 128)) : Ring :=
  if r.frozen then r
  else
    let r := r.drain size r.queue.length
    let recs := if r.gap = 0 then recs else r.gapRecord cyc :: recs
    let ents := r.ents ++ recs
    { r with ents := ents.drop (ents.length - size), total := r.total + recs.length, gap := 0, frozen := true }

def State.freezeRing (s : State) (n cyc : Nat) (recs : List (BitVec 128)) : State :=
  { s with rings := tset s.rings n ((tget s.rings Ring.reset n).freeze (ringSize n) cyc recs) }

/-- A tile's ring frozen in a cycle, after all that the cycle records, EXCESS of the barriers that fire at its end among it (20
R378, R380, R394). -/
def State.freezeTileRing (s : State) (n cyc : Nat) (e : BitVec 128) : State :=
  ((s.modTile n fun t => t.fireAll cyc).flushEvents n cyc).freezeRing n cyc [e]

/-- DLV of a party, and row j of its own sends. -/
def Party.dlvRow (p : Party) : List (BitVec 10) := p.dlv.toList
def Party.sentRow (p : Party) (a : Nat) : List (BitVec 10) := (List.range 6).map fun j => p.m.get (Fin.ofNat 36 (6 * a + j))

/-- A party's die ring frozen, with FREEZE and FREEZES. -/
def State.freezeParty (s : State) (a : Nat) (first bysb : Bool) : State :=
  let p := s.party a
  s.freezeRing (dieRing a) p.cyc
    [freezeRecord 0x30 p.cyc first bysb p.gen p.dlvRow, freezeRecord 0x31 p.cyc first bysb p.gen (p.sentRow a)]

/-! ### What a kill or a stop discards on a tile (19 R357, R361) -/

/-- Whether a command of the tensor-move unit has begun: its source is being read, or has been. -/
def Tm.begun (c : Tm) : Bool :=
  !c.data.isEmpty || match c.coll with
    | some (_, _, k) => k != 0
    | none => c.lvl != 0

/-- What a kill discards on a tile: commands and entries that have not begun. No slot issues again. A contribution that has begun
is sent to its end, and awaits its CACKs. -/
def Tile.kill (t : Tile) : Tile :=
  { t with
    killed := true, hold := none, fence := none
    led := t.led.filter fun e => !t.ents.any fun q => q.id == e.id
    ents := [], laq := [], saq := []
    lq := t.lq.filter fun e => !t.ents.any fun q => q.id == e.id
    tmq := t.tmq.filter Tm.begun
    async := if t.boot.isSome then t.async.filter fun w => match w.w with
        | .stage _ _ _ => false
        | _ => true
      else t.async
    boot := none
    chain := { t.chain with
      win := []
      walk := t.chain.walk.filter fun w => w.asked } }

/-! ### The viral move (19 R361) -/

/-- The tiles of a stage stopped as in a kill, without a trap and without a save. A debugger's hold of the die ends (19 R365). -/
def State.stopStage (s : State) (d : Nat) : State :=
  let s := if (s.die d).stat = 1 then s.modDie d fun x => { x with stat := s.served d } else s
  { s with tiles := s.tiles.map fun e => if dieOf e.1 = d then (e.1, e.2.kill) else e }

/-- A freeze packet sent down from a base die's party port to each of its tiles. A tile's ring is frozen by that packet, whatever
moved the party: BYSB is the party's own (20 R380, R386). -/
def State.freezeDown (s : State) (d : Nat) : Nat → State
  | 0 => s
  | n + 1 =>
    let s := s.freezeDown d n
    let p := s.party (partyOf d)
    let (id, s) := s.newId
    s.path d portEnd n ⟨id, .freeze false false p.gen p.dlvRow, partyOf d, n⟩

/-- A viral notice sent by a party to each other one. -/
def State.notices (s : State) (a : Nat) : State :=
  (List.range 6).foldl (fun s b =>
    if b = a ∨ bitAt s.clkmask b then s
    else
      let (id, s) := s.newId
      s.atPort a 82 ⟨id, .notice, b, portEnd⟩) s

/-- RD's viral notice to a package, as an FMGR packet of TC0 (14 R308); it crosses one link. -/
def State.noticeNet (s : State) (q : Nat) : Net := { Net.reset with kind := 9, dpkg := q, spkg := s.own, hops := 1 }

/-- RD's viral notice on a live port: at once where the port takes it, or once it does (14 R304). -/
def State.noticePort (s : State) (p : Nat) : State :=
  match s.peerOf p with
  | some q =>
    if (s.port p).takes (s.noticeNet q) then
      { s.setPort p ((s.port p).sendNet (s.noticeNet q)) with fab := { s.fab with notes := s.fab.notes.filter (· != p) } }
    else if s.fab.notes.contains p then s
    else { s with fab := { s.fab with notes := s.fab.notes ++ [p] } }
  | none => s

def State.portNotices (s : State) : State :=
  s.ports.foldl (fun s e => if e.2.up then s.noticePort e.1 else s) s

/-- The viral move of a party, at a notice or at the sideband, or as the first: its ring freezes, its notices go, and its
stage's tiles, the ports or the host side stop. A hold ends. -/
def State.viralMove (s : State) (a : Nat) (bysb : Bool) : State :=
  let p := s.party a
  if p.viral then s
  else
    let s := s.freezeParty a false bysb
    let s := s.modParty a fun p => { p with viral := true, bysb := bysb, out := [] }
    let s := s.notices a
    if a = 0 then
      { s with
        irqs := s.irqs ++ [(0, 2)]
        viral := s.viral.map fun v => { v with cyc := p.cyc, jhead := s.jseq }
        nv := { s.nv with jhead := s.jseq } }
    else if a = 5 then s.portNotices
    else
      let s := s.stopStage (a - 1)
      if (s.die (a - 1)).stat = 2 ∨ (s.die (a - 1)).stat = 3 then s else s.freezeDown (a - 1) 64

/-- The first party to detect a fatal error, with its ring FIRST to freeze. A tile sends a freeze packet to its base die, which
then moves, and what the tile records of the cycle comes before FREEZE (20 R380, R388). A later fatal error makes the party that
detects it move, if it has not. -/
def State.goViral (s : State) (cls src act unit : Nat) : State :=
  match s.viral with
  | some v =>
    let p := if unit < 256 then partyOf (dieOf unit) else unit % 256 % 6
    if p = v.party then s else s.viralMove p false
  | none =>
  if unit < 256 then
    let d := dieOf unit
    let gen := (s.party (partyOf d)).gen
    let s := { s with viral := some ⟨cls, src, act, partyOf d, unit, 0, 0, false⟩ }
    let t := s.tile unit
    let c := t.cyc - 1
    let s := (s.freezeTileRing unit c (freezeRecord 0x30 c true false gen [])).modTile unit Tile.kill
    let (id, s) := s.newId
    s.path d (endOf unit) portEnd ⟨id, .freeze true false gen [], partyOf d, portEnd⟩
  else
    let a := unit % 256 % 6
    (({ s with viral := some ⟨cls, src, act, a, 0x8000 + a, 0, 0, false⟩ } : State).freezeParty a true false).viralMove a false

end Sys2Proof.Machine
end

