-- ==== Sys2Proof/Machine/Moves.lean ====
section
/-! DEFINITION. The moves of the abstract machine on loads, stores, far atomics and their packets: DEQ, HOP, SEND,
PACKET_ARRIVE, DELIVER, PERFORM, RETURN and their like (10 R188 to R197, R405; 12 R241 to R248). -/

namespace Sys2Proof.Machine

/-! ### DEQ (10 R190 to R193, R203, R204) -/

/-- Whether two accesses share a byte: by effective address, or by physical address where both are known. -/
def overlaps (a b : QEnt) : Bool :=
  let wa := entryWidth a.kind
  let wb := entryWidth b.kind
  let meet (x y : Nat) : Bool := decide (x < y + wb) && decide (y < x + wa)
  meet a.va.toNat b.va.toNat ||
    match a.tr, b.tr with
    | .ok x, .ok y => meet x y
    | _, _ => false

/-- Whether an alias class binds two accesses that overlap (10 R191). -/
def bound (a b : QEnt) : Bool := (a.cls == b.cls || a.cls == 0 || b.cls == 0) && overlaps a b

def QKind.isMark : QKind → Bool
  | .mark _ => true
  | _ => false

def QKind.isLoad : QKind → Bool
  | .load _ _ => true
  | _ => false

/-- Whether a marker ahead of an entry lets it leave. -/
def Tile.passes (t : Tile) (m e : QEnt) : Bool :=
  match m.kind with
  | .mark .qmark => t.entriesDone m.id
  | .mark (.acq sc) => t.readsDone m.id && (m.inv || !scopeInval sc)
  | .mark (.rel sc) => !e.kind.writes || t.performed m.id sc
  | _ => false

/-- Whether an entry may leave a queue that it stands in: every other entry ahead has left, and every marker ahead lets
it pass. -/
def Tile.headIn (t : Tile) (q : List Nat) (e : QEnt) : Bool :=
  ((q.takeWhile (· != e.id)).filterMap t.ent).all fun m => t.passes m e

/-- Whether the order of the queues lets an entry leave (10 R190, R191, R193, R203, R204). -/
def Tile.inTurn (t : Tile) (e : QEnt) : Bool :=
    (!t.laq.contains e.id || t.headIn t.laq e) && (!t.saq.contains e.id || t.headIn t.saq e) &&
    (t.ents.filter fun m => m.id < e.id && m.kind.isMark).all (fun m => t.passes m e) &&
    (if e.kind.isLoad then
      ((t.saq.filterMap t.ent).filter fun x => x.id < e.id && x.kind.writes).all fun x => !bound x e
     else
      ((t.laq.filterMap t.ent).filter fun x => x.id < e.id && x.kind.isLoad).all fun x => !bound x e)

def Trans.isOk : Trans → Bool
  | .ok _ => true
  | .pending | .faulted _ => false

/-- Whether an entry of the queues may DEQ. -/
def Tile.mayDeq (t : Tile) (e : QEnt) : Bool := e.data.length == e.need && e.tr.isOk && t.inTurn e

/-- The level to which leaving its queue raises an entry (10 R201): a write to memory has then performed at TILE scope; a read
at SLOT scope alone, for which R202 counts the leaving, until its value is fixed. -/
def QKind.leaveLvl : QKind → Nat
  | .store _ => 2
  | .atom _ _ ret => if ret then 1 else 2
  | .load _ _ | .pf | .mark _ => 1

/-- Whether a marker may leave: it heads both queues and holds nothing back any more. -/
def Tile.markLeaves (t : Tile) (m : QEnt) : Bool :=
  t.laq.head? == some m.id && t.saq.head? == some m.id &&
    match m.kind with
    | .mark .qmark => t.entriesDone m.id
    | .mark (.acq sc) => t.readsDone m.id && (m.inv || !scopeInval sc)
    | .mark (.rel sc) => t.performed m.id sc
    | _ => false

/-- The access that an entry makes. -/
def entryAcc (n : Nat) (e : QEnt) (pa : Nat) : Acc :=
  let op := match e.kind with
    | .load w _ => .read w
    | .store w => .write (leBytes w ((e.data.headD 0).toNat))
    | .atom op dbl _ => .atom op dbl e.data
    | .pf | .mark _ => .read 0
  ⟨e.id, n, pa, op, e.hint, .entry e.id, e.va⟩

/-- Where an access goes: its home's slice, or CD for host memory (10 R190, R405). -/
def accPkt (id : Nat) (a : Acc) : Pkt :=
  ⟨id, .req a, homeParty a.pa, if hostBase ≤ a.pa then portEnd else sliceEnd a.pa⟩

/-- An access of a tile sent on its way. -/
def State.sendAcc (s : State) (a : Acc) : State :=
  let (id, s) := s.newId
  let p := accPkt id a
  let d := dieOf a.tile
  (s.modTile a.tile fun t => t.use (usedEnd d p)).launch d (endOf a.tile) p

/-- ATOM (20 R379): the minor of the opcode, and the packet's index and destination party, 7 when it stays on its die. -/
def State.atomEvent (s : State) (a : Acc) (ret : Bool) (num party : Nat) : State :=
  match a.op with
  | .atom op _ _ =>
    s.tileEvent a.tile 1 0x12 (fld a.va 8 48)
      (fld a.va 0 8 + (op + if ret then 0 else 16) * 2 ^ 8 + num % 1024 * 2 ^ 14 + party * 2 ^ 24)
  | _ => s

/-- DEQ: the move that a queue's front allows. A marker that holds nothing back leaves; an ACQ marker of PKG or SYS
scope makes its INVAL; otherwise the first entry that is no marker leaves and enters its path. -/
def execDeq (tile : Nat) (store : Bool) (s : State) : Out3 :=
  let n := tile % 256
  let t := s.tile n
  let q := (if store then t.saq else t.laq).filterMap t.ent
  match q.head? with
  | none => .next s
  | some m =>
    if t.markLeaves m then .next (s.setTile n (t.dropEnt m.id))
    else
      match (q.takeWhile (·.kind.isMark)).find? fun m => match m.kind with
        | .mark (.acq sc) => scopeInval sc && !m.inv
        | _ => false with
      | some m =>
        .next ((s.setTile n { t with ents := t.ents.map fun e => if e.id = m.id then { e with inv := true } else e }).inval
          (dieOf n))
      | none =>
        match q.find? fun e => !e.kind.isMark with
        | none => .next s
        | some e =>
          match e.tr with
          | .ok pa =>
            if t.mayDeq e then
              let t := (t.dropEnt e.id).raise e.id e.kind.leaveLvl
              if e.kind = .pf then .next (s.setTile n (t.settle e.id))
              else
                let a := entryAcc n e pa
                let s := (s.setTile n t).sendAcc a
                .next (if homeParty pa = partyOf (dieOf n) then
                    s.atomEvent a (match e.kind with
                      | .atom _ _ r => r
                      | _ => true) 0 7
                  else s)
            else .next s
          | _ => .next s

/-! ### What becomes of a lost access (12 R248) -/

/-- A copy command halted by an error: the first code stands (11 R236). -/
def Tile.copyFail (t : Tile) (seq code : Nat) : Tile :=
  t.modCmd seq fun c => { c with code := if c.code = 0 then code else c.code, halt := true }

/-- A copy command whose source sector is poisoned: nothing is written to the sectors that it would fill (11 R238). -/
def CopyCmd.spoil (c : CopyCmd) (k : Nat) : CopyCmd :=
  let l := (c.filledBy k).filter fun j => !c.wrote.contains j
  { c with code := if c.code = 0 then 2 else c.code, wrote := c.wrote ++ l, sent := c.sent ++ l, done := c.done ++ l }

def Tile.copySpoil (t : Tile) (seq k : Nat) : Tile := t.modCmd seq (·.spoil k)

/-- A destination sector of a copy command that waits for nothing more: written, or lost; one written is counted (21 R400). -/
def Tile.copyOver (t : Tile) (seq sec : Nat) : Tile := t.modCmd seq fun c => { c with done := c.done ++ [sec] }
def Tile.copyDone (t : Tile) (seq sec : Nat) : Tile := (t.countMove 9 0 1).copyOver seq sec

/-- A destination sector that has been sent. -/
def Tile.copySent (t : Tile) (seq sec : Nat) : Tile := t.modCmd seq fun c => { c with sent := c.sent ++ [sec] }

/-- A memory chain entry that could not be read: one command that completes with a code, and the walk's end. -/
def Tile.walkFail (t : Tile) (code : Nat) : Tile :=
  match t.chain.walk with
  | none => t
  | some w =>
    let n := (t.chain.last + 1) % 2 ^ 32
    { t with chain := { t.chain with
        walk := none, last := n
        act := t.chain.act ++
          [⟨n, w.ent, false, 0, 0, 0, 0, .norm, 0, Vector.replicate 12 0, code, true, true, [], [], [], [], [], [], []⟩] } }

/-- A read whose value is fixed: it has performed (10 R201). -/
def Tile.fixRead (t : Tile) (w : Who) : Tile :=
  match w with
  | .entry id => t.settle id
  | .copyR seq sec => t.modCmd seq fun c => { c with reads := c.reads ++ [sec] }
  | .copyW _ _ | .chain | .host => t

/-- The answer to an access that has reached its tile, or that it will never have. -/
def Tile.answer (t : Tile) (a : Acc) (ans : Ans) : Tile :=
  match a.who with
  | .entry id => { (t.settle id) with back := t.back ++ [(id, ans)] }
  | .copyR seq sec =>
    match ans with
    | .val l => t.modCmd seq fun c => { c with got := c.got ++ [(sec, l)] }
    | .failed code =>
      let t := t.modCmd seq fun c => { c with got := c.got ++ [(sec, [])] }
      if code = 2 then t.copyFail seq 4 else t.copySpoil seq sec
  | .copyW _ _ | .chain | .host => t

/-- Whether a far atomic's value is awaited. -/
def Tile.awaits (t : Tile) (id : Nat) : Bool := t.lq.any fun e => e.id == id

/-- A marker acknowledged (10 R202). -/
def State.ackMarker (s : State) (n id : Nat) : State :=
  s.modTile n fun t => { t with fence := t.fence.map fun f => { f with marks := f.marks.filter (· != id) } }

/-- The fate of an access whose packet party d drops, or whose home is not to be reached from it (12 R248). -/
def State.loseAcc (s : State) (d : Nat) (a : Acc) : State :=
  let t := s.tile a.tile
  let told : State := s.reportAt d 8 9 a.tile a.pa
  match a.op, a.who with
  | .read _, .chain => s.setTile a.tile (t.walkFail 4)
  | .read _, _ => s.setTile a.tile (t.answer a (.failed 2))
  | .write _, .entry id => told.modTile a.tile fun t => t.settle id
  | .write _, .copyW seq sec => s.setTile a.tile ((t.copyFail seq 4).copyOver seq sec)
  | .write _, _ => s.report 8 9 (unitParty d) 0 a.pa 0
  | .atom _ _ _, .entry id =>
    if t.awaits id then s.setTile a.tile (t.answer a (.failed 2)) else told.modTile a.tile fun t => t.settle id
  | .atom _ _ _, _ => told

/-- The fate of what a packet carried that party d drops; code is that of PUTX for a put or get. -/
def State.losePkt (s : State) (d : Nat) (p : Pkt) (code : Nat) : State :=
  match p.body with
  | .req a => s.loseAcc d a
  | .resp a _ _ => if a.who = .chain then s.loseAcc d a else s.modTile a.tile fun t => t.answer a (.failed 2)
  | .marker n id => s.ackMarker n id
  | .net x => s.failNet x code
  | .notice | .freeze _ _ _ _ => s

/-! ### The remote-data cache (10 R196) -/

def DieSt.copyOf (x : DieSt) (line : Nat) : Option (List Byte) := (x.rdc.find? fun e => e.1 == line).map (·.2)

/-- Bytes written over a copy of a line. -/
def overlay (l : List Byte) (at_ : Nat) (d : List Byte) : List Byte := l.take at_ ++ d ++ l.drop (at_ + d.length)

/-- UPDATE: bytes written into the copy of their line, if there is one. A fill in flight for the line would be older
than this write, so it installs nothing (10 R201). -/
def DieSt.update (x : DieSt) (pa : Nat) (d : List Byte) : DieSt :=
  { x with
    rdc := x.rdc.map fun e => if e.1 = lineOf pa then (e.1, overlay e.2 (pa % 128) d) else e
    fills := x.fills.filter fun f => f.2 != lineOf pa }

/-- A copy dropped, with the fills in flight for it. -/
def DieSt.forget (x : DieSt) (line : Nat) : DieSt :=
  { x with rdc := x.rdc.filter fun e => e.1 != line, fills := x.fills.filter fun f => f.2 != line }

/-- FILL: a line kept; the cache holds 131,072 (01 R8, 11 R218). -/
def DieSt.fill (x : DieSt) (id line : Nat) (l : List Byte) : DieSt :=
  let x' := { x with fills := x.fills.filter fun f => f.1 != id }
  if x.fills.contains (id, line) then
    let r := x.rdc.filter fun e => e.1 != line
    { x' with rdc := (r ++ [(line, l)]).drop (r.length + 1 - 131072) }
  else x'

/-- A fill of a die's remote-data cache, counted where it is made (10 R196, 21 R401). -/
def State.fillRdc (s : State) (d id line : Nat) (l : List Byte) : State :=
  let s := if (s.die d).fills.contains (id, line) then s.dieCount (partyOf d) 4 1 else s
  s.modDie d fun x => x.fill id line l

def execRdcEvict (die line : Nat) (s : State) : Out3 :=
  .next (s.modDie (die % 4) fun x => { x with rdc := x.rdc.filter fun e => e.1 != line })

/-- Whether a read may meet the remote-data cache: a load or copy read of a device line (10 R196, 11 R235). -/
def Acc.cached (a : Acc) : Bool :=
  a.hint != .nordc && decide (a.pa < hostBase) &&
    match a.op, a.who with
    | .read _, .entry _ => true
    | .read _, .copyR _ _ => true
    | _, _ => false

/-- An access that reaches its die's party port on its way out. -/
def State.portReq (s : State) (d src : Nat) (p : Pkt) (a : Acc) (keep : Bool) : State :=
  let x := s.die d
  let out (s : State) : State := s.atPort (partyOf d) src p
  match a.op with
  | .read n =>
    match (if a.cached && keep then x.copyOf (lineOf a.pa) else none) with
    | some l => ((s.dieCount (partyOf d) 3 1).modTile a.tile fun t => t.fixRead a.who).path d portEnd (endOf a.tile) ⟨p.id, .resp a (.val ((l.drop (a.pa % 128)).take n)) none, partyOf d, endOf a.tile⟩
    | none => out (if a.cached then s.setDie d { x with fills := x.fills ++ [(p.id, lineOf a.pa)] } else s)
  | .write l => out (if hostBase ≤ a.pa then s else s.setDie d (x.update a.pa l))
  | .atom _ _ _ => out (s.setDie d (x.forget (lineOf a.pa)))

/-! ### HOP (10 R188, R194) -/

/-- A failed read of the copy engine, of a source sector or of an entry of its chain, reported as its failure's class (11 R238, 19
R355). -/
def State.copyReport (s : State) (n : Nat) (a : Acc) (code : Nat) : State :=
  let told (cls source : Nat) : State := { s with errs := s.errs ++ [{ site := ⟨cls, source, n, 1, a.va.toNat, 0⟩, va := true }] }
  if code = 1 then told 5 10 else if code = 3 then told 26 14 else s

/-- POISON in the tile's ring (20 R379). DESIGN CHOICE (log 66): it is written as the poisoned answer reaches the load, far atomic or
copy that reads it, beside the die's event. -/
def Tile.poisonEvent (t : Tile) (a : Acc) : Tile :=
  let put (slot kind : Nat) : Tile := t.eventPast slot 0x18 (fld a.va 8 48) (fld a.va 0 8 + kind * 256)
  match a.who, a.op with
  | .entry id, .atom _ _ _ => if t.awaits id then put 1 1 else t
  | .entry id, _ => if t.awaits id then put 1 0 else t
  | .copyR _ _, _ | .chain, _ => put 4 2
  | .copyW _ _, _ | .host, _ => t

/-- A packet that reaches a tile. -/
def State.atTile (s : State) (d src dst : Nat) (p : Pkt) (keep : Bool) : State :=
  let n := 64 * d + dst
  match p.body with
  | .resp a ans line =>
    let s := match line with
      | some l => if keep then s.fillRdc d p.id (lineOf a.pa) l
          else s.modDie d fun x => { x with fills := x.fills.filter fun f => f.1 != p.id }
      | none => s
    if s.dieGone d then s
    else
    let s := if ans = .failed 1 then s.modTile n fun t => t.poisonEvent a else s
    match a.who, ans with
    | .chain, .val _ => s.modTile n fun t => { t with inbox := t.inbox ++ [(src, p)] }
    | .chain, .failed c => (s.copyReport n a c).modTile n fun t => t.walkFail (if c = 2 then 4 else 2)
    | .copyR _ _, .failed c => (s.copyReport n a c).modTile n fun t => t.answer a ans
    | _, _ => s.modTile n fun t => t.answer a ans
  | .marker m id => s.ackMarker m id
  | .net x => if s.dieGone d then s.errorReply x else s.modTile n fun t => { t with inbox := t.inbox ++ [(src, p)] }
  | .freeze _ _ _ _ => s.modTile n fun t => { t with inbox := t.inbox ++ [(src, p)] }
  | .req _ | .notice => s

/-- HOP: the packet at the head of a mesh path reaches its end. keep is the cache's choice: to take a HIT at the port, or to
keep a returning value as a copy. -/
def execHop (die path : Nat) (keep : Bool) (s : State) : Out3 :=
  let d := die % 4
  let src := path / 81 % 81
  let dst := path % 81
  let k := pathKey d src dst
  match tget s.paths [] k with
  | [] => .next s
  | p :: r =>
    let s := { s with paths := tset s.paths k r }
    if dst < 64 then .next (s.atTile d src dst p keep)
    else if dst < portEnd then .next { s with homes := tset s.homes d (tget s.homes [] d ++ [p]) }
    else match p.body with
      | .req a => .next (s.portReq d src p a keep)
      | .freeze _ _ _ _ => .next (s.viralMove (partyOf d) false)
      | _ => .next (s.atPort (partyOf d) src p)

/-! ### SEND (12 R243, R246) -/

/-- x ≥ y in the sense of 12 R241. -/
def geq10 (x y : BitVec 10) : Bool := decide ((x - y).toNat < 512)
def max10 (x y : BitVec 10) : BitVec 10 := if geq10 x y then x else y

/-- Whether a party may send a packet to another now. A viral party sends viral notices alone (19 R361); no party sends
while a resurvey is in progress (12 R247). -/
def State.maySend (s : State) (a b : Nat) (x : Pkt) : Bool :=
  let p := s.party a
  (!p.viral || x.body == .notice) && s.survey.isNone && decide ((vget p.m (6 * a + b) - vget p.dack b).toNat < 384) && vget p.cred b != 0

/-- The stamping and sending of a packet. -/
def State.emit (s : State) (a b : Nat) (pkt : Pkt) : State :=
  let p := s.party a
  let d : DPkt := {
    src := a, gen := p.gen
    v := (List.range 6).map fun k => vget p.m (6 * k + b)
    ext := if vget p.dirty b then some p.m.toList else none
    num := (vget p.m (6 * a + b)).toNat
    pkt := pkt }
  let p := { p with
    m := vset p.m (6 * a + b) (vget p.m (6 * a + b) + 1)
    dirty := Vector.ofFn fun j => if j.val = b % 6 then false else true
    cred := vset p.cred b (vget p.cred b - 1) }
  { (s.setParty a p) with links := tset s.links (6 * a + b) (tget s.links [] (6 * a + b) ++ [d]) }

/-- What a send fixes: a write to a device line has performed at DIE scope, and ATOM is written (10 R201, 20 R379). -/
def State.noteSend (s : State) (a b : Nat) (p : Pkt) : State :=
  let num := (vget (s.party a).m (6 * a + b)).toNat
  match p.body with
  | .req x =>
    let dev := decide (x.pa < hostBase)
    match x.op, x.who with
    | .write _, .entry id => if dev then s.modTile x.tile fun t => t.raise id 3 else s
    | .write _, .copyW seq sec => if dev then s.modTile x.tile fun t => t.copySent seq sec else s
    | .atom _ _ _, .entry id =>
      let ret := (s.tile x.tile).awaits id
      (s.modTile x.tile fun t => if ret then t else t.raise id 3).atomEvent x ret num b
    | _, _ => s
  | .net x => s.putsEvent x num b
  | _ => s

/-- SEND: the oldest packet from one path leaves a party's port. One for a masked party fails there (12 R250). -/
def execSend (src dst path : Nat) (s : State) : Out3 :=
  let a := src % 6
  let b := dst % 6
  let p := s.party a
  match tget p.out [] path with
  | [] => .next s
  | x :: r =>
    if x.dstP ≠ b ∨ a = b then .next s
    else
      let rest := s.setParty a { p with out := tset p.out path r }
      if bitAt s.clkmask b then .next (rest.losePkt a x 4)
      else if s.maySend a b x then .next ((rest.noteSend a b x).emit a b x)
      else .next s

/-! ### PACKET_ARRIVE and DELIVER (12 R244 to R247) -/

/-- The partition of a packet: that of the tile whose access or marker it carries, or that whose fabric tag it bears (19 R358). -/
def State.bodyPart (s : State) (b : Body) : Option Nat :=
  match b with
  | .req a | .resp a _ _ => if a.who = .host then none else (s.tile a.tile).part
  | .marker n _ => (s.tile n).part
  | .net x => s.partTagged x.ptag
  | .notice | .freeze _ _ _ _ => none

/-- A packet dropped at a party: PKTDROP in its die ring, and the access's failure (12 R247, R248; 20 R379). -/
def State.dropAt (s : State) (d code : Nat) (x : DPkt) : State :=
  ((s.dieEvent d (s.bodyPart x.pkt.body) 0x19 x.src (code + x.num % 1024 * 16 + x.src * 2 ^ 14)).modParty d fun p =>
    { p with freed := vset p.freed x.src (vget p.freed x.src + 1) }).losePkt d x.pkt 5

def execPacketArrive (src dst : Nat) (s : State) : Out3 :=
  let a := src % 6
  let b := dst % 6
  match tget s.links [] (6 * a + b) with
  | [] => .next s
  | x :: r =>
    let s := { s with links := tset s.links (6 * a + b) r }
    let p := s.party b
    if bitAt s.clkmask a then .next (s.dropAt b 2 x)
    else if x.gen ≠ p.gen then .next (s.dropAt b 1 x)
    else if p.hold.length < 1024 then .next (s.setParty b { p with hold := p.hold ++ [x] })
    else .next { s with links := tset s.links (6 * a + b) (x :: r) }

/-- Whether a party may deliver a packet it holds (12 R244). -/
def Party.ready (p : Party) (mask : W64) (x : DPkt) : Bool :=
  x.gen == p.gen && vget p.dlv x.src == x.v.getD x.src 0 &&
    (List.range 6).all fun k => k == x.src || bitAt mask k || geq10 (vget p.dlv k) (x.v.getD k 0)

/-- The clock of a party after a delivery (12 R244). -/
def Party.deliver (p : Party) (d : Nat) (x : DPkt) : Party :=
  let m := match x.ext with
    | some e => Vector.ofFn fun i => max10 (p.m.get i) (e.getD i.val 0)
    | none => p.m
  let dl := vget p.dlv x.src + 1
  let m := vset m (6 * x.src + d) (max10 (vget m (6 * x.src + d)) dl)
  { p with
    m := m
    dlv := vset p.dlv x.src dl
    dirty := Vector.ofFn fun j => p.dirty.get j ||
      (List.range 36).any fun i => vget m i != vget p.m i && i != 6 * d + j.val
    freed := vset p.freed x.src (vget p.freed x.src + 1) }

/-- The requester id that an access bears on PCIe: the function of the partition that its tile belongs to, 0 where it belongs to
none (18 R338). -/
def State.requester (s : State) (a : Acc) : Nat := ((s.tile a.tile).owner.map (·.vf)).getD 0

/-- A delivered packet passed on: to its mesh path, to the PCIe egress by CD (10 R405), to the routers by RD, or
acknowledged where it is a fence marker; a viral notice makes the party viral. A party that has made its viral move passes
nothing on (20 R381); a base die whose compute die is gone answers for its tiles (19 R367). -/
def State.passOn (s : State) (d : Nat) (p : Pkt) : State :=
  if (s.party d).viral then s
  else match p.body with
    | .marker n id => s.ackMarker n id
    | .req a => if d = 0 then { s with pcie := s.pcie ++ [(s.requester a, p)] } else s.path (d - 1) portEnd p.dstE p
    | .resp _ _ _ => s.path (d - 1) portEnd p.dstE p
    | .net x =>
      if d = 5 then s.rdTake x
      else if s.dieGone (d - 1) then s.errorReply x
      else s.path (d - 1) portEnd p.dstE p
    | .notice => s.viralMove d false
    | .freeze _ _ _ _ => s

/-- A report of party d's count to a source, with the credits of freed entries. At its discretion, which is free, d keeps back
shared entries among those and grants others (12 R245, R246). -/
def State.reportTo (s : State) (d a : Nat) : State :=
  let (i, s) := s.freeNat
  let (j, s) := s.freeNat
  let p := s.party d
  let kept := i % (min (vget p.lent a) (vget p.freed a) + 1)
  let given := j % (p.shared + kept + 1)
  let r : Report := ⟨d, vget p.dlv a, vget p.freed a - kept + given⟩
  let p := { p with
    freed := vset p.freed a 0, told := vset p.told a (vget p.dlv a)
    shared := p.shared + kept - given, lent := vset p.lent a (vget p.lent a - kept + given) }
  (s.setParty d p).modParty a fun q => { q with reps := q.reps ++ [r] }

/-- A report is due once 16 packets have been delivered from a source since the last one (12 R245). -/
def State.reportDue (s : State) (d a : Nat) : State :=
  if 16 ≤ (vget (s.party d).dlv a - vget (s.party d).told a).toNat then s.reportTo d a else s

/-- DELIVER. The sixteenth delivery from a source since the last report makes one. -/
def execDeliver (party index : Nat) (s : State) : Out3 :=
  let d := party % 6
  let p := s.party d
  match p.hold[index]? with
  | none => .next s
  | some x =>
    if p.ready s.clkmask x then
      .next (((s.setParty d { (p.deliver d x) with hold := p.hold.eraseIdx index }).reportDue d x.src).passOn d x.pkt)
    else .next s

/-- DELIVERY_REPORT: a report that a party makes before it is due. -/
def execDeliveryReport (party src : Nat) (s : State) : Out3 := .next (s.reportTo (party % 6) (src % 6))

def execReportReceive (party index : Nat) (s : State) : Out3 :=
  let a := party % 6
  let p := s.party a
  match p.reps[index]? with
  | none => .next s
  | some r =>
    if (p.reps.take index).any fun q => q.from_ == r.from_ then .next s
    else .next (s.setParty a { p with
      reps := p.reps.eraseIdx index
      dack := vset p.dack r.from_ r.count
      cred := vset p.cred r.from_ (vget p.cred r.from_ + r.creds) })

/-! ### PERFORM (10 R195, 11 R212, R227) -/

/-- The value that a far atomic writes (11 R227); none where ACAS writes nothing. -/
def atomNew (op : Nat) (dbl : Bool) (old : Nat) (d : List W64) : Option Nat :=
  let w := if dbl then 64 else 32
  let x := (d.getD 0 0).toNat % 2 ^ w
  let y := (d.getD 1 0).toNat % 2 ^ w
  let so := signed w old
  let sx := signed w x
  match op with
  | 0 => some ((old + x) % 2 ^ w)
  | 1 => some (min old x)
  | 2 => some (if so ≤ sx then old else x)
  | 3 => some (max old x)
  | 4 => some (if so ≤ sx then x else old)
  | 5 => some (old &&& x)
  | 6 => some (old ||| x)
  | 7 => some (old ^^^ x)
  | 8 => some x
  | 9 => if old = x then some y else none
  | 10 => some (writeFp 4 false .rne 0 (XV.add false (decodeFp 4 old) (decodeFp 4 x))).bits
  | _ =>
    let half (h : Nat) : Nat :=
      (writeFp 5 false .rne 0 (XV.add false (decodeFp 5 (old / 2 ^ (16 * h) % 2 ^ 16)) (decodeFp 5 (x / 2 ^ (16 * h) % 2 ^ 16)))).bits
    some (half 0 + half 1 * 2 ^ 16)

/-- The answer to a read at a home: its bytes, or a failure where they are poisoned, with a POISON event. -/
def State.homeRead (s : State) (a : Acc) (n : Nat) : Ans × State :=
  if s.poisoned a.pa n then
    let kind := match a.who with
      | .entry _ => 0
      | _ => 2
    (.failed 1, s.dieEvent (homeParty a.pa) ((s.tile a.tile).part) 0x18 (a.pa / 16) (kind * 256))
  else (.val (s.readPa a.pa n), s)

/-- An answer sent from a home or from CD towards its tile. -/
def State.reply (s : State) (d src : Nat) (a : Acc) (ans : Ans) (line : Option (List Byte)) (id : Nat) : State :=
  s.launch d src ⟨id, .resp a ans line, partyOf (dieOf a.tile), endOf a.tile⟩

/-- What a performed write means at its tile. -/
def Tile.wrote (t : Tile) (a : Acc) : Tile :=
  match a.who with
  | .entry id => t.settle id
  | .copyW seq sec => t.copyDone seq sec
  | _ => t

/-- What a write that is not made means there. -/
def Tile.unwritten (t : Tile) (a : Acc) : Tile :=
  match a.who with
  | .copyW seq sec => t.copyOver seq sec
  | _ => t.wrote a

/-- The lines that the L2 of a die holds after an access (11 R217, R219): it changes no value. Each of its 16 slices holds at
most 32,768 lines, 4 MiB (01 R8). DESIGN CHOICE (log 64): a full slice, which counts as one set, gives up its oldest line that is
not marked keep, or else its oldest. -/
def DieSt.l2Touch (x : DieSt) (a : Acc) : DieSt :=
  let line := lineOf a.pa
  let wr := match a.op with
    | .write _ => true
    | _ => false
  match a.op with
  | .atom _ _ _ => { x with l2 := x.l2.filter fun e => e.line != line }
  | _ =>
    if x.l2.any fun e => e.line == line then
      { x with l2 := x.l2.map fun e => if e.line = line then { e with dirty := e.dirty || wr } else e }
    else if a.hint = .stream then x
    else
      let here (e : L2Line) : Bool := sliceEnd (e.line * 128) == sliceEnd a.pa
      let l := x.l2 ++ [⟨line, wr, a.hint == .keep⟩]
      if (l.filter here).length ≤ 32768 then { x with l2 := l }
      else match ((l.find? fun e => here e && !e.keep).or (l.find? here)) with
        | some v => { x with l2 := l.erase v }
        | none => { x with l2 := l }

/-- The dirty lines that an access makes the L2 give up. -/
def DieSt.spilled (x : DieSt) (a : Acc) : List Nat :=
  let new : List L2Line := match a.op with
    | .write _ => if a.hint = .stream then [] else [⟨lineOf a.pa, true, false⟩]
    | _ => []
  ((x.l2 ++ new).filter fun e => e.dirty && !(x.l2Touch a).l2.any fun y => y.line == e.line).map (·.line)

/-- An access meets the L2 of its home: not once that is written back for a reset or a drop (19 R367 step 2). -/
def State.touchL2 (s : State) (d : Nat) (a : Acc) : State :=
  if s.dieGone d then s
  else
    let hit := (s.die d).l2.any fun e => e.line == lineOf a.pa
    ((s.modDie d fun x => x.l2Touch a).dieCount (partyOf d) (if hit then 1 else 2) 1).writeLines d ((s.die d).spilled a)

/-- One access applied at its home on a die. -/
def State.applyAcc (s : State) (d src id : Nat) (a : Acc) : State :=
  let s := s.touchL2 d a
  match a.op with
  | .read n =>
    let (ans, s) := s.homeRead a n
    let s := s.modTile a.tile fun t => t.fixRead a.who
    let base := a.pa / 128 * 128
    let line := if a.cached && d != dieOf a.tile && !s.poisoned base 128 then some (s.readPa base 128) else none
    s.reply d src a ans line id
  | .write l => (s.homeWrite a.pa l).modTile a.tile fun t => t.wrote a
  | .atom op dbl dat =>
    let w := if dbl then 8 else 4
    let t := s.tile a.tile
    let ret := t.awaits a.id
    if s.poisoned a.pa w then
      let s := s.dieEvent (partyOf d) t.part 0x18 (a.pa / 16) 256
      if ret then s.reply d src a (.failed 1) none id
      else (s.reportAt (partyOf d) 5 8 a.tile a.pa).modTile a.tile fun t => t.settle a.id
    else
      let old := fromLe (s.readPa a.pa w)
      let s := match atomNew op dbl old dat with
        | some v => s.homeWrite a.pa (leBytes w v)
        | none => s
      if ret then (s.modTile a.tile fun t => t.settle a.id).reply d src a (.val (leBytes w old)) none id
      else s.modTile a.tile fun t => t.settle a.id

/-- PERFORM: a home applies one access that has reached it, when no earlier one to its line waits. A marker follows
every earlier access of its tile (10 R195, R202). -/
def execPerform (die index : Nat) (s : State) : Out3 :=
  let d := die % 4
  let q := tget s.homes [] d
  match q[index]? with
  | none => .next s
  | some p =>
    let s' := { s with homes := tset s.homes d (q.eraseIdx index) }
    let before := (q.take index).filterMap fun x => match x.body with
      | .req a => some a
      | _ => none
    match p.body with
    | .req a => if before.any fun b => lineOf b.pa == lineOf a.pa then .next s else .next (s'.applyAcc d p.dstE p.id a)
    | .marker n id => if before.any fun b => b.tile == n then .next s else .next (s'.ackMarker n id)
    | _ => .next s'

/-! ### RETURN (10 R188, 11 R223) -/

/-- RETURN: the value of the oldest load that has not returned enters LQ. -/
def execReturnVal (tile : Nat) (s : State) : Out3 :=
  let n := tile % 256
  let t := s.tile n
  match t.lq.find? fun e => e.val == .waiting with
  | none => .next s
  | some e =>
    match t.back.find? fun b => b.1 == e.id with
    | none => .next s
    | some (_, ans) =>
      let v : LqVal := match ans with
        | .val l => .val (if e.sgn then w64i (signed (8 * e.w) (fromLe l)) else w64 (fromLe l))
        | .failed code => .failed code e.va
      .next (s.setTile n { (t.countMove 8 0 1) with
        back := t.back.filter fun b => b.1 != e.id
        lq := t.lq.map fun x => if x.id = e.id then { x with val := v } else x })

/-! ### The host side (10 R207, R405; 12 R251) -/

/-- A posted write of the host to device memory enters the domain as packets of CD, one for each 32-byte sector that it
touches. -/
def State.hostPieces (s : State) (addr : Nat) : List Byte → Nat → State
  | _, 0 => s
  | l, n + 1 =>
    if l.isEmpty then s
    else
      let k := min l.length (32 - addr % 32)
      let (id, s) := s.newId
      let a : Acc := ⟨id, 0, addr, .write (l.take k), .norm, .host, 0⟩
      (s.atPort 0 81 (accPkt id a)).hostPieces (addr + k) (l.drop k) n

/-- HOST_WRITE: a write of the host to device memory, or to its own, which the device reads at the same physical addresses
(21 R395). The journal's region takes none (19 R370). -/
def execHostWrite (addr : Nat) (bytes : List Byte) (s : State) : Out3 :=
  if hostBase ≤ addr then .next (s.writePa addr bytes)
  else if !backed addr || !backed (addr + bytes.length - 1) || inJournal addr bytes.length || (s.party 0).viral then .next s
  else .next (s.hostPieces addr bytes (bytes.length + 1))

/-- Whether every write that the host has posted has performed (10 R207). -/
def State.hostQuiet (s : State) : Bool :=
  let mine (p : Pkt) : Bool := match p.body with
    | .req a => a.who == .host
    | _ => false
  !((tget (s.party 0).out [] 81).any mine) && (s.links.all fun l => l.2.all fun x => !mine x.pkt) &&
    (s.parties.all fun q => q.2.hold.all fun x => !mine x.pkt) && (s.paths.all fun q => q.2.all fun x => !mine x) &&
    s.homes.all fun q => q.2.all fun x => !mine x

/-- HOST_COMPLETION: the host completes an access that CD has passed on. No access passes a posted write (log 9). Whether
the host's IOMMU takes it from the requester that it bears is the host's choice (18 R338, R351). -/
def execHostCompletion (index : Nat) (s : State) : Out3 :=
  match s.pcie[index]? with
  | none => .next s
  | some (fn, p) =>
    let posted (x : Pkt) : Bool := match x.body with
      | .req a => match a.op with
        | .write _ => true
        | _ => false
      | _ => false
    if (s.pcie.take index).any fun x => posted x.2 then .next s
    else
      let refused (a : Acc) : Bool := !s.hostTakes fn a.pa
      let s := { s with pcie := s.pcie.eraseIdx index }
      match p.body with
      | .req a =>
        let back (s : State) (ans : Ans) : State :=
          s.atPort 0 81 ⟨p.id, .resp a ans none, partyOf (dieOf a.tile), endOf a.tile⟩
        match a.op with
        | .read n =>
          let s := s.modTile a.tile fun t => t.fixRead a.who
          .next (back s (if refused a then .failed 3 else .val (s.readPa a.pa n)))
        | .write l =>
          if refused a then .next ((s.reportAt 0 26 14 a.tile a.pa).modTile a.tile fun t => t.unwritten a)
          else .next ((s.writePa a.pa l).modTile a.tile fun t => t.wrote a)
        | .atom _ _ _ => .next s
      | _ => .next s

end Sys2Proof.Machine
end

