-- ==== Sys2Proof/Machine/Engines.lean ====
section
/-! DEFINITION. The copy engine's moves and COMMIT (03 R56; 04 R87; 10 R199, R205; 11 R215, R216, R230 to R239). -/

namespace Sys2Proof.Machine

/-! ### COMMIT (10 R188, 11 R215) -/

/-- Words of the instruction store that a write changes, with their old contents: until an ICLR covers them a fetch may
find either (05 R119). -/
def Tile.noteOld (t : Tile) (a n : Nat) : Tile :=
  let first := a / 8
  let count := if n = 0 then 0 else (a + n - 1) / 8 - first + 1
  { t with istOld := t.istOld ++ (List.range count).map fun i =>
      (8 * (first + i) % 0x40000, t.iword (8 * (first + i)), t.cyc - 1) }

/-- One asynchronous write made. -/
def Tile.landWrite (t : Tile) : AsyncW → Tile
  | .spad a l => { t with spad := writeBytes t.spad a l }
  | .istore a l => { (t.noteOld a l.length) with istore := writeBytes t.istore a l }
  | .count ctr bcb =>
    let t := match ctr with
      | some i => t.setCtr i (t.ctr i + 1)
      | none => t
    match bcb with
    | some (i, n) => t.setBcb i { t.bcb i with count := wrap48 ((t.bcb i).count + n) }
    | none => t
  | .stage _ _ _ => t
  | .accum e inc op a l => if (t.cent e).inc = inc then t.accumulate op a l else t
  | .words e inc n =>
    let x := t.cent e
    let k := x.count + n
    if x.inc = inc then t.setCent e { x with count := k, locl := x.locl || k == x.expect } else t
  | .event e inc b =>
    let x := t.cent e
    if x.inc ≠ inc then t
    else t.setCent e (if b = 0 then { x with srcreu := true } else if x.due && !x.abrx then { x with allfin := true } else x)

/-! ### Conversion (04 R87) -/

/-- One element converted between two formats that differ: once, with RNE, saturating. -/
def convElem (src dst : Fmt) (bits entry : Nat) : Nat :=
  if fmtInt src then
    let v := decodeInt src bits
    if fmtInt dst then (intToInt dst true false v).bits else (writeFp dst false .rne 0 (XV.ofInt v)).bits
  else
    let v := decodeRaw src bits entry
    if fmtInt dst then (realToInt dst .rne 0 v).bits else (writeFp dst false .rne 0 v).bits

/-- Bits of an element of a row's bytes. -/
def rowElem (f : Fmt) (row : List Byte) (i : Nat) : Nat :=
  if f = I4A then ((row.getD (i / 2) 0).toNat / 16 ^ (i % 2)) % 16
  else fromLe ((row.drop (fmtBytes f * i)).take (fmtBytes f))

/-- The bytes from lo to hi of a converted row, whose first element is number skip of the source bytes. entry gives the table
entry of an element. -/
def convBytes (src dst : Fmt) (row : List Byte) (skip : Nat) (entry : Nat → Nat) (lo hi : Nat) : List Byte :=
  let elem (i : Nat) : Nat := convElem src dst (rowElem src row (skip + i)) (entry i)
  (List.range (hi - lo)).map fun j =>
    let b := lo + j
    if dst = I4A then BitVec.ofNat 8 (elem (2 * b) + 16 * elem (2 * b + 1))
    else BitVec.ofNat 8 (elem (b / fmtBytes dst) / 256 ^ (b % fmtBytes dst))

/-! ### Beginning a command (11 R230, R233) -/

/-- Format of the bank of a scratchpad address (04 R82 to R84). -/
def Tile.bankFmt (t : Tile) (a : Nat) : Fmt := if a < spadEnd then (t.bfmt.get (Fin.ofNat 12 (a / 0x40000))).toNat else 0

/-- The banks that a row's scratchpad bytes touch all have one format. -/
def Tile.rowFmtOk (t : Tile) (c : CopyCmd) : Bool :=
  (List.range c.rows).all fun r =>
    let a := c.sRow r
    (List.range ((a + max 1 c.lenS - 1) / 0x40000 - a / 0x40000 + 1)).all fun i =>
      t.bankFmt (max a ((a / 0x40000 + i) * 0x40000)) == c.fmt

/-- Whether a command fails its format checks (11 R233). DEDUCED (log 57): a row that is no whole number of elements of both
sides fails, and so does one whose elements fill no whole number of bytes on the scratchpad side. -/
def Tile.formatBad (t : Tile) (c : CopyCmd) : Bool :=
  if sdIs c.sd || c.rows == 0 then false
  else
    let (src, dst) := if c.toMem then (c.fmt, sdMfmt c.sd) else (sdMfmt c.sd, c.fmt)
    (!c.same && fmtScaled dst && src != dst) ||
      c.lenM * 8 % fmtBits (sdMfmt c.sd) != 0 ||
      (if c.same then c.lenM * 8 % fmtBits c.fmt != 0 else c.lenM * fmtBits c.fmt % fmtBits (sdMfmt c.sd) != 0) ||
      !t.rowFmtOk c || (firstBeyond c.sd c.shape c.pitch c.lenS spadEnd).isSome

/-- A command reached by the engine: it takes its number, and the formats and scale registers of the banks. code is an error
found before. -/
def Tile.reach (t : Tile) (ent : Nat) (toMem : Bool) (sd ga shape pitch : W64) (hint : Hint) (code : Nat) : Tile :=
  let n := (t.chain.last + 1) % 2 ^ 32
  let is := sdIs sd
  let c : CopyCmd := ⟨n, ent, toMem, sd, ga, shape, pitch, hint, if is then 0 else t.bankFmt (sdAddr sd),
    t.bscl, code, code != 0, !bitAt sd 28, [], [], [], [], [], [], []⟩
  let c := if code = 0 && t.formatBad c then { c with code := 1, halt := true } else c
  { t with chain := { t.chain with last := n, act := t.chain.act ++ [c] } }

/-- Whether the chain runs: not while a copy fault stops it. A command begins only while no drain or kill holds the tile
(13 R290, 19 R357). -/
def Tile.chainRuns (t : Tile) : Bool := t.chain.stop.isNone
def Tile.chainBegins (t : Tile) : Bool := t.chainRuns && t.drn.isNone && !t.killed

/-- COPY_BEGIN: the next published entry of the window is begun, or a link's walk is. A link is read only after the
stores and far atomics before its CHAIN.TAIL (11 R237). -/
def execCopyBegin (tile : Nat) (s : State) : Out3 :=
  let n := tile % 256
  let t := s.tile n
  match t.chain.win with
  | [] => .next s
  | e :: r =>
    if !e.pub || !t.chainBegins || t.chain.walk.isSome || !t.marksPass e.id false then .next s
    else
      let t' := { t with chain := { t.chain with win := r } }
      match e.kind with
      | .cmd toMem sd ga shape pitch hint => .next (s.setTile n (t'.reach e.id toMem sd ga shape pitch hint 0))
      | .link a =>
        if t.storesDone e.id then .next (s.setTile n { t' with chain := { t'.chain with walk := some ⟨e.id, a, false⟩ } })
        else .next s

/-! ### Chains in memory (11 R235) -/

/-- A copy fault stops the chain (11 R239). -/
def State.chainStop (s : State) (n kind : Nat) (va : W64) : State :=
  s.modTile n fun t => { t with chain := { t.chain with stop := some ⟨kind, va, false⟩ } }

/-- The entry that a walk has read, checked as a register command is, with DIR in place of the opcode. -/
def Tile.takeEntry (t : Tile) (s : State) (w : Walk) (b : List Byte) : Tile :=
  let at_ (i : Nat) : W64 := w64 (fromLe ((b.drop i).take 8))
  let sd := at_ 0
  let toMem := bitAt sd 36
  let next := at_ 32
  let hint := (b.getD 40 0).toNat
  if s.lacks (sdMfmt sd) || (copyTrap toMem true sd (at_ 8) (at_ 16) (at_ 24)).isSome || next.toNat % 64 != 0 || decide (4 ≤ hint) ||
      (b.drop 41).any (· != 0) then t.walkFail 3
  else
    let t := t.reach w.ent toMem sd (at_ 8) (at_ 16) (at_ 24) (codeHint (BitVec.ofNat 2 hint)) 0
    { t with chain := { t.chain with walk := if next = 0 then none else some ⟨w.ent, next, false⟩ } }

/-- CHAIN_ENTRY_READ: the entry at the walk's address is asked for at its home; once read, it is taken. -/
def execChainEntryRead (tile : Nat) (s : State) : Out3 :=
  let n := tile % 256
  let t := s.tile n
  match t.chain.walk with
  | none => .next s
  | some w =>
    if !t.chainBegins then .next s
    else if w.asked then
      match t.inbox.findSome? fun p => match p.2.body with
        | .resp a (.val l) _ => if a.who = .chain then some (p, l) else none
        | _ => none with
      | some (p, l) => .next (s.setTile n (({ t with inbox := t.inbox.erase p } : Tile).takeEntry s w l))
      | none => .next s
    else
      match s.translate n w.addr .read with
      | (.ok pa, s) =>
        let s := s.modTile n fun t => { t with chain := { t.chain with walk := some { w with asked := true } } }
        .next (s.sendAcc ⟨w.ent, n, pa, .read 64, .norm, .chain, w.addr⟩)
      | (.fault k, s) => .next (s.chainStop n k w.addr)
      | (.miss, s) => .next s

/-! ### Sectors (11 R233) -/

/-- Whether a command's first read may be made (10 R205): every earlier command has made its reads. -/
def Chain.acquired (c : Chain) (seq : Nat) : Bool := (c.act.takeWhile fun x => x.seq != seq).all CopyCmd.readAll

/-- The source bytes of a row that have been read, by their place in it. -/
def CopyCmd.rowBytes (c : CopyCmd) (r : Nat) : List (Nat × List Byte) :=
  c.got.filterMap fun g => match c.sector false g.1 with
    | some (q, lo, _) => if q = r then some (lo, g.2) else none
    | none => none

/-- The source bytes from lo to hi of a row, where all of them have been read. -/
def CopyCmd.have (c : CopyCmd) (r lo hi : Nat) : Option (List Byte) :=
  let parts := c.rowBytes r
  ((List.range (hi - lo)).mapM fun j =>
    parts.findSome? fun p => if p.1 ≤ lo + j then p.2[lo + j - p.1]? else none)

/-- The scale-table entry of the element at a bit position of the scratchpad, by the scale register of its own bank (04 R80,
R81, R84). DESIGN CHOICE (log 58): an entry at 0x30_0000 or above reads zero here, for no word reads it and 04 R83 names no
other trap. -/
def Tile.sclEntry (t : Tile) (f : Fmt) (scl : Vector W64 12) (pos : Nat) : Nat :=
  let r := entryOf scl.toList f (pos / 8) (pos % 8 / fmtBits f)
  readLe t.spad r.1 r.2

/-- The table entries of the elements in bytes lo to hi of a scratchpad row. -/
def Tile.copyTab (t : Tile) (c : CopyCmd) (r lo hi : Nat) : List Nat :=
  if c.same || !fmtScaled c.fmt then []
  else
    let b := fmtBits c.fmt
    (List.range ((hi * 8 + b - 1) / b - lo * 8 / b)).map fun i => t.sclEntry c.fmt c.scl (8 * c.sRow r + (lo * 8 / b + i) * b)

/-- The table entry of element i of a row, as it stood when the element was read (04 R84). -/
def CopyCmd.entry (c : CopyCmd) (r i : Nat) : Nat :=
  (c.tabs.findSome? fun p => match c.sector false p.1 with
    | some (q, lo, _) =>
      let e0 := lo * 8 / fmtBits c.fmt
      if q = r ∧ e0 ≤ i then p.2[i - e0]? else none
    | none => none).getD 0

/-- The bytes of a destination sector of a command, where its source has been read. A memory side in a scaled format has
no scale table that the rules name: each of its bytes is free (log 46). -/
def CopyCmd.make (c : CopyCmd) (free : List Byte) (r lo hi : Nat) : Option (List Byte) :=
  let (a, b) := c.needs lo hi
  (c.have r a b).map fun src =>
    if c.same then src
    else
      let (f, g) := if c.toMem then (c.fmt, sdMfmt c.sd) else (sdMfmt c.sd, c.fmt)
      if !c.toMem && fmtScaled f then (List.range (hi - lo)).map fun j => free.getD j 0
      else
        let e0 := lo * 8 / fmtBits g
        convBytes f g src (e0 * fmtBits f % 8 / fmtBits f) (fun i => c.entry r (e0 + i)) (lo - e0 * fmtBits g / 8) (hi - e0 * fmtBits g / 8)

/-- A source sector read: from the scratchpad after its pending bits clear, or by an access to memory. -/
def State.copyRead (s : State) (n : Nat) (c : CopyCmd) (k : Nat) : State :=
  match c.sector false k with
  | none => s
  | some (r, lo, hi) =>
    if c.asked.contains k then s
    else if c.toMem then
      let a := c.sRow r + lo
      let t := s.tile n
      if t.pendingAt (a / 32 * 32) 32 then s
      else s.setTile n (t.modCmd c.seq fun c => { c with
        asked := c.asked ++ [k], reads := c.reads ++ [k], got := c.got ++ [(k, readBytes t.spad a (hi - lo))]
        tabs := c.tabs ++ [(k, t.copyTab c r lo hi)] })
    else
      let va := w64 (c.gRow r + lo)
      match s.translate n va .read with
      | (.ok pa, s) =>
        (s.modTile n fun t => t.modCmd c.seq fun c => { c with asked := c.asked ++ [k] }).sendAcc
          ⟨c.ent, n, pa, .read (hi - lo), c.hint, .copyR c.seq k, va⟩
      | (.fault kind, s) => s.chainStop n kind va
      | (.miss, s) => s

/-- A destination sector written, of 32 bytes at most: sent to its home, or handed to COMMIT. -/
def State.copyWrite (s : State) (n : Nat) (c : CopyCmd) (k : Nat) : State :=
  match c.sector true k with
  | none => s
  | some (r, lo, hi) =>
    if c.wrote.contains k then s
    else
      let (w, s1) := s.freeBytes 4
      match c.make w r lo hi with
      | none => s
      | some l =>
        let mark (s : State) := s.modTile n fun t => t.modCmd c.seq fun c => { c with wrote := c.wrote ++ [k] }
        if c.toMem then
          let va := w64 (c.gRow r + lo)
          match s1.translate n va .write with
          | (.ok pa, s) => (mark s).sendAcc ⟨c.ent, n, pa, .write l, c.hint, .copyW c.seq k, va⟩
          | (.fault kind, s) => s.chainStop n kind va
          | (.miss, s) => s
        else
          let a := c.sRow r + lo
          (mark s1).modTile n fun t => { t with async := t.async ++
            [⟨1, 0, if sdIs c.sd then .istore a l else .spad a l, .copied c.seq k⟩] }

/-- COPY_SECTOR: one sector of a command in progress, an even index naming a source sector to be read and an odd one a
destination sector to be written. A command with an acquire flag first makes its INVAL (10 R205). -/
def execCopySector (tile cmd index : Nat) (s : State) : Out3 :=
  let n := tile % 256
  let t := s.tile n
  match t.chain.act.find? fun c => c.seq == cmd with
  | none => .next s
  | some c =>
    if !t.chainRuns || c.halt then .next s
    else if !c.open_ then
      if t.chain.acquired c.seq then
        let s := s.setTile n (t.modCmd c.seq fun c => { c with open_ := true })
        .next (if scopeInval (scopeOf (fld c.sd 30 3)) then s.inval (dieOf n) else s)
      else .next s
    else if index % 2 = 0 then .next (s.copyRead n c (index / 2))
    else .next (s.copyWrite n c (index / 2))

/-- Whether a command's release flag is served (10 R205): its writes, those of earlier commands, and every queue entry
before it have performed at its scope. -/
def Tile.released (t : Tile) (c : CopyCmd) : Bool :=
  !bitAt c.sd 29 ||
    let lvl := scopeLvl (scopeOf (fld c.sd 30 3))
    (t.led.all fun e => decide (c.ent ≤ e.id) || decide (lvl ≤ e.lvl)) && decide (lvl ≤ c.level)

/-- COPY_SEQ_COMMIT: the oldest command in progress completes: SEQ takes its number, ERR and ECODE its error. -/
def execCopySeqCommit (tile : Nat) (s : State) : Out3 :=
  let n := tile % 256
  let t := s.tile n
  match t.chain.act with
  | [] => .next s
  | c :: r =>
    if c.finished && t.released c then
      let ch := t.chain
      .next (s.setTile n { t with chain := { ch with
        act := r, seq := BitVec.ofNat 32 c.seq, err := ch.err || c.code != 0
        ecode := if ch.err || c.code == 0 then ch.ecode else c.code } })
    else .next s

end Sys2Proof.Machine
end

