-- ==== Sys2Proof/Machine/TensorMove.lean ====
section
/-! DEFINITION. COMMIT, and the moves of puts and gets: PUT_BEGIN, PUT_ARRIVE and their like (10 R188, R200, R205;
12 R254 to R256; 14 R308; 19 R364). -/

namespace Sys2Proof.Machine

/-! ### Inbox -/

/-- The packet of a kind at a place of a tile's inbox. One of its kind that came earlier on the same path goes first
(10 R206). -/
def Tile.arrived (t : Tile) (kind index : Nat) : Option (Nat × Pkt × Net) :=
  match t.inbox[index]? with
  | some (src, p) =>
    match p.body with
    | .net x =>
      if x.kind = kind && !((t.inbox.take index).any fun q => q.1 == src && match q.2.body with
          | .net y => y.kind == kind
          | _ => false) then some (src, p, x)
      else none
    | _ => none
  | none => none

def State.dropInbox (s : State) (n index : Nat) : State := s.modTile n fun t => { t with inbox := t.inbox.eraseIdx index }

/-! ### Acceptance (12 R255) -/

/-- Whether bytes lie within one bank, below the end of the scratchpad. -/
def inBank (a n : Nat) : Bool := n == 0 || (decide (a + n ≤ 0x300000) && a / 0x40000 == (a + n - 1) / 0x40000)

/-- Whether the task of a tile has left it for its frame: its frame is written while other tiles of the task still save, or a
frame is to be reinstated on it. -/
def State.inFrame (s : State) (n : Nat) (b : Bind) : Bool :=
  ((s.tile n).boot.any fun x => x.restore) || match s.runs.find? fun x => x.rcd == b.rcd with
    | some x => x.saves.contains b.rank
    | none => false

/-- Whether a task of the packet's partition holds the tile, and the class is that partition's: 0, or the code of PUTX. DEDUCED
(log 57): a tile whose task stands in its frame holds none, so that no put is committed and its count then lost (12 R256). -/
def State.entryCode (s : State) (n : Nat) (x : Net) : Nat :=
  match (s.tile n).task with
  | none => 1
  | some b =>
    let p := s.partE b.part
    if p.ptag ≠ x.ptag || s.inFrame n b then 1 else if !p.tcmask.getLsbD x.tc then 2 else 0

/-- The code of PUTX with which a put or get of n bytes at an address fails; 0 where it is accepted. -/
def State.acceptCode (s : State) (n : Nat) (x : Net) (a len : Nat) : Nat :=
  let c := s.entryCode n x
  if c ≠ 0 then c else if inBank a len then 0 else 3

/-- PUTX in the die ring of a target that refuses a put or get. -/
def State.refuseEvent (s : State) (n : Nat) (x : Net) (code : Nat) : State := s.putxDie (partyOf (dieOf n)) x code

/-! ### COMMIT (03 R56, 10 R188, 11 R215) -/

/-- PUTC, as a put is committed (20 R379). -/
def State.putcEvent (s : State) (n : Nat) (x : Net) : State :=
  s.tileEvent n 4 0x14 (x.spkg % 2 ^ 26 + x.stile % 256 * 2 ^ 26) (x.data.length + x.ctl % 1024 * 2 ^ 13 + x.ctl / 1024 % 2 * 2 ^ 23)

/-- A CACK with the tag of a contribution packet (14 R308, R317). -/
def State.sendCack (s : State) (n : Nat) (x : Net) : State :=
  s.route n { x with kind := 4, dpkg := x.spkg, dtile := x.stile, spkg := s.own, stile := n, daddr := 0, data := []
                     vc := 0, down := false, hops := 0, igrp := none, tree := 0 }

/-- Operand bytes staged from memory. A poisoned sector is consumed here: it is reported as class 5, and its bytes are not
written (19 R354); nor are those of a page that the host refuses to the partition's function, as class 26 (18 R338, R351), and of
one lost with its base die, as class 8 (12 R248, R250). -/
def State.stage (s : State) (n a pa k : Nat) : State :=
  let old := readBytes (s.tile n).spad a k
  let l := s.readPa pa k
  if hostBase ≤ pa && !s.hostTakes (((s.tile n).owner.map (·.vf)).getD 0) pa then s.report 26 14 n 0 pa 0
  else if s.lostAt pa then s.report 8 9 n 0 pa 0
  else if s.poisoned pa k then
    let l := (l.zip old).zipIdx.map fun p => if s.poisoned (pa + p.2) 1 then p.1.2 else p.1.1
    (s.report 5 13 n 0 pa 0).modTile n fun t => t.landWrite (.spad a l)
  else s.modTile n fun t => t.landWrite (.spad a l)

/-- One asynchronous write made, with what follows it. -/
def State.commitOne (s : State) (n : Nat) (w : Async) : State :=
  let s := match w.w with
    | .stage a pa k => s.stage n a pa k
    | x => s.modTile n fun t => t.landWrite x
  match w.done with
  | .nothing => s
  | .copied seq sec => s.modTile n fun t => t.copyDone seq sec
  | .put x => ((s.modTile n fun t => t.countMove 10 0 1).putcEvent n x).answerPut n x 0
  | .got x => s.tmEnd n x.cmd 0 x
  | .cack e inc x => if ((s.tile n).cent e).inc = inc then s.sendCack n x else s

/-- Whether what a release flag waits for has performed: every queue entry that slot A issued before, and the writes of the
earlier commands of the queue (10 R205). Those of a collective send (10 R187) have not while one of its packets has not been
sent, nor, where sending does not suffice for the scope, before its CACK (14 R317). -/
def Tile.tmReleased (t : Tile) (c : Tm) : Bool :=
  let past (id lvl : Nat) : Bool := decide (c.id ≤ id) || decide (scopeLvl c.scope ≤ lvl)
  !c.rel || ((t.led.all fun e => past e.id e.lvl) &&
    (t.tmq.all fun e => past e.id (if e.coll.isSome then 0 else e.lvl)) &&
    t.coll.all fun x => x.2.sent.all fun d => past d.cmd d.lvl)

/-- Whether an asynchronous write changes bytes of the scratchpad. -/
def AsyncW.isData : AsyncW → Bool
  | .spad _ _ | .accum _ _ _ _ _ => true
  | .istore _ _ | .count _ _ | .stage _ _ _ | .words _ _ _ | .event _ _ _ => false

/-- Whether a write waits for none that came before it: over one path every byte lands in its order, and whatever follows the
bytes lands after them (10 R200, R206); between paths no order is fixed (10 R210). -/
def inLane (before : List Async) (w : Async) : Bool :=
  w.lane == 0 || !before.any fun v => v.lane == w.lane && v.w.isData

/-- Whether the release of a command of a tile is served. One whose source has left its tile waits for nothing more. -/
def State.relServed (s : State) (n cmd : Nat) : Bool :=
  match (s.tile n).tm cmd with
  | some c => (s.tile n).tmReleased c
  | none => true

/-- Whether the release of a put of this package is served. -/
def State.putServed (s : State) (x : Net) : Bool := x.spkg != s.own || s.relServed x.stile x.cmd

/-- Whether the release of the put or get that a write completes is served (10 R205, 12 R254). -/
def State.servedRel (s : State) (n : Nat) (w : Async) : Bool :=
  match w.done with
  | .put x => s.putServed x
  | .got x => s.relServed n x.cmd
  | .nothing | .copied _ _ | .cack _ _ _ => true

/-- Whether RD holds a packet back: a put to another package, whose header has no field that tells the target of a release, is held
there until its release is served (10 R205). DESIGN CHOICE (log 58). -/
def State.holdsBack (s : State) (x : Net) : Bool := x.kind == 0 && !s.putServed x

/-- COMMIT: one asynchronous write that has reached a tile lands at the end of its cycle. Of the writes of one cycle those of a
higher precedence come later, and so stand (11 R215). -/
def execCommit (tile index : Nat) (s : State) : Out3 :=
  let n := tile % 256
  let t := s.tile n
  match t.async[index]? with
  | none => .next s
  | some w =>
    if t.comm ≤ w.prec + 1 && inLane (t.async.take index) w && s.servedRel n w then
      .next ((s.setTile n { t with comm := w.prec + 1, async := t.async.eraseIdx index }).commitOne n w)
    else .next s

/-! ### Bytes by sectors (11 R212, R216) -/

/-- The part of the next sector of a range, of which a number of bytes has been taken: address and length. -/
def nextPiece (a len got : Nat) : Nat × Nat :=
  let lo := a + got
  (lo, min (a + len) ((lo / 32 + 1) * 32) - lo)

/-- Asynchronous writes that have reached a tile. -/
def Tile.addAsync (t : Tile) (l : List Async) : Tile := { t with async := t.async ++ l }

/-- The lane of packets of a kind that come over the path from one end to a tile. -/
def laneOf (kind src : Nat) : Nat := 81 * kind + src + 1

/-- Writes of whole sectors, one asynchronous write each, in address order. -/
def sectorWrites (prec lane : Nat) (f : Nat → List Byte → AsyncW) : Nat → Nat → List Byte → List Async
  | 0, _, _ => []
  | k + 1, a, l =>
    if l.isEmpty then []
    else
      let n := 32 - a % 32
      ⟨prec, lane, f a (l.take n), .nothing⟩ :: sectorWrites prec lane f k (a + n) (l.drop n)

/-- The arrival counter and barrier that a header's CTL names (12 R254). -/
def ctlCount (ctl len : Nat) : AsyncW :=
  .count (if ctl / 2 ^ 10 % 2 = 1 then some (ctl % 1024) else none)
    (if ctl / 2 ^ 17 % 2 = 1 then some (ctl / 2 ^ 11 % 64, len) else none)

/-! ### Beginning (10 R200, R203 to R205; 12 R254) -/

/-- The first command that has not been sent. -/
def Tile.tmHead (t : Tile) : Option Tm := t.tmq.find? fun c => !c.sent

/-- Whether every earlier command of the queue has made its reads (10 R205). -/
def Tile.tmRead (t : Tile) (c : Tm) : Bool :=
  (t.tmq.filter fun e => e.id < c.id).all fun e => e.read

/-- Whether a command of the tile may begin now, or go on with its reads: one that a kill has found begun does (19 R357). -/
def Tile.tmBegins (t : Tile) (c : Tm) : Bool :=
  (if t.killed then !c.data.isEmpty else t.drn.isNone) && t.marksPass c.id c.get && (!c.acq || t.tmRead c)

/-- How far a put has performed once it has begun (10 R201). -/
def State.tmLevel (s : State) (n : Nat) (c : Tm) : Nat :=
  let m := tgtTile c.tgt
  if c.get then 1
  else if s.tgtPkg c.tgt ≠ s.own then 4
  else if dieOf m ≠ dieOf n then 3
  else if m ≠ n then 2
  else 1

/-- The packet of a put or a get. -/
def State.tmPacket (s : State) (n : Nat) (c : Tm) : Net :=
  let b : Net := { Net.reset with
    tc := fld c.ctl 27 3, dpkg := s.tgtPkg c.tgt, spkg := s.own, dtile := tgtTile c.tgt, stile := n, ctl := c.hdrCtl
    ptag := s.ptagOf (s.tile n), cmd := c.id }
  if c.get then { b with kind := 1, daddr := c.laddr, saddr := c.raddr, glen := c.len }
  else { b with kind := 0, daddr := c.raddr, data := c.data.flatMap (·.2) }

/-- Bytes of a command's source that have been read. -/
def Tm.got (c : Tm) : Nat := (c.data.map fun p => p.2.length).foldl (· + ·) 0

/-- A command whose source has been read is sent. Its release holds its final COMMIT alone. -/
def State.tmSend (s : State) (n : Nat) (c : Tm) : State :=
  (s.modTile n fun t => t.modTm c.id fun c => { c with sent := true }).route n (s.tmPacket n c)

/-- PUT_BEGIN: the head of the tensor-move queue makes its INVAL, reads its next source sector after the pending bits clear,
or is sent. A get reads nothing here. -/
def execPutBegin (tile : Nat) (s : State) : Out3 :=
  let n := tile % 256
  let t := s.tile n
  match t.tmHead with
  | none => .next s
  | some c =>
    if c.coll.isSome then .next s
    else if c.lvl ≠ 0 then .next (s.tmSend n c)
    else if !t.tmBegins c then .next s
    else if c.acq && scopeInval c.scope && !c.inv then
      .next ((s.modTile n fun t => t.modTm c.id fun c => { c with inv := true }).inval (dieOf n))
    else
      let begun (s : State) (c : Tm) : State :=
        let c := { c with lvl := s.tmLevel n c, read := !c.get }
        (s.modTile n fun t => t.modTm c.id fun _ => c).tmSend n c
      if c.get || c.len == 0 then .next (begun s c)
      else
        let (a, k) := nextPiece c.laddr c.len c.got
        if t.pendingAt (a / 32 * 32) 32 then .next s
        else
          let c := { c with data := c.data ++ [(a, readBytes t.spad a k)] }
          .next (if c.got = c.len then begun s c else s.modTile n fun t => t.modTm c.id fun _ => c)

/-! ### Arriving (12 R254 to R256) -/

/-- PUT_ARRIVE: a put is accepted, its sectors handed to COMMIT and its count after them; or it fails. -/
def execPutArrive (tile index : Nat) (s : State) : Out3 :=
  let n := tile % 256
  match (s.tile n).arrived 0 index with
  | none => .next s
  | some (src, _, x) =>
    let s := s.dropInbox n index
    let code := s.acceptCode n x x.daddr x.data.length
    if code = 0 then
      .next (s.modTile n fun t => t.addAsync
        (sectorWrites 2 (laneOf 0 src) (fun a l => .spad a l) (x.data.length + 1) x.daddr x.data ++
          [⟨2, laneOf 0 src, ctlCount x.ctl x.data.length, .put x⟩]))
    else .next ((s.refuseEvent n x code).answerPut n x code)

/-- GETRQ_ARRIVE: a get is served sector by sector, after the pending bits clear, and answered with its bytes; or it
fails. Across packages a failed get has no answer. -/
def execGetrqArrive (tile index : Nat) (s : State) : Out3 :=
  let n := tile % 256
  let t := s.tile n
  match t.arrived 1 index with
  | none => .next s
  | some (src, p, x) =>
    let code := if x.data.isEmpty then s.acceptCode n x x.saddr x.glen else 0
    if code ≠ 0 then
      let s := (s.dropInbox n index).refuseEvent n x code
      .next (if x.spkg = s.own then s.answerPut n x code else s)
    else
      let answer (s : State) (l : List Byte) : State :=
        let s := if x.spkg = s.own then s.modTile x.stile fun t => t.modTm x.cmd fun c => { c with read := true } else s
        (s.dropInbox n index).route n { Net.reset with
          kind := 2, tc := x.tc, dpkg := x.spkg, spkg := s.own, dtile := x.stile, stile := n, daddr := x.daddr, ctl := x.ctl
          ptag := x.ptag, rtag := x.rtag, cmd := x.cmd, data := l }
      if x.glen = 0 then .next (answer s [])
      else
        let (a, k) := nextPiece x.saddr x.glen x.data.length
        if t.pendingAt (a / 32 * 32) 32 then .next s
        else
          let l := x.data ++ readBytes t.spad a k
          .next (if x.glen ≤ l.length then answer s l
            else s.setTile n { t with inbox := t.inbox.set index (src, { p with body := .net { x with data := l } }) })

/-- GETRS_ARRIVE: a get's bytes handed to COMMIT at its own tile, and its count after them. -/
def execGetrsArrive (tile index : Nat) (s : State) : Out3 :=
  let n := tile % 256
  let t := s.tile n
  match t.arrived 2 index with
  | none => .next s
  | some (src, _, x) =>
    match t.tm x.cmd with
    | none => .next (s.dropInbox n index)
    | some c =>
      .next ((s.dropInbox n index).modTile n fun t => (t.modTm x.cmd fun c => { c with read := true }).addAsync
        (sectorWrites 3 (laneOf 2 src) (fun a l => .spad a l) (c.len + 1) c.laddr (x.data.take c.len) ++
          [⟨3, laneOf 2 src, ctlCount c.hdrCtl c.len, .got x⟩]))

/-- PACK_ARRIVE: the answer to a put. One from another package names no cause of a failure, so its code is free. -/
def execPackArrive (tile index : Nat) (s : State) : Out3 :=
  let n := tile % 256
  match (s.tile n).arrived 10 index with
  | none => .next s
  | some (_, _, x) =>
    let s := s.dropInbox n index
    let (k, s) := s.freeNat
    let code := if x.spkg = s.own then x.code else if x.ctl / 2 ^ 18 % 2 = 1 then 1 + k % 5 else 0
    .next (s.tmEnd n x.cmd code x)

/-! ### The router's timeout (19 R364) -/

/-- The end of a request to another package at the router's timeout: a get fails, and a put is unconfirmed. -/
def State.expire (s : State) (r : Req) (cls code : Nat) : State :=
  let s := s.reportAt 5 cls 11 r.pkt.stile 0
  s.tmEnd r.pkt.stile r.pkt.cmd (if r.pkt.kind = 0 then 6 else code) r.pkt

/-- The end of a request at the group's timeout: it fails, be it a put or a get. -/
def State.failReq (s : State) (r : Req) (cls code : Nat) : State :=
  (s.reportAt 5 cls 11 r.pkt.stile 0).tmEnd r.pkt.stile r.pkt.cmd code r.pkt

/-- ROUTER_TIMEOUT: a get fails; a put is reported as unconfirmed. The timer of a request to a package that reports HELD is
suspended (19 R365); that of a put which RD holds back has not begun. -/
def execRouterTimeout (index : Nat) (s : State) : Out3 :=
  match s.fab.reqs[index]? with
  | none => .next s
  | some r =>
    if s.fab.held.contains r.pkt.dpkg || s.holdsBack r.pkt then .next s
    else .next (({ s with fab := { s.fab with reqs := s.fab.reqs.eraseIdx index } } : State).expire r 14 5)

end Sys2Proof.Machine
end

