-- ==== Sys2Proof/Machine/Collective.lean ====
section
/-! DEFINITION. The collective words and moves (14 R317 to R328, 21 R404). -/

namespace Sys2Proof.Machine

/-! ### CTBL's checks (14 R324) -/

/-- Whether a peer's target word breaks the rules. -/
def peerBad (pval : Bool) (g : W64) : Bool :=
  let here := bitAt g 34
  fld g 35 29 != 0 || (here && fld g 0 26 != 0) || (!here && !pval) || (!here && badPkg (fld g 0 26))

/-- Whether a range that begins within the scratchpad leaves its bank. -/
def leavesBank (a n : Nat) : Bool := n != 0 && decide (a < 0x300000) && a / 0x40000 != (a + n - 1) / 0x40000

/-- Step 2: what raises ILL. -/
def collIll (pval : Bool) (mask : BitVec 8) (x : CEnt) : Bool :=
  decide (8 ≤ x.op) || decide (8 < x.npeer) || decide (x.npeer < x.nfin) || decide (8 ≤ x.tc) || badTc mask x.tc ||
    decide (2 ^ 22 ≤ x.source) || decide (65536 < x.nwords) || decide (2 ^ 22 ≤ x.res) || decide (2 ^ 20 < x.expect) ||
    decide (2 ^ 22 ≤ x.raddr) || decide (512 ≤ x.next) || x.fieldAt 30 2 != 0 || (x.img.drop 96).any (· != 0) ||
    ((List.range 8).any fun j => if j < x.npeer then peerBad pval (x.peer j) else x.peer j != 0) ||
    leavesBank x.source (4 * x.nwords) || leavesBank x.res (4 * x.expect)

/-- The first address of a range at or above the end of the scratchpad. -/
def collBeyond (a n : Nat) : Option Nat := if n ≠ 0 ∧ 0x300000 < a + n then some (max a 0x300000) else none

/-- The checks of CTBL in their order. -/
def ctblTrap (pval : Bool) (mask : BitVec 8) (t : Tile) (e : Nat) (at_ : W64) : Option TrapReq :=
  let a := at_.toNat
  if !inBank a 128 then some ⟨.spmap, 0, some at_⟩
  else if a % 8 ≠ 0 then some ⟨.align, 0, some at_⟩
  else
    let x : CEnt := { CEnt.reset with img := readBytes t.spad a 128 }
    if (t.cent e).state = 1 ∨ collIll pval mask x then some ⟨.ill, 4, none⟩
    else match collBeyond x.source (4 * x.nwords) with
      | some v => some ⟨.spmap, 0, some (w64 v)⟩
      | none =>
        match collBeyond x.res (4 * x.expect) with
        | some v => some ⟨.spmap, 0, some (w64 v)⟩
        | none =>
          match [x.source, x.res, x.raddr].find? fun v => v % 4 != 0 with
          | some v => some ⟨.align, 0, some (w64 v)⟩
          | none => none

def execCtbl (a b : Src) (s : State) : Out3 :=
  let mask := s.tcmask (s.tile s.cur.tile)
  runWord s { srcs := [a, b] } fun t v =>
    let e := (nth v 0).toNat
    if 256 ≤ e then Plan.ill4
    else {
      trap := ctblTrap s.pval mask t e (nth v 1)
      act := fun u => u.atEnd (.ctbl e (readBytes t.spad (nth v 1).toNat 128))
      retire := t.cyc }

/-- The entry as a CTBL of a number leaves it at the end of its cycle. -/
def CEnt.armed (img : List Byte) (inc : Nat) : CEnt :=
  let x : CEnt := { CEnt.reset with img := img, state := 1, inc := inc }
  { x with locl := x.expect == 0 }

/-! ### Firing (14 R317, R319, R325) -/

/-- An armed entry fired: a command for each peer enters the tensor-move queue, or SRCREU is raised at once. -/
def Tile.fireColl (t : Tile) (e : Nat) : Tile :=
  let x := t.cent e
  if x.npeer = 0 ∨ x.nwords = 0 then
    { (t.setCent e { x with fired := true }) with async := t.async ++ [⟨3, 0, .event e x.inc 0, .nothing⟩] }
  else
    { (t.setCent e { x with fired := true, left := x.npeer * x.packets }) with
      ids := t.ids + x.npeer
      tmq := t.tmq ++ (List.range x.npeer).map fun j =>
        ⟨t.ids + j, t.cyc, false, x.peer j, 0, 0, 5, [], false, false, false, some (e, j, 0)⟩ }

def execCready (a : Src) (s : State) : Out3 :=
  runWord s { srcs := [a] } fun t v =>
    let e := (nth v 0).toNat
    let x := t.cent e
    if 256 ≤ e ∨ x.state = 0 ∨ (x.state = 1 ∧ x.fired) then Plan.ill4
    else {
      wait := if 64 ≤ t.tmq.length then some .busy else none
      act := fun u => if x.state = 1 then u.fireColl e else u
      retire := t.cyc }

/-! ### Aborting (14 R320) -/

/-- A control packet of an entry. -/
def State.collNet (s : State) (n : Nat) (e : Nat) (x : CEnt) (kind : Nat) (g : W64) : Net :=
  { Net.reset with
    kind := kind, tc := x.tc, dpkg := s.tgtPkg g, spkg := s.own, dtile := tgtTile g, stile := n, ptag := s.ptagOf (s.tile n)
    cid := x.cid, step := x.step, src := x.rank, ent := e, op := x.op }

/-- A control packet sent to every peer other than the tile itself. -/
def State.tellPeers (s : State) (n e kind : Nat) : State :=
  let x := (s.tile n).cent e
  (List.range x.npeer).foldl (fun s j =>
    if s.tgtPkg (x.peer j) = s.own ∧ tgtTile (x.peer j) = n then s else s.route n (s.collNet n e x kind (x.peer j))) s

/-- A member becomes aborted: it sends nothing more of the entry. -/
def Tile.abortColl (t : Tile) (e : Nat) : Tile :=
  { (t.modCent e fun x => { x with state := 3, sent := [], left := 0, due := false }) with
    tmq := t.tmq.filter fun c => match c.coll with
      | some (f, _, _) => f != e
      | none => true }

/-- An armed member aborts, and tells its peers. -/
def State.abortMember (s : State) (n e : Nat) : State := (s.modTile n fun t => t.abortColl e).tellPeers n e 6

def execCabort (a : Src) (s : State) : Out3 :=
  runWord s { srcs := [a] } fun t v =>
    let e := (nth v 0).toNat
    if 256 ≤ e then Plan.ill4
    else {
      sys := fun s => if (t.cent e).state = 1 then s.abortMember s.cur.tile e else s
      retire := t.cyc }

/-! ### Waiting and reading (14 R326, R327) -/

/-- The events of an entry as a mask: SRCREU, LOCAL, ALLFIN. -/
def CEnt.events (x : CEnt) : Nat := fld x.status 0 3

def execCevw (d : Fin 32) (a b : Src) (s : State) : Out3 :=
  runWord s { srcs := [a, b] } fun t v =>
    let e := (nth v 0).toNat
    let m := (nth v 1).toNat
    let x := t.cent e
    if 256 ≤ e ∨ 8 ≤ m then Plan.ill4
    else {
      outs := [(.s d, 1)]
      wait := if x.events &&& m = m ∨ x.state = 3 ∨ x.abrx then none else some .event
      act := fun u => u.schedS .a d (u.cyc + 1) x.status
      retire := t.cyc }

def execCstatColl (d : Fin 32) (a : Src) (clr : Bool) (s : State) : Out3 :=
  runWord s { srcs := [a] } fun t v =>
    let e := (nth v 0).toNat
    if 256 ≤ e then Plan.ill4
    else {
      outs := [(.s d, 1)]
      act := fun u =>
        let u := u.schedS .a d (u.cyc + 1) (t.cent e).status
        if clr then u.atEnd (.cclr e) else u
      retire := t.cyc }

/-- What these words leave to the end of the cycle. -/
def Tile.endColl (t : Tile) : Eoc → Tile
  | .ctbl e img => ({ t with ids := t.ids + 1 } : Tile).setCent e (CEnt.armed img (t.ids + 1))
  | .cclr e => t.modCent e fun x => { x with dups := 0, ovr := false, nxerr := false }
  | _ => t

/-! ### Finishing (14 R319, 21 R404) -/

/-- The stagger of a barrier entry's ALLFIN, in units of 10 ns. -/
def State.stagger (s : State) : Nat := s.member.toNat % max 1 (fld s.slew 48 8) * fld s.slew 56 8

/-- A member that has LOCAL and SRCREU finishes: it tells its peers and fires NEXT. -/
def State.finishMember (s : State) (n e : Nat) : State :=
  let x := (s.tile n).cent e
  if x.state = 1 ∧ x.locl ∧ x.srcreu then
    let s := (s.modTile n fun t => t.setCent e { x with state := 2 }).tellPeers n e (if x.isBarrier then 7 else 5)
    if x.next / 256 = 1 then
      let y := (s.tile n).cent (x.next % 256)
      if y.state = 1 ∧ !y.fired then s.modTile n fun t => t.fireColl (x.next % 256)
      else s.modTile n fun t => t.modCent e fun x => { x with nxerr := true }
    else s
  else s

/-- A finished member whose FINs are all in raises ALLFIN; a barrier entry's waits for its stagger. -/
def State.allFinMember (s : State) (n e : Nat) : State :=
  let x := (s.tile n).cent e
  if x.state = 2 ∧ !x.abrx ∧ !x.allfin ∧ !x.due ∧ x.nfin ≤ x.fins.length then
    s.modTile n fun t =>
      let t := t.setCent e { x with due := true }
      if x.isBarrier ∧ s.stagger ≠ 0 then t else { t with async := t.async ++ [⟨3, 0, .event e x.inc 2, .nothing⟩] }
  else s

/-- Every entry of a tile settled, once the writes of a cycle are made. A killed member begins nothing more (19 R357). -/
def State.settleColl (s : State) (n : Nat) : State :=
  if (s.tile n).killed then s
  else ((s.tile n).coll.map (·.1)).foldl (fun s e => (s.finishMember n e).allFinMember n e) s

/-- ALLFIN_RELEASE: the stagger of a barrier entry is over. -/
def execAllfinRelease (tile entry : Nat) (s : State) : Out3 :=
  let n := tile % 256
  let x := (s.tile n).cent entry
  if x.due && !x.allfin && x.isBarrier then
    .next (s.modTile n fun t => { t with async := t.async ++ [⟨3, 0, .event entry x.inc 2, .nothing⟩] })
  else .next s

/-! ### Sending contributions (14 R317, R318) -/

/-- A contribution packet to a peer. -/
def State.contribNet (s : State) (n e : Nat) (x : CEnt) (j k : Nat) (data : List Byte) : Net :=
  { s.collNet n e x 3 (x.peer j) with daddr := (x.raddr + 4096 * k) % 2 ^ 22, seq := k, data := data }

/-- The timers of the contribution packets that await the CACK of a target suspended, each with its event (19 R365). -/
def State.suspendSent (s : State) (sel : W64 → Bool) : State :=
  s.tiles.foldl (fun s e =>
    (e.2.coll.flatMap fun c => c.2.sent.map fun d => c.2.peer d.peer).foldl (fun s g =>
      if sel g then s.suspend (partyOf (dieOf e.1)) (s.tgtPkg g) 1 else s) s) s

/-- CONTRIB_BEGIN: the contribution at the head of the tensor-move queue reads its next source sector; each packet is sent
once read, and the command ends with its last packet. -/
def execContribBegin (tile : Nat) (s : State) : Out3 :=
  let n := tile % 256
  let t := s.tile n
  match t.tmHead with
  | none => .next s
  | some c =>
    match c.coll with
    | none => .next s
    | some (e, j, k) =>
      let x := t.cent e
      let (a, len) := x.piece k
      let (p, m) := nextPiece a len c.got
      if ((t.drn.isSome || t.killed) && k == 0 && c.data.isEmpty) || !t.marksPass c.id false || t.pendingAt (p / 32 * 32) 32 then .next s
      else
        let c := { c with data := c.data ++ [(p, readBytes t.spad p m)] }
        if c.got < len then .next (s.setTile n (t.modTm c.id fun _ => c))
        else
          let data := c.data.flatMap (·.2)
          let t := t.setCent e { x with sent := x.sent ++ [⟨j, k, data, 0, c.id, s.tmLevel n c⟩], left := x.left - 1 }
          let t := if k + 1 < x.packets then t.modTm c.id fun _ => { c with data := [], coll := some (e, j, k + 1) }
            else { t with tmq := t.tmq.filter fun d => d.id != c.id }
          let s := s.setTile n t
          let s := if s.heldTarget (x.peer j) then s.suspend (partyOf (dieOf n)) (s.tgtPkg (x.peer j)) 1 else s
          .next (s.route n (s.contribNet n e x j k data))

/-- CONTRIB_RESEND, whose timer is suspended while its target reports HELD: a packet without a CACK after RTR is sent again, at most 3 times; then the entry sets FAIL and the member
aborts. Which of several packets expires first is free. -/
def execContribResend (tile entry : Nat) (s : State) : Out3 :=
  let n := tile % 256
  let x := (s.tile n).cent entry
  let (f, s) := s.freeNat
  match x.sent[f % max 1 x.sent.length]? with
  | none => .next s
  | some c =>
    if s.heldTarget (x.peer c.peer) then .next s
    else
    let s := s.report 14 10 n 1 0 0
    if c.tries < 3 then
      let again (d : CSend) : CSend := if d = c then { d with tries := d.tries + 1 } else d
      .next ((s.modTile n fun t => t.setCent entry { x with sent := x.sent.map again }).route n
        (s.contribNet n entry x c.peer c.seq c.data))
    else
      .next (((s.modTile n fun t => t.setCent entry { x with fail := true }).report 17 10 n 1 0 0).abortMember n entry)

/-! ### Receiving (14 R317 to R320) -/

/-- The tag of a packet as events bear it (20 R379). -/
def Net.tag (x : Net) : Nat := x.cid % 2 ^ 16 + x.step % 256 * 2 ^ 16 + x.src % 256 * 2 ^ 24 + x.seq % 64 * 2 ^ 32

/-- Whether a packet is of the collective that its entry holds. -/
def CEnt.live (x : CEnt) (p : Net) : Bool := x.state != 0 && x.cid == p.cid && x.step == p.step

/-- A stale packet, counted in the die counters. -/
def State.stale (s : State) (n : Nat) : State := s.dieCount (partyOf (dieOf n)) 8 1

/-- Why a contribution is not applied: the code of CONTX, or 0. -/
def CEnt.refuses (x : CEnt) (p : Net) : Nat :=
  let w := p.data.length / 4
  let srcs := (x.tags.map (·.1)).eraseDups
  if p.op ≠ x.op then 2
  else if p.daddr < x.res ∨ x.res + 4 * x.expect < p.daddr + p.data.length then 3
  else if !srcs.contains p.src && decide (8 ≤ srcs.length) then 4
  else if x.expect < x.taken + w then 5
  else 0

/-- CONTRIB_RECEIVE: the checks of 14 R317 in their order. -/
def execContribReceive (tile index : Nat) (s : State) : Out3 :=
  let n := tile % 256
  match (s.tile n).arrived 3 index with
  | none => .next s
  | some (src, _, p) =>
    let s := s.dropInbox n index
    let e := p.ent % 256
    let x := (s.tile n).cent e
    if s.entryCode n p ≠ 0 then .next (s.dieRecord (partyOf (dieOf n)) (s.partTagged p.ptag) (s.holdsTile n) 0x1C p.tag
      (e + 256))
    else if !x.live p then .next (s.stale n)
    else if x.tags.contains (p.src, p.seq) then
      .next (((s.modTile n fun t => t.setCent e { x with dups := min (x.dups + 1) 65535 }).tileEvent n 4 0x16 p.tag e).sendCack n p)
    else if x.state = 3 then .next (s.sendCack n p)
    else
      let code := x.refuses p
      if code ≠ 0 then
        .next (((s.modTile n fun t => t.setCent e { x with ovr := true }).tileEvent n 4 0x1C p.tag (e + code * 256)).sendCack n p)
      else
        .next (s.modTile n fun t =>
          let t := t.setCent e { x with tags := x.tags ++ [(p.src, p.seq)], taken := x.taken + p.data.length / 4 }
          t.addAsync (sectorWrites 2 (laneOf 3 src) (fun a l => .accum e x.inc x.op a l) (p.data.length + 1) p.daddr p.data ++
            [⟨2, laneOf 3 src, .words e x.inc (p.data.length / 4), .cack e x.inc p⟩]))

/-- CACK_RECEIVE: the contribution packet whose tag and peer a CACK bears (14 R317, R318) is released; with the last one SRCREU is raised. -/
def execCackReceive (tile index : Nat) (s : State) : Out3 :=
  let n := tile % 256
  match (s.tile n).arrived 4 index with
  | none => .next s
  | some (_, _, p) =>
    let s := s.dropInbox n index
    let e := p.ent % 256
    let x := (s.tile n).cent e
    let mine (c : CSend) : Bool :=
      c.seq == p.seq && x.rank == p.src && s.tgtPkg (x.peer c.peer) == p.spkg && tgtTile (x.peer c.peer) == p.stile
    match x.sent.find? mine with
    | none => .next s
    | some c =>
      if !x.live p then .next s
      else
        let x := { x with sent := x.sent.erase c }
        .next (s.modTile n fun t =>
          let t := t.setCent e x
          if x.sent.isEmpty ∧ x.left = 0 then { t with async := t.async ++ [⟨3, 0, .event e x.inc 0, .nothing⟩] } else t)

/-- Whether an entry names a tile of a package as a peer. -/
def State.namesPeer (s : State) (x : CEnt) (pkg tile : Nat) : Bool :=
  (List.range x.npeer).any fun j => s.tgtPkg (x.peer j) == pkg && tgtTile (x.peer j) == tile

/-- A FIN or BREL counted, once for each peer that the entry names (14 R319). -/
def State.takeFin (s : State) (n kind index : Nat) : State :=
  match (s.tile n).arrived kind index with
  | none => s
  | some (_, _, p) =>
    let s := s.dropInbox n index
    let e := p.ent % 256
    let x := (s.tile n).cent e
    let key := p.spkg * 256 + p.stile
    if s.entryCode n p ≠ 0 then s
    else if !x.live p then s.stale n
    else if x.fins.contains key || !s.namesPeer x p.spkg p.stile then s
    else s.modTile n fun t => t.setCent e { x with fins := x.fins ++ [key] }

def execFinReceive (tile index : Nat) (s : State) : Out3 := .next (s.takeFin (tile % 256) 5 index)
def execBrelReceive (tile index : Nat) (s : State) : Out3 := .next (s.takeFin (tile % 256) 7 index)

/-- ABORT_RECEIVE: an armed member aborts; a completed one sets ABRX and forwards the ABORT once. -/
def execAbortReceive (tile index : Nat) (s : State) : Out3 :=
  let n := tile % 256
  match (s.tile n).arrived 6 index with
  | none => .next s
  | some (_, _, p) =>
    let s := s.dropInbox n index
    let e := p.ent % 256
    let x := (s.tile n).cent e
    if s.entryCode n p ≠ 0 then .next s
    else if !x.live p then .next (s.stale n)
    else if x.state = 1 then .next (s.abortMember n e)
    else if x.state = 2 ∧ !x.abrx then
      .next ((s.modTile n fun t => t.setCent e { x with abrx := true, due := false }).tellPeers n e 6)
    else .next s

end Sys2Proof.Machine
end

