-- ==== Sys2Proof/Machine/Records.lean ====
section
/-! DEFINITION. The task graph: records made READY, ended, poisoned; tasks killed, saved and completed (13 R266, R267, R274,
R285, R292; 18 R345; 19 R357). -/

namespace Sys2Proof.Machine

/-! ### Events and the pool (13 R266, R268) -/

def State.recev (s : State) (r code : Nat) : State := s.dieEvent 0 none 0x28 r code

/-- A record READY: it enters the pool behind its peers. -/
def State.makeReady (s : State) (r : Nat) : State :=
  let s := s.setRecState r recReady
  { s with pool := s.pool ++ [⟨r, s.recPrio r, 0⟩] }

/-- A BUILT record armed. -/
def State.armRec (s : State) (r : Nat) : State :=
  if s.recPred r = 0 then s.makeReady r else s.setRecState r recArmed

/-- A successor decrement. -/
def State.decrement (s : State) (r : Nat) : State :=
  let st := s.recState r
  if st = recBuilt ∨ st = recArmed then
    if s.recPred r = 0 then s.recev r 1
    else
      let s := s.setRec r 4 2 (s.recPred r - 1)
      if st = recArmed ∧ s.recPred r = 0 then s.makeReady r else s
  else s.recev r 3

/-! ### The end of a record (13 R267, R274, R275; 19 R371, R372) -/

/-- A record's outcome: its journal entry, its completion record, its state; its pins are released. -/
def State.endRec (s : State) (r : Nat) (d : Dead) : State :=
  let s := { s with
    pool := s.pool.filter fun e => e.rcd != r
    resv := s.resv.filter fun e => e.rcd != r }
  let s := s.journalDev (if d.status = 0 then jDone else jFailed) r (s.rinf r).jref
    (if d.status = 0 then 0 else d.status + d.cls % 32 * 2 ^ 8 + d.src % 16 * 2 ^ 16 + fld d.trapc 0 32 * 2 ^ 32)
  let s := s.complete r d.status d.trapc d.trapv
  let s := s.setRinf r { s.rinf r with pins := [], saved := false, res := false }
  { s.setRecState r (if d.status = 0 then recDone else recPoisoned) with saved := s.saved.filter fun e => e.1 / 256 != r }

/-- Whether a successor is a record of a partition: one partition's graph alters no other's records (18 R338, R350). -/
def State.recMine (s : State) (p r : Nat) : Bool := s.recState r == recFree || s.recPart r == p

/-- The decrement of a successor by a record of a partition. DEDUCED (log 57): another partition's record counts as one that is not
BUILT or ARMED. -/
def State.decrementBy (s : State) (p r : Nat) : State := if s.recMine p r then s.decrement r else s.recev r 3

/-- Poisoning along the graph of a partition, in the order it reaches each record. -/
def State.poison_ (s : State) (p : Nat) : Nat → List Nat → State
  | 0, _ => s
  | _ + 1, [] => s
  | n + 1, r :: l =>
    if s.recMine p r ∧ (s.recState r = recBuilt ∨ s.recState r = recArmed) then
      (s.endRec r ⟨3, 0, 0, 0, 0⟩).poison_ p n (l ++ s.recSuccs r)
    else s.poison_ p n l

/-- A record POISONED, and with it its successors. -/
def State.poisonRec (s : State) (r : Nat) (d : Dead) : State :=
  let l := s.recSuccs r
  (s.endRec r d).poison_ (s.recPart r) 600000 l

/-! ### Running tasks -/

def State.run (s : State) (r : Nat) : Option Run := s.runs.find? fun x => x.rcd == r
def State.modRun (s : State) (r : Nat) (f : Run → Run) : State :=
  { s with runs := s.runs.map fun x => if x.rcd = r then f x else x }

/-- The run of the task on a tile. -/
def State.runOf (s : State) (n : Nat) : Option Run := (s.tile n).task.bind fun b => s.run b.rcd

/-- A tile freed: it holds no task. Its registers, store and scratchpad keep their contents (13 R274, 18 R336). -/
def Tile.release (t : Tile) : Tile :=
  let t := allSlots.foldl (fun t k => t.modSlot k fun x => { x with
    running := false, stub := false, drained := none, stall := none, joined := false, mark := 0, pre := .none }) t
  { t with
    task := none, killed := false, drn := none, preq := none, boot := none, reqs := [], fence := none, double := none
    flaws := [], wdog := none, invals := [], qpts := [], inh := false, trapT := none, heldC := none, hEnded := false
    ents := [], laq := [], saq := [], lq := [], sq := [], back := [], chain := .reset, tmq := [], coll := []
    inbox := t.inbox.filter fun p => match p.2.body with
      | .resp _ _ _ => false
      | _ => true }

/-- A task off its tiles. -/
def State.unbind (s : State) (x : Run) : State :=
  let s := x.tiles.foldl (fun s n => s.modTile n Tile.release) s
  { s with runs := s.runs.filter fun y => y.rcd != x.rcd }

/-- Whether no answer of a chain read is awaited. -/
def Tile.walkHere (t : Tile) : Bool :=
  t.chain.walk.all fun w => !w.asked || t.inbox.any fun p => match p.2.body with
    | .resp a _ _ => a.who == .chain
    | _ => false

/-- Whether nothing of a tile's accesses is on its way: none is unperformed, and no answer of a chain read is awaited. -/
def Tile.still (t : Tile) : Bool :=
  t.led.isEmpty && !t.awaiting && t.chain.atRest && t.tmq.isEmpty && t.async.isEmpty &&
    (t.coll.all fun e => e.2.sent.isEmpty) && t.walkHere

/-- Whether a task's part on a tile has ended: every slot at TASKEND, and every access performed at SYS scope (13 R274). -/
def Tile.ended (t : Tile) : Bool := allSlots.all fun k => !(t.slot k).running

/-- Whether no result of a word is still to be written, the engine is at rest, and every error that a word has met is recorded: a
slot's results in flight are written after its TASKEND (05 R110). -/
def Tile.written (t : Tile) : Bool :=
  t.pend.isEmpty && t.vjobs.isEmpty && t.eng.cmd.isNone && t.eng.upds.isEmpty && t.flaws.isEmpty

def Tile.over_ (t : Tile) : Bool :=
  t.ended && t.written && (!t.inh || t.hEnded) && t.boot.isNone && t.fence.isNone && t.ents.isEmpty && t.still && t.chain.act.isEmpty &&
    (t.chain.win.all fun e => !e.pub) && t.chain.walk.isNone && t.drn.isNone

/-! ### Killing (19 R357) -/

/-- A task killed or lost: the first cause stands. -/
def State.kill (s : State) (r : Nat) (d : Dead) : State :=
  match s.run r with
  | some x =>
    if x.dead.isSome then s
    else (x.tiles.foldl (fun s n => s.modTile n Tile.kill) s).modRun r fun x => { x with dead := some d, req := none }
  | none => s

/-! ### Requests and saves (13 R285, R292, R293; 18 R345) -/

/-- A pre-emption request to every tile of a task but those named. One request at a time (13 R297). -/
def State.request (s : State) (r reason : Nat) (pager : Bool) (except_ : List Nat) : State :=
  match s.run r with
  | some x =>
    if x.req.isSome || x.dead.isSome then s
    else
      let s := s.modRun r fun x => { x with req := some reason, pager := pager, saves := [] }
      (x.tiles.filter fun n => !except_.contains n).foldl (fun s n =>
        s.modTile n fun t => { t with reqs := t.reqs ++ [reason] }) s
  | none => s

/-- The frames of all tiles complete: the record returns to READY, or as YIELD states. A held resolve makes a yielded record READY
and is used up; through any other save it stays held. -/
def State.saveDone (s : State) (x : Run) : State :=
  let s := s.unbind x
  let held := (s.rinf x.rcd).res
  let s := s.setRinf x.rcd { s.rinf x.rcd with saved := true, res := held && !x.pager }
  if x.pager ∧ !held then (s.setRec x.rcd 4 2 1).setRecState x.rcd recArmed else s.makeReady x.rcd

/-- CD's application of a resolve (18 R345). -/
def State.resolveRec (s : State) (r : Nat) : State :=
  if s.recState r = recArmed then s.decrement r
  else if s.recState r = recRunning then s.setRinf r { s.rinf r with res := true }
  else s.recev r 2

/-! ### TASK_END (13 R274) -/

/-- The out and inout operands written back from the tile of rank 0. -/
def State.writeBack (s : State) (x : Run) : State :=
  let t := s.tile (x.tiles.headD 0)
  (s.opnds x.rcd).foldl (fun s o =>
    if o.isOut then s.pinStore (s.rinf x.rcd).pins o.gad (readRange t.spad o.sad o.len) else s) s

/-- A task that has ended: write-back, completion, successors, tiles. -/
def State.taskDone (s : State) (x : Run) : State :=
  let s := (s.writeBack x).endRec x.rcd ⟨0, 0, 0, 0, 0⟩
  ((s.recSuccs x.rcd).foldl (fun s r => s.decrementBy (s.recPart x.rcd) r) s).unbind x

/-! ### Clearing a tile (18 R336, R337), and the end of a kill (19 R357) -/

/-- The resident image of an entry; zeros where it was lost with its base die (12 R250). -/
def State.resident (s : State) (e : PartE) : List Byte :=
  if s.lostAt e.resimg then List.replicate 0x8000 0 else s.readBulk e.resimg 0x8000

/-- A tile cleared, with its resident area loaded. It is the entry's from then on. DEDUCED (log 57): what START leaves of
the earlier owner's task, the handler bank, the trap record and the counters' selection, is cleared too, so that no word of the
new owner reads it (18 R350); the cycle count of 01 R13 runs on, for R336 does not list it. -/
def Tile.clear (t : Tile) (res : List Byte) : Tile :=
  { t with
    spad := [], istore := cellsFrom 0 res, istOld := [], oldNow := []
    hs := Vector.replicate 8 0, hg := Vector.replicate 4 false, trapc := 0, trappc := 0, trapv := 0
    ctrs := [], bcbs := [], coll := [], tlb := [], killed := false
    cntsel := Vector.replicate 8 0, cnt := Vector.replicate 8 0, past := Vector.replicate 8 0 }

/-- A poisoned or lost place of an entry's resident image. -/
def State.residentTaint (s : State) (e : PartE) : Option Nat :=
  ((List.range 1024).map fun i => e.resimg + 32 * i).find? fun a => s.poisoned a 32 || s.lostAt a

/-- A tile cleared for a partition. A poisoned sector of its resident image is consumed as class 5 (19 R354), and a lost one as class
8 (12 R248). -/
def State.clearTile (s : State) (p n : Nat) (e : PartE) : State :=
  let res := s.resident e
  let s := match s.residentTaint e with
    | some pa => s.report (s.lossOf pa).1 (s.lossOf pa).2 (unitParty 0) 0 pa 0
    | none => s
  (s.forgetWalks n).modTile n fun t => { t.clear res with owner := some ⟨p, e.vf, e.asid⟩ }

/-- Whether a partition holds a tile: one without a valid entry holds none. -/
def PartE.holds (p : PartE) (n : Nat) : Bool := p.valid && bitAt (p.tiles.get (Fin.ofNat 4 (n / 64))) (n % 64)

/-- The tiles of a partition. -/
def PartE.tilesOf (e : PartE) : List Nat := (List.range 256).filter e.holds

/-- The tiles of a partition in reset, cleared once it has no task left. -/
def State.wiped (s : State) (p : Nat) : State :=
  if s.wipe.contains p && !s.runs.any fun x => x.part == p then
    let e := s.partE p
    e.tilesOf.foldl (fun s n => s.clearTile p n e) { s with wipe := s.wipe.filter (· != p) }
  else s

/-- A killed task whose results in flight are written and whose accesses have all performed or failed: its tiles are freed and its record is POISONED. -/
def State.taskKilled (s : State) (x : Run) (d : Dead) : State := ((s.unbind x).poisonRec x.rcd d).wiped x.part

/-- TASK_END: the end of a task, or of one that has been killed. A viral CD ends none (19 R361). -/
def execTaskEnd (run : Nat) (s : State) : Out3 :=
  match s.runs[run]? with
  | none => .next s
  | some x =>
    if (s.party 0).viral then .next s
    else match x.dead with
    | some d => if x.tiles.all fun n => (s.tile n).still && (s.tile n).written then .next (s.taskKilled x d) else .next s
    | none => if x.tiles.all fun n => (s.tile n).over_ then .next (s.taskDone x) else .next s

end Sys2Proof.Machine
end

