-- ==== Sys2Proof/Machine/Resurvey.lean ====
section
/-! DEFINITION. The resurvey of the causal domain, what triggers it, and the removal of a party (12 R247 to R250). -/

namespace Sys2Proof.Machine

/-- A resurvey begun: every party is told to stop sending. mask names the party that it removes. -/
def State.trigger (s : State) (mask : Nat) : State :=
  { s with survey := some ((s.survey.getD 0) ||| mask) }

/-- HOLD_TIMEOUT: a packet that a party has held for more than 50 us. -/
def State.holdExpired (s : State) (p : Nat) (x : DPkt) : State := (s.reportBody p 9 9 x.pkt.body).trigger 0

def execHoldTimeout (party index : Nat) (s : State) : Out3 :=
  let p := party % 6
  match (s.party p).hold[index]? with
  | some x => .next (s.holdExpired p x)
  | none => .next s

/-- INTERDIE_LINK_ERROR: the party that detects it reports class 7. -/
def execInterdieLinkError (p q : Nat) (s : State) : Out3 :=
  let p := p % 6
  if p = q % 6 ∨ bitAt s.clkmask p ∨ bitAt s.clkmask (q % 6) then .next s
  else .next ((s.report 7 9 (unitParty p) 0 0 0).trigger 0)

/-- The event of a die counter selected by Plaquevan: which counter, event and enable are its free choice (21 R401). -/
def State.selectCounter (s : State) : State :=
  let (k, s) := s.freeNat
  let (w, s) := s.freeWord
  let i := k % 192
  { s with dcnt := tset s.dcnt i (w &&& 0xFFF1#64, (tget s.dcnt (0, 0) i).2) }

/-- REMOVAL_OF_A_PARTY: the loss of a party, or an act of Plaquevan that removes none: 6 is a resurvey, and from 7 on it selects the
event of a die counter. Party 0 is never removed: its loss is fatal (class 29). -/
def execRemovalOfAParty (party : Nat) (s : State) : Out3 :=
  if party = 0 then .next (s.report 29 15 (unitParty 0) 0 0 0)
  else if party = 6 then .next (s.trigger 0)
  else if 6 < party then .next s.selectCounter
  else if bitAt s.clkmask party then .next s
  else .next (s.trigger (2 ^ party))

/-- Every packet that a party holds dropped by it. -/
def State.dropHeld (s : State) (p : Nat) : State :=
  let l := (s.party p).hold
  l.foldl (fun s x => s.dropAt p 1 x) (s.modParty p fun q => { q with hold := [] })

/-- Every packet on its way to a party dropped by it. -/
def State.dropFlying (s : State) (p : Nat) : State :=
  (List.range 6).foldl (fun s a =>
    let l := tget s.links [] (6 * a + p)
    l.foldl (fun s x => s.dropAt p 1 x) { s with links := tset s.links (6 * a + p) [] }) s

/-- A party's causal state after a resurvey. -/
def Party.resurvey (p : Party) : Party :=
  { p with
    m := Vector.replicate 36 0, dlv := Vector.replicate 6 0, dack := Vector.replicate 6 0
    dirty := Vector.replicate 6 true, gen := p.gen + 1, cred := Vector.replicate 6 64
    shared := 704, lent := Vector.replicate 6 0, told := Vector.replicate 6 0
    reps := [], freed := Vector.replicate 6 0 }

/-- CLKMASK after a resurvey: its count, the generation, and the parties removed. -/
def nextMask (w : W64) (mask : Nat) : W64 :=
  w64 ((fld w 16 8 + 1) % 256 * 2 ^ 16 + (fld w 8 2 + 1) % 4 * 2 ^ 8 + (fld w 0 6 ||| mask % 64))

/-- The tiles over a base die that is removed are lost with it: they issue no more. -/
def State.loseTiles (s : State) (mask : Nat) : State :=
  (List.range 4).foldl (fun s d => if mask / 2 ^ (partyOf d) % 2 = 1 then s.stopStage d else s) s

/-- Translations that a removal has lost, their page or a table of their walk lying on a stack behind the party, dropped everywhere,
so that a later access meets the walk's fault (12 R250, 18 R341, R342). -/
def State.dropLost (s : State) : State :=
  let lost (e : TlbE) : Bool := match s.walk e.asid e.va with
    | .fault 5 _ => true
    | .fault _ _ | .leaf _ => decide (e.range.1 < hostBase) && bitAt s.clkmask (homeParty e.range.1)
  { s with
    tiles := s.tiles.map fun t => (t.1, { t.2 with tlb := t.2.tlb.filter fun e => !lost e })
    dies := s.dies.map fun d => (d.1, { d.2 with
      tlb2 := d.2.tlb2.filter fun e => !lost e
      found := d.2.found.filter fun f => match f.res with
        | .inl e => !lost e
        | .inr _ => true }) }

/-- Steps 3 to 5 of 12 R247. -/
def State.resume (s : State) (mask : Nat) : State :=
  let s := (List.range 6).foldl (fun s p => (s.dropHeld p).dropFlying p) s
  let s := (List.range 6).foldl (fun s p => s.modParty p Party.resurvey) s
  ((({ s with survey := none, clkmask := nextMask s.clkmask mask } : State).loseTiles mask).dropLost).dieCount 0 10 1

def execResurveyResume (s : State) : Out3 :=
  match s.survey with
  | none => .next s
  | some mask => .next (s.resume mask)

end Sys2Proof.Machine
end

