-- ==== Sys2Proof/Machine/Sync.lean ====
section
/-! DEFINITION. Named barriers, mutexes, semaphores and token counts, class 0xE (13 R276 to R281). -/

namespace Sys2Proof.Machine

/-! ### Barriers (13 R278) -/

def Tile.bar (t : Tile) (b : Nat) : Barrier := tget t.bars Barrier.reset b
def Tile.setBar (t : Tile) (b : Nat) (x : Barrier) : Tile := { t with bars := tset t.bars b x }

/-- One arrival; the arrival that completes a phase advances it and clears the arrived bits. -/
def Barrier.arrive (x : Barrier) (k : Slot) : Barrier :=
  let arr := if x.arr.contains k then x.arr else x.arr ++ [k]
  if x.cfg ≤ arr.length then { x with phase := x.phase + 1, arr := [] } else { x with arr := arr }

/-- A barrier configured (13 R277). -/
def Barrier.config (x : Barrier) (n : Nat) : Barrier := { x with cfg := n, arr := [] }

/-- The barrier after what earlier slots have done to it in the cycle in progress, in slot order: arrivals and BARCFGs. -/
def Tile.barAhead (t : Tile) (b : Nat) : Barrier :=
  t.eoc.foldl (fun x e => match e with
    | .barArrive k c => if c = b then x.arrive k else x
    | .barCfg c n => if c = b then x.config n else x
    | _ => x) (t.bar b)

/-- A word whose index is checked against a limit (13 R277). -/
def indexed (v : W64) (lim : Nat) (p : Plan) : Plan := if lim ≤ v.toNat then Plan.ill4 else p

/-- A stall that holds until an answer: joined is set with what the slot has noted. -/
def joinAs (k : Slot) (m : Nat) (t : Tile) : Tile := t.modSlot k fun x => { x with joined := true, mark := m }

def execBara (d : Fin 32) (b : Src) (s : State) : Out3 :=
  let k := s.cur.slot
  runWord s { srcs := [b] } fun t v =>
    let i := (nth v 0).toNat
    let x := t.slot k
    let waits := if x.joined then x.mark == (t.bar i).phase.toNat else (t.bar i).arr.contains k
    indexed (nth v 0) 256 {
      outs := [(.s d, 1)]
      wait := if waits then some .barrier else none
      join := fun u => if x.joined then u else joinAs k (t.bar i).phase.toNat u
      act := fun u => (u.schedS k d (u.cyc + 1) ((t.barAhead i).phase.setWidth 64)).atEnd (.barArrive k i)
      retire := t.cyc + 1 }

/-- BARS arrives when first eligible, whatever stalls it, and waits for the phase it found to end. -/
def execBars (d : Fin 32) (b : Src) (s : State) : Out3 :=
  let k := s.cur.slot
  runWord s { srcs := [b] } fun t v =>
    let i := (nth v 0).toNat
    let x := t.slot k
    indexed (nth v 0) 256 {
      outs := [(.s d, 1)]
      wait := if x.joined && x.mark != (t.bar i).phase.toNat then none else some .barrier
      join := fun u =>
        if x.joined then u
        else
          let u := joinAs k (t.bar i).phase.toNat u
          if (t.bar i).arr.contains k then u else u.atEnd (.barArrive k i)
      eager := true
      act := fun u => u.schedS k d (u.cyc + 1) ((t.bar i).phase.setWidth 64)
      retire := t.cyc + 1 }

def execBarw (b p : Src) (s : State) : Out3 :=
  runWord s { srcs := [b, p] } fun t v =>
    let df := ((t.bar (nth v 0).toNat).phase - (nth v 1).setWidth 16).toNat
    indexed (nth v 0) 256 {
      wait := if 1 ≤ df ∧ df < 2 ^ 15 then none else some .barrier
      retire := t.cyc }

def execBarcfg (b n : Src) (s : State) : Out3 :=
  runWord s { srcs := [b, n] } fun t v =>
    let c := (nth v 1).toNat
    indexed (nth v 0) 256 (if c < 1 ∨ 4 < c then Plan.ill4
      else { act := fun u => u.atEnd (.barCfg (nth v 0).toNat c), retire := t.cyc })

/-! ### Mutexes (13 R279) -/

def Tile.mut_ (t : Tile) (m : Nat) : Mutex := tget t.muts Mutex.reset m
def Tile.setMut (t : Tile) (m : Nat) (x : Mutex) : Tile := { t with muts := tset t.muts m x }

def Mutex.free (x : Mutex) : Bool := x.owner.isNone && x.waiters.isEmpty

/-- MLOCK: a granted waiter issues; a free mutex is taken at issue; otherwise the slot joins the queue. The mark of a
waiting MLOCK is its mutex plus 65,536. -/
def execMlock (m : Src) (s : State) : Out3 :=
  let k := s.cur.slot
  runWord s { srcs := [m] } fun t v =>
    let i := (nth v 0).toNat
    let x := t.mut_ i
    let joined := (t.slot k).joined
    indexed (nth v 0) 16 (
      if x.owner = some k ∧ joined = false then Plan.ill4
      else {
        wait := if x.owner = some k ∨ (x.free ∧ joined = false) then none else some .mutex
        join := fun u => if joined then u else (joinAs k (i + 65536) u).setMut i { x with waiters := x.waiters ++ [k] }
        act := fun u => u.setMut i { x with owner := some k }
        retire := t.cyc })

def execMtry (d : Fin 32) (m : Src) (s : State) : Out3 :=
  let k := s.cur.slot
  runWord s { srcs := [m] } fun t v =>
    let i := (nth v 0).toNat
    let x := t.mut_ i
    indexed (nth v 0) 16 {
      outs := [(.s d, 1)]
      act := fun u =>
        if x.free then (u.setMut i { x with owner := some k }).schedS k d (u.cyc + 1) 1
        else u.schedS k d (u.cyc + 1) 0
      retire := t.cyc + 1 }

def execMunlk (m : Src) (s : State) : Out3 :=
  let k := s.cur.slot
  runWord s { srcs := [m] } fun t v =>
    let i := (nth v 0).toNat
    indexed (nth v 0) 16 (
      if (t.mut_ i).owner ≠ some k then Plan.ill4
      else { act := fun u => u.atEnd (.mutexLeave k i), retire := t.cyc })

/-! ### Semaphores (13 R280) -/

def Tile.sem (t : Tile) (m : Nat) : Sem := tget t.sems Sem.reset m
def Tile.setSem (t : Tile) (m : Nat) (x : Sem) : Tile := { t with sems := tset t.sems m x }

/-- Whether a SEMP of slot k issues now: a waiter within the count, or a positive count with no slot ahead. -/
def Sem.serves (x : Sem) (k : Slot) : Bool :=
  if x.waiters.contains k then x.waiters.idxOf k < x.count.toNat else x.waiters.isEmpty && x.count != 0

def execSemp (m : Src) (s : State) : Out3 :=
  let k := s.cur.slot
  runWord s { srcs := [m] } fun t v =>
    let i := (nth v 0).toNat
    let x := t.sem i
    indexed (nth v 0) 16 {
      wait := if x.serves k then none else some .semaphore
      join := fun u =>
        if x.waiters.contains k then u
        else (joinAs k i u).setSem i { x with waiters := x.waiters ++ [k] }
      act := fun u => u.setSem i ⟨x.count - 1, x.waiters.filter (· != k)⟩
      retire := t.cyc }

def execSemv (m n : Src) (s : State) : Out3 :=
  runWord s { srcs := [m, n] } fun t v =>
    indexed (nth v 0) 16 (
      if 2 ^ 32 ≤ (nth v 1).toNat then Plan.ill4
      else { act := fun u => u.atEnd (.semAdd (nth v 0).toNat (nth v 1).toNat), retire := t.cyc })

def execSemtry (d : Fin 32) (m : Src) (s : State) : Out3 :=
  let k := s.cur.slot
  runWord s { srcs := [m] } fun t v =>
    let i := (nth v 0).toNat
    let x := t.sem i
    let ok := x.waiters.isEmpty && x.count != 0
    indexed (nth v 0) 16 {
      outs := [(.s d, 1)]
      act := fun u =>
        if ok then (u.setSem i { x with count := x.count - 1 }).schedS k d (u.cyc + 1) 1
        else u.schedS k d (u.cyc + 1) 0
      retire := t.cyc + 1 }

/-! ### Token counts (13 R281) -/

def execTokcnt (d : Fin 32) (src dst : Fin 4) (s : State) : Out3 :=
  scalarWord s (.s d) 1 [] fun _ => w64 ((s.tile s.cur.tile).tokens (fifoOf src.val dst.val))

/-! ### What these words leave to the end of the cycle -/

/-- The end of a cycle for one synchronisation write; an advance of a phase writes BARREL (20 R379). -/
def Tile.endSync (t : Tile) : Eoc → Tile
  | .barArrive k b =>
    let x := t.bar b
    let y := x.arrive k
    let t := t.setBar b y
    if y.phase = x.phase then t else t.event 4 0x24 y.phase.toNat b
  | .barCfg b n => t.setBar b ((t.bar b).config n)
  | .mutexLeave _ m =>
    let x := t.mut_ m
    t.setMut m ⟨x.waiters.head?, x.waiters.tail⟩
  | .semAdd m n =>
    let x := t.sem m
    t.setSem m { x with count := BitVec.ofNat 32 (min (x.count.toNat + n) (2 ^ 32 - 1)) }
  | _ => t

end Sys2Proof.Machine
end

