-- ==== Sys2Proof/Machine/Drain.lean ====
section
/-! DEFINITION. A drain of a tile up to its stubs: the request's effect, the capture, the choice of stubs, and QPT's
acknowledgements (13 R285 to R288, R293, R294). -/

namespace Sys2Proof.Machine

/-! ### The request takes effect (13 R286) -/

/-- A slot stopped at t_r: its resume PC and shortfall are held, its wait is abandoned. -/
def Tile.stopSlot (t : Tile) (tr c : Nat) (k : Slot) : Tile :=
  let x := t.slot k
  let d := t.shortfall x.pc.toNat x.base x.due c
  (t.withdraw k).setSlot k { x with due := some (tr + d), pre := .none, stall := none, joined := false, mark := 0 }

/-- A drain begun with the cycle that is about to begin. While INH = 1 slot C's handler is stopped like any slot, the wait of
its task's word is abandoned too, and the other slots stand as the trap left them. A hold ends with it, and the slots stand as the hold left them (19 R375). -/
def Tile.beginDrain (t : Tile) (reason : Nat) : Tile :=
  let tr := t.cyc
  let stop := t.hold.getD tr
  let ended := allSlots.filter fun k => !(t.slot k).running
  let c := if t.inh then t.trapT.getD tr else stop
  let held := t.heldC.map fun h =>
    { h with due := some (t.shortfall h.pc.toNat h.base h.due c), stall := none, joined := false, mark := 0 }
  let t := match t.heldC with
    | some h => t.withdrawAs .c h.joined h.mark
    | none => t
  let t := allSlots.foldl (fun t k => if k = .c then t.stopSlot tr stop k else t.stopSlot tr c k) t
  ({ t with
    heldC := held
    drn := some ⟨reason, tr, none, ended, t.ids, [], none, false, none, t.fence⟩
    fence := none, preq := none, wdog := none, hold := none } : Tile).eventPast 4 0x22 ((t.task.map (·.rcd)).getD 0) (reason % 16)

/-- A YIELD in the handler saves the task as at the trap, with INH = 0 (13 R293): the streams are taken up so that at t_r each
slot's shortfall is the one held. -/
def Tile.yieldDrain (t : Tile) (reason : Nat) : Tile :=
  if t.inh then (t.unwind (t.cyc - 3)).beginDrain reason else t.beginDrain reason

/-! ### The capture (13 R286) -/

/-- Whether no result is in flight at the beginning of the cycle in progress. -/
def Tile.settled (t : Tile) : Bool :=
  t.pend.isEmpty && t.vjobs.isEmpty && (t.board.all fun b => b.at_ < t.cyc) && t.reserved.all fun r => r.at_ < t.cyc

/-- What is captured: each slot's resume PC with its shortfall in due. -/
def Tile.captured (t : Tile) (d : Drain) : Cap :=
  let cut (k : Slot) : SlotSt :=
    let x := t.slot k
    { x with due := some (x.due.getD d.tr - d.tr) }
  { sc := cut .c, sa := cut .a, sv := cut .v, sm := cut .m
    hs := t.hs, hg := t.hg, inh := t.inh, trapc := t.trapc, trappc := t.trappc, trapv := t.trapv
    held := t.heldC.map fun h => (h.pc.toNat, h.due.getD 0)
    x := t.x, tcfg := t.tcfg, flags := t.flags, srseed := t.srseed, bfmt := t.bfmt, bscl := t.bscl
    toks := t.toks, bars := t.bars, muts := t.muts, sems := t.sems }

/-- The stub of a slot at a resume PC: that of the first matching entry (13 R287). -/
def stubOf (l : List DrainEnt) (k : Slot) (pc : Nat) : Option Nat :=
  (l.find? fun e => e.slot == Slot.num k && e.lo ≤ pc && pc ≤ e.hi).map (·.stub)

/-- A slot after the capture: in its stub, ended, or in the default drain. -/
def Tile.divert (t : Tile) (d : Drain) (inh : Bool) (k : Slot) : Tile :=
  t.modSlot k fun x =>
    if d.ended.contains k then { x with drained := some 1 }
    else match (if inh && k == .c then none else stubOf t.drnTab k x.pc.toNat) with
      | some a => { x with pc := BitVec.ofNat 18 a, base := t.cyc + 3, due := none, stub := true, running := true }
      | none => { x with running := false, drained := some 2 }

/-- The capture at t_c: the later of t_r and one cycle after the last write in flight. The synchronisation state is then reset
for the stubs, and no stub runs in handler mode. -/
def Tile.capture (t : Tile) : Tile :=
  match t.drn with
  | some d =>
    if d.cap.isNone && decide (d.tr ≤ t.cyc) && t.settled then
      let t1 := { t with
        drn := some { d with cap := some (t.captured d) }
        toks := Vector.replicate 16 0, bars := [], muts := [], sems := []
        inh := false, trapT := none, heldC := none, hEnded := false }
      allSlots.foldl (fun t' k => t'.divert d t.inh k) t1
    else t
  | none => t

/-! ### At the end of a cycle -/

/-- Whether an invalidation covers a translation. -/
def InvP.hits (v : InvP) (e : TlbE) : Bool :=
  e.asid == v.asid && (v.len == 0 || (decide (e.va < v.va + v.len) && decide (v.va < e.va + e.size)))

/-- Acknowledged invalidations: they are no longer pending, the first-level TLB drops their entries, and an entry that still
waits in its queue is translated again (18 R347, R348). -/
def Tile.ackInvals (t : Tile) (ids : List Nat) : Tile :=
  let l := t.invals.filter fun v => ids.contains v.id
  { t with
    invals := t.invals.filter fun v => !ids.contains v.id
    tlb := t.tlb.filter fun e => !l.any fun v => v.hits e
    ents := t.ents.map fun e => match e.tr with
      | .ok _ => { e with tr := .pending }
      | .pending | .faulted _ => e }

/-- Whether no access is on its way whose translation has been used: what has left its queue has performed at PKG scope, and what
the copy engine has asked for or sent has come or taken effect. -/
def Tile.noneFlying (t : Tile) : Bool :=
  (t.led.all fun l => decide (4 ≤ l.lvl) || t.ents.any fun e => e.id == l.id) && !t.awaiting && t.chain.quiet && t.walkHere

/-- QPT's acknowledgements that are due (13 R294). None is made while an access is on its way under the old translation, a later one
included, so that all of them have performed as the command completes (18 R348). A walk's answer that its tile has not taken is
dropped with them. -/
def State.settleQpts (s : State) (n : Nat) : State :=
  let t := s.tile n
  let isDue (q : Qpt) : Bool := t.performed q.lim .pkg && t.noneFlying
  let due := t.qpts.filter isDue
  if due.isEmpty then s
  else
    let ids := due.flatMap (·.invs)
    let s := s.setTile n (({ t with qpts := t.qpts.filter fun q => !isDue q } : Tile).ackInvals ids)
    if t.invals.any fun v => ids.contains v.id then s.forgetWalks n else s

/-- YIELD at the end of its cycle (13 R293): a request to the task's other tiles, and t_r = issue + 1 on its own. A pager's
YIELD holds even where another request is on its way (18 R345). -/
def State.yieldNow (s : State) (n : Nat) (pager : Bool) : State :=
  match s.runOf n with
  | some x =>
    if (s.tile n).drn.isSome then s
    else
      let reason := if pager then 7 else 0
      ((s.request x.rcd reason pager [n]).modRun x.rcd fun y => { y with pager := y.pager || pager }).modTile n fun t =>
        t.yieldDrain reason
  | none => s

/-- A double trap of the cycle, handed to the severity matrix once (05 R116, 19 R369). -/
def State.doubleTrap (s : State) (n : Nat) : State :=
  match (s.tile n).double with
  | some d =>
    if d.told then s
    else (s.modTile n fun t => { t with double := some { d with told := true } }).report 20 0 n (Slot.num d.slot) 0 d.detail
  | none => s

/-- A request that a handler held up takes effect with ERET (13 R285). -/
def State.heldRequest (s : State) (n : Nat) : State :=
  let t := s.tile n
  match t.preq with
  | some r => if t.inh then s else s.setTile n (t.beginDrain r)
  | none => s

end Sys2Proof.Machine
end

