-- ==== Sys2Proof/Machine/Cycle.lean ====
section
/-! DEFINITION. The beginning and the end of a tile's cycle: writes that fall due, beats and steps read, and writes made
at the end of the cycle (03 R43, R55, R56; 05 R116, R119; 20 R378; 21 R400). -/

namespace Sys2Proof.Machine

/-! ### The beginning (03 R55, 05 R103, R119, 06 R148, 07 R173) -/

/-- Old contents that an ICLR has ended: a word changed by the end of the cycle after the ICLR is fetched new from the
third cycle after it on (05 R119). -/
def Tile.dropOld (t : Tile) : Tile :=
  let due := t.iclrs.filter fun i => i + 3 ≤ t.cyc
  { t with
    istOld := t.istOld.filter fun p => due.all fun i => i + 1 < p.2.2
    iclrs := t.iclrs.filter fun i => t.cyc < i + 3 }

/-- For each changed word, whether the fetches of this cycle see its old content: a free choice (05 R119). -/
def pickOld (s : State) : List (Nat × W64 × Nat) → List (Nat × W64) × State
  | [] => ([], s)
  | (a, w, _) :: r =>
    let (b, s) := s.freeBool
    let (l, s) := pickOld s r
    (if b then (a, w) :: l else l, s)

/-- The tile at the beginning of a cycle, before any slot is examined. -/
def Tile.beginCycle (t : Tile) : Tile :=
  let t := ({ t with nowV := 0, nowM := 0, nowC := 0, comm := 0 } : Tile)
  let t := allSlots.foldl (fun t k => t.modSlot k fun x => { x with pre := Prefixes.none }) t
  ((((t.applyDue.joinData).dropOld.runUpds).runNest).runCrun).runBeats

/-! ### The end -/

/-- Whether an MTSR of the cycle writes CNTi at its end. -/
def Tile.writesCnt (t : Tile) (i : Nat) : Bool := t.eoc.any fun e => match e with
  | .sysreg _ num _ => num == 56 + i
  | _ => false

/-- The tally of the cycle added to the event counters (21 R400), and what the moves before the next cycle count under. -/
def Tile.addCounts (t : Tile) : Tile :=
  { t.tallied t.cntsel ((1, 0, 1) :: t.tally) with
    tally := [], past := Vector.ofFn fun i => if t.writesCnt i then 0 else t.cntsel.get i }

/-- A token put in a FIFO. One pushed by a word from before a drain's t_r enters the captured FIFO (13 R286). -/
def Tile.giveToken (t : Tile) (f iss : Nat) : Tile :=
  let put (v : Vector Nat 16) : Vector Nat 16 := v.set (Fin.ofNat 16 f) (v.get (Fin.ofNat 16 f) + 1)
  match t.drn with
  | some d =>
    match d.cap with
    | some c => if iss < d.tr then { t with drn := some { d with cap := some { c with toks := put c.toks } } }
      else { t with toks := put t.toks }
    | none => { t with toks := put t.toks }
  | none => { t with toks := put t.toks }

/-- Token pushes whose words have retired by a cycle enter their FIFOs (03 R43). -/
def Tile.settleTokens (t : Tile) (c : Nat) : Tile :=
  let due := t.tpush.filter fun p => p.at_.any (· ≤ c)
  due.foldl (fun t p => t.giveToken p.fifo p.iss)
    { t with tpush := t.tpush.filter fun p => !(p.at_.any (· ≤ c)) }

/-- A trap taken in this cycle: the handler's first word follows the last write in flight, and the shortfall of every
slot is held (05 R116). So is it from the end of the cycle in which HALT holds the slots (05 R118). -/
def Tile.settleTrap (t : Tile) : Tile :=
  if t.trapT = some t.cyc then
    ({ t with sc := { t.sc with base := max (t.cyc + 3) (t.lastWrite + 1) } } : Tile).holdDues true
  else if t.hold = some (t.cyc + 1) then t.holdDues false
  else t

/-- One write made at the end of the cycle. Bits of flags set in the cycle stand over their clearing (00 R4). DEDUCED (log
56): the shortfall of a slot under a debug hold is counted from the cycle after HALT's, the first in which no word
issues. -/
def Tile.endWrite (t : Tile) (e : Eoc) : Tile :=
  match e with
  | .sysreg k num v => t.writeSys (t.inHandler k && t.trapT != some t.cyc) num v
  | .ended k =>
    let t := t.modSlot k fun x => { x with running := false }
    if allSlots.any fun k => (t.slot k).running then t
    else t.event 4 0x25 ((t.task.map (·.rcd)).getD 0) 0
  | .held => { t with hold := some (t.cyc + 1) }
  | .mstat mask =>
    { t with eng := { t.eng with
      flags := t.eng.flags &&& ~~~(mask.setWidth 7 &&& 0x3F &&& ~~~t.nowM)
      pxm := t.eng.pxm && !(bitAt mask 16 && !t.nowM.getLsbD 6) } }
  | .noleaf => { t with eng := { t.eng with ccfg := t.eng.ccfg ||| 0x20000000#64 }, nowC := t.nowC ||| 1 }
  | .ccfg mask =>
    let clr : W64 := (if bitAt mask 30 && !t.nowC.getLsbD 1 then 0x40000000#64 else 0) |||
      (if bitAt mask 29 && !t.nowC.getLsbD 0 then 0x20000000#64 else 0)
    { t with eng := { t.eng with ccfg := t.eng.ccfg &&& ~~~clr } }
  | .clearChain | .arrAdd _ _ | .arrSet _ _ | .arrSub _ _ | .bcbPost _ _ | .bcbClear _ => t.endCount e
  | .barArrive _ _ | .barCfg _ _ | .mutexLeave _ _ | .semAdd _ _ => t.endSync e
  | .ctbl _ _ | .cclr _ => t.endColl e
  | .yields _ => t

/-! ### What power shaping counts (21 R403) -/

/-- The cycles of a tile in a microsecond: its clock runs at 1.8 GHz, and at 900 MHz in the bring-up service (01 R7, 21 R399). -/
def State.cyclesPerUs (s : State) : Nat := if s.full then 1800 else 900

/-- The ramp R in cycles of a tile (21 R402). -/
def State.ramp (s : State) : Nat := fld s.slew 32 16 * s.cyclesPerUs

/-- Whether a command that issues in a cycle begins a burst: the engine has been idle for at least R. -/
def Shaper.fresh (x : Shaper) (r cyc : Nat) : Bool := x.burst.isNone || decide (x.idle + r ≤ cyc)

/-- Whether the busy time of the burst exceeds its allowance, the integral of the duty from the floor f (in percent) up to 1
at R: 100 times either side, and 2R times both below R. -/
def Shaper.overDuty (x : Shaper) (r f cyc : Nat) : Bool :=
  let t := cyc - x.burst.getD cyc
  !x.fresh r cyc && (if t < r then decide (2 * f * t * r + (100 - f) * t * t < 200 * r * x.spent)
    else decide ((100 + f) * r + 200 * (t - r) < 200 * x.spent))

/-- Starts from idle within the microsecond that ends with a cycle. -/
def Shaper.recent (x : Shaper) (us cyc : Nat) : Nat := (x.starts.filter fun i => decide (cyc < i + us)).length

/-- A cycle in which the engine is busy; a command that issues in it may begin a burst, and starts the engine where it was idle
before. -/
def Shaper.note (x : Shaper) (r us cyc : Nat) (issued : Bool) : Shaper :=
  let x : Shaper := if issued && x.fresh r cyc then { x with burst := some cyc, spent := 0 } else x
  let x : Shaper := if issued && (x.idle < cyc || x.starts.isEmpty) then
      { x with starts := (x.starts.filter fun i => decide (cyc < i + us)) ++ [cyc] } else x
  { x with spent := x.spent + 1, idle := cyc + 1 }

/-- What the shaper notes at the end of a tile's cycle. -/
def State.noteShape (s : State) (n : Nat) : State :=
  s.modTile n fun t =>
    if t.eng.busy then
      { t with shaper := t.shaper.note s.ramp s.cyclesPerUs t.cyc (t.eng.cmd.any (·.iss == t.cyc) || t.eng.save.any (·.iss == t.cyc)) }
    else t

/-- The end of a tile's cycle. -/
def Tile.endCycle (t : Tile) : Tile :=
  let t := t.retireCmd.addCounts
  let t := (t.eoc.foldl Tile.endWrite { t with eoc := [] }).saveEnd
  t.settleTrap

/-- The YIELD of a cycle, if a slot has issued one; of two, the lowest slot's (13 R297). -/
def Tile.yielded (t : Tile) : Option Bool := t.eoc.findSome? fun e => match e with
  | .yields p => some p
  | _ => none

/-- The count goes on to the next cycle. -/
def Tile.nextCycle (t : Tile) : Tile :=
  { t with cyc := t.cyc + 1, phase := 0, trapT := if t.inh then t.trapT else none }

/-- The end of a tile's cycle, with what it leaves to the package: a FENCE's retirement, a double trap, and
what begins with the next cycle: a YIELD or a request that ERET lets take effect. -/
def State.endTile (s : State) (n : Nat) : State :=
  let y := (s.tile n).yielded
  let s := (s.noteShape n).modTile n Tile.endCycle
  let c := (s.tile n).cyc
  let s := ((s.retireFence n c).modTile n (·.settleTokens c)).doubleTrap n
  let s := (s.modTile n Tile.nextCycle).settleQpts n
  let s := match y with
    | some p => s.yieldNow n p
    | none => s
  s.heldRequest n

/-- The retirement of a FENCE between two cycles, at the end of the earlier one (11 R225). -/
def execFenceRetire (tile : Nat) (s : State) : Out3 :=
  let n := tile % 256
  let c := (s.tile n).cyc - 1
  .next ((s.retireFence n c).modTile n (·.settleTokens c))

end Sys2Proof.Machine
end

