-- ==== Sys2Proof/Machine/Links.lean ====
section
/-! DEFINITION. The Geltas links: flits received, acknowledged and retried, reshapes, links that go down, retrains
(14 R298 to R306). -/

namespace Sys2Proof.Machine

/-! ### Acknowledgements (14 R304) -/

/-- Whether an acknowledgement covers a sequence number. -/
def covers (a q : BitVec 12) : Bool := decide ((a - q).toNat < 2048)

/-- The acknowledgement of a received flit: the flits that it covers leave the replay buffer. -/
def Port.takeAck (x : Port) (f : Flit) : Port :=
  if f.ackv then
    { x with
      replay := x.replay.filter fun g => !covers f.ack g.seq
      pkts := x.pkts.filter fun p => !covers f.ack p.1
      acked := match x.acked with
        | some a => if covers f.ack a then some f.ack else some a
        | none => some f.ack }
  else x

/-- Every flit of the replay buffer sent again, in order: go-back-N, and the resumption of 14 R305. -/
def Port.resend (x : Port) : Port := x.replay.foldl Port.send x

/-! ### Lanes (14 R302) -/

/-- LANEMAP of a port. -/
def Port.lanemap (x : Port) : W64 :=
  w64 (x.rsh.toNat * 2 ^ 32 + (if x.up then lanes x.act * 2 ^ 20 + 2 ^ 16 else 0) + x.shed.toNat * 2 ^ 8 + x.act.toNat)

/-! ### A link goes down (14 R306) -/

/-- A packet that a link has lost fails, where its source is this package. -/
def State.lostPacket (s : State) (x : Net) : State :=
  let s := { s with fab := { s.fab with reqs := s.fab.reqs.filter fun r => !(r.rtag == x.rtag && x.kind ≤ 1 && x.spkg == s.own) } }
  if x.spkg = s.own then s.failNet x 5 else s

/-- A link down: its replay buffer is lost, and each packet with a lost flit fails. -/
def State.linkDown (s : State) (p : Nat) : State :=
  let x := s.port p
  let s := s.setPort p { x with
    act := 0, up := false, replay := [], pkts := [], rx := none, gap := false, ini := none
    room := Vector.replicate 24 0, owed := Vector.replicate 24 0 }
  let s := { s with fab := { s.fab with notes := s.fab.notes.filter (· != p) } }
  (x.pkts.foldl (fun s q => s.lostPacket q.2) s).report 12 12 (unitParty 5) 0 0 0

def execLinkTimeout (port : Nat) (s : State) : Out3 :=
  let x := s.port port
  if x.up && !x.replay.isEmpty then .next ((s.report 13 12 (unitParty 5) 0 0 0).linkDown port) else .next s

/-! ### What arrives (14 R299) -/

/-- The next flit at a port, where it is one that a move takes: the first that stands on the lanes, or one that the outer
network sends, which may be any (log 48). -/
def State.arriving (s : State) (p : Nat) (want : Flit → Bool) : Option Flit × State :=
  let x := s.port p
  match x.inp with
  | w :: r =>
    let f := w.flit x.act
    if want f then (some f, s.setPort p { x with inp := r }) else (none, s)
  | [] =>
    let (l, s) := s.freeBytes 9
    let f := Flit.ofBytes l
    (if want f then some f else none, s)

/-! ### Whole packets at RD (14 R307, R308) -/

/-- A packet dropped at RD for its header or its ECRC: an error in a packet that bears a fabric tag (19 R358). -/
def State.badPacket (s : State) (src ptag : Nat) : State :=
  (s.dieEvent 5 (s.partTagged ptag) 0x19 (src % 2 ^ 26) 3).reportPkt 18 11 (unitParty 5) ptag

/-- A packet for a tile of this package, from the fabric, in the causal domain (10 R198). -/
def State.inward (s : State) (x : Net) : State :=
  let (id, s) := s.newId
  s.atPort 5 81 (s.netPkt id x)

/-- The credits that a port owes sent in a CREDIT flit, where one can be sent and the router's free choice is to send it now. Its
payload has no layout: free bytes (log 59). -/
def State.giveCredits (s : State) (p : Nat) : State :=
  let x := s.port p
  if x.owed.toList.all (· == 0) || !x.up || x.ini.isSome || decide (256 ≤ x.replay.length) then s
  else
    let (now, s) := s.freeBool
    if !now then s
    else
      let (l, s) := s.freeBytes 8
      s.setPort p (({ x with owed := Vector.replicate 24 0 } : Port).sendSeq tyCredit false l)

/-- The buffer of some flits of a channel freed at a port. -/
def State.owe (s : State) (p chan flits : Nat) : State :=
  (s.setPort p { s.port p with owed := vset (s.port p).owed chan (vget (s.port p).owed chan + flits) }).giveCredits p

/-- A packet that was in transit gives up its buffer. -/
def State.freeVia (s : State) (x : Net) : State :=
  match x.via with
  | some (p, c) => s.owe p c x.flits
  | none => s

/-- Buffer credits taken from a CREDIT flit, or at a retrain: the amounts are free, by channel (log 59). -/
def Port.credit (x : Port) (k : Nat) : Port :=
  { x with room := Vector.ofFn fun i => x.room.get i + k / 257 ^ i.val % 257 }

/-- What the fabric manager writes when it acts: nothing, PCTL of one port or of all, RCFG or TCW, with a value: free, but for a
threshold of 0, which is refused (14 R314, log 62). -/
def State.managerWrite (s : State) : State :=
  let (k, s) := s.freeNat
  let (w, s) := s.freeWord
  match k % 4 with
  | 0 => s
  | 1 => if fld w 0 8 = 0 ∨ fld w 8 16 = 0 then s else s.putPctl (if k / 4 % 577 = 576 then 0x3FF else k / 4 % 577) w
  | 2 => { s with fab := { s.fab with rcfg := w &&& 0xFFFF#64 } }
  | _ => { s with fab := { s.fab with tcw := w } }

/-- A package tells whether it is held. Where it is, the router-level and group-level timers that run for it are suspended: those of
requests, of contributions that await a CACK, and of its group, each with a TSUSP event (19 R365, 20 R379). -/
def State.hears (s : State) (q : Nat) (held : Bool) : State :=
  let f := s.fab
  let rest := f.held.filter (· != q)
  if !held then { s with fab := { f with held := rest } }
  else if f.held.contains q then s
  else
    let s := { s with fab := { f with held := rest ++ [q] } }
    let s := (f.reqs.filter fun r => r.pkt.dpkg == q).foldl (fun s _ => s.suspend 5 q 1) s
    let s := s.suspendSent fun g => s.tgtPkg g == q
    if pkgGroup q = pkgGroup s.own then s else s.suspend 5 q 2

/-- A packet for this package, received whole with its ECRC. An answer finds its request, or comes too late; whether it bears the
HELD mark is in no field of its header, and so free (log 62), as the length that a get asks for is (log 49). -/
def State.take (s : State) (x : Net) : State :=
  match x.kind with
  | 9 => s.managerWrite
  | 2 | 10 =>
    let (held, s) := s.freeBool
    let s := s.hears x.spkg held
    match s.fab.reqs.find? fun r => r.rtag == x.rtag with
    | some r =>
      let s := { s with fab := { s.fab with reqs := s.fab.reqs.filter fun q => q.rtag != x.rtag } }
      s.inward { x with cmd := r.pkt.cmd, dtile := r.pkt.stile }
    | none => s
  | 1 =>
    let (k, s) := s.freeNat
    s.inward { x with glen := k % 1025 * 4 }
  | _ => s.inward x

/-- A packet received whole at a port. One for another package waits to be forwarded, unchanged, in the buffer that it has taken;
the buffer of any other is free again. The service port carries fabric-manager packets of TC0 and TC1 alone (14 R298). -/
def State.packetIn (s : State) (p : Nat) (h data : List Byte) : State :=
  let at_ (o n : Nat) : Nat := fromLe ((h.drop o).take n)
  let chan := chanOf (at_ 1 1) (at_ 1 1 / 8 % 4)
  let freed (s : State) : State := s.owe p chan (1 + ceilDiv data.length 64)
  let bad : State := freed (s.badPacket (at_ 8 4) (at_ 28 2))
  match Net.ofBytes h data with
  | none => bad
  | some x =>
    if s.cutOff then freed s
    else if x.kind = 8 ∨ (p = 575 ∧ (x.kind ≠ 9 ∨ 1 < x.tc)) then bad
    else if x.dpkg ≠ s.own then
      let y := { x with data := data, len := some (at_ 2 2), ecrc := some (at_ 60 4), via := some (p, chan) }
      { s with fab := { s.fab with rdq := s.fab.rdq ++ [y] } }
    else if !ecrcOk h data then bad
    else freed (s.take x)

/-- A flit's payload taken into the packet being received. -/
def State.payload (s : State) (p : Nat) (f : Flit) : State :=
  let x := s.port p
  let got := if f.type = tyHead then some f.pay else x.rx.map (· ++ f.pay)
  match got with
  | none => s
  | some l =>
    if f.last then (s.setPort p { x with rx := none }).packetIn p (l.take 64) (l.drop 64)
    else s.setPort p { x with rx := some l }

/-- A RETRY sent. -/
def Port.sendRetry (x : Port) : Port := x.sendPlain tyRetry []

/-- An accepted flit: buffer credits, or a part of a packet. -/
def State.accepted (s : State) (p : Nat) (f : Flit) : State :=
  if f.type = tyCredit then
    let (k, s) := s.freeNat
    s.setPort p ((s.port p).credit k)
  else s.payload p f

/-- FLIT_RECEIVE (14 R300, R304). -/
def execFlitReceive (port : Nat) (s : State) : Out3 :=
  match s.arriving port fun f => !f.good || !(f.type == tyRshreq || f.type == tyRshack || f.type == tyRetry) with
  | (none, s) => .next s
  | (some f, s) =>
    let x := s.port port
    if !x.up then .next s
    else if !f.good then
      .next ((s.setPort port ({ x with gap := true } : Port).sendRetry).report 10 12 (unitParty 5) 0 0 0)
    else if 8 ≤ f.type then .next (s.dieCount 5 43 1)
    else
      let x := x.takeAck f
      if !sequenced f.type then .next ((s.setPort port x).giveCredits port)
      else if f.seq = x.exp then
        let x := { x with exp := x.exp + 1, gap := false, since := x.since + 1 }
        let x := if 32 ≤ x.since then x.sendPlain tyAckf [] else x
        let s := s.setPort port x
        .next ((s.accepted port f).giveCredits port)
      else if (f.seq - x.exp).toNat < 2048 then
        let y := if x.gap then x else ({ x with gap := true } : Port).sendRetry
        .next ((s.setPort port y).report 10 12 (unitParty 5) 0 0 0)
      else .next ((s.setPort port x).dieCount 5 7 1)

/-- ACK_TIMER: an acknowledgement still owed is returned in an ACKF, where nothing else is to send; credits that are still owed may
go with it. -/
def execAckTimer (port : Nat) (s : State) : Out3 :=
  let s := s.giveCredits port
  let x := s.port port
  if x.up && x.since != 0 then .next (s.setPort port (x.sendPlain tyAckf [])) else .next s

/-- RETRY_RECEIVE: go-back-N from ACK + 1. While a reshape that the port has begun is open, only the acknowledgement is taken: the
reshape's end resends. -/
def execRetryReceive (port : Nat) (s : State) : Out3 :=
  match s.arriving port fun f => f.good && f.type == tyRetry with
  | (none, s) => .next s
  | (some f, s) =>
    let x := (s.port port).takeAck f
    if !x.up then .next s
    else if x.ini.isSome then .next (s.setPort port x)
    else .next ((s.setPort port x.resend).dieCount 5 6 x.replay.length)

/-- RETRY_REPEAT: the RETRY of a gap that is still open. -/
def execRetryRepeat (port : Nat) (s : State) : Out3 :=
  let x := s.port port
  if x.up && x.gap then .next (s.setPort port (x.sendPlain tyRetry [])) else .next s

/-! ### Reshapes (14 R303, R305) -/

/-- A reshape flit: mask and epoch. It is sent whole, on every lane of the mask. -/
def Port.sendShape (x : Port) (ty : Nat) (m : BitVec 8) (epoch : Nat) : Port := x.sendWhole m ty [m, BitVec.ofNat 8 epoch]

/-- A reshape begun with a proposed mask: its epoch is one above the last (14 R305). -/
def Port.propose (x : Port) (m : BitVec 8) : Port :=
  let e := (x.epoch + 1) % 256
  ({ x with epoch := e, ini := some m } : Port).sendShape tyRshreq m e

/-- A port switched to the agreed mask, resuming after the largest acknowledgement; fewer than 4 lanes take the link down. -/
def State.switch (s : State) (p : Nat) (m : BitVec 8) : State :=
  let x := s.port p
  let x := { x with act := m, shed := x.shed ||| (x.act &&& ~~~m), ini := none, rsh := x.rsh + 1 }
  let s := { s with fab := { s.fab with rsh := (s.fab.rsh + 1) % 2 ^ 18 } }
  if lanes m < 4 then (s.setPort p x).linkDown p else (s.setPort p x.resend).giveCredits p

/-- LANE_SHED: a lane lost. The end becomes the initiator of a reshape. -/
def execLaneShed (port lane : Nat) (s : State) : Out3 :=
  let x := s.port port
  let old := x.ini.getD x.act
  if !x.up || 8 ≤ lane || !old.getLsbD lane then .next s
  else
    let m := old &&& ~~~(1#8 <<< lane)
    let s := s.report 11 12 (unitParty 5) 0 0 lane
    let x := { x with shed := x.shed ||| (1#8 <<< lane) }
    if lanes m < 4 then .next ((s.setPort port { x with epoch := (x.epoch + 1) % 256 }).linkDown port)
    else .next (s.setPort port (x.propose m))

/-- Whether an epoch is lower than the port's own. -/
def Port.older (x : Port) (e : Nat) : Bool := decide (128 ≤ (e + 256 - x.epoch) % 256)

/-- RSHREQ_RECEIVE: the responder agrees a mask and switches; a repeated request is only answered again. -/
def execRshreqReceive (port : Nat) (s : State) : Out3 :=
  match s.arriving port fun f => f.good && f.type == tyRshreq with
  | (none, s) => .next s
  | (some f, s) =>
    let x := s.port port
    let m := f.pay.getD 0 0
    let e := (f.pay.getD 1 0).toNat
    if !x.up || x.older e then .next s
    else
      let x := x.takeAck f
      match x.ans with
      | some (e', m') =>
        if e = e' then .next (s.setPort port (x.sendShape tyRshack m' e)) else .next (agree s x m e)
      | none => .next (agree s x m e)
where
  agree (s : State) (x : Port) (m : BitVec 8) (e : Nat) : State :=
    let a := m &&& x.ini.getD x.act
    let x := { x with epoch := e, ans := some (e, a) }
    (s.setPort port (x.sendShape tyRshack a e)).switch port a

/-- RSHACK_RECEIVE: the initiator takes the agreed mask. An answer with a lane that it did not propose is a disagreement, which
begins a new reshape. -/
def execRshackReceive (port : Nat) (s : State) : Out3 :=
  match s.arriving port fun f => f.good && f.type == tyRshack with
  | (none, s) => .next s
  | (some f, s) =>
    let x := s.port port
    let m := f.pay.getD 0 0
    match x.ini with
    | some own =>
      if !x.up || (f.pay.getD 1 0).toNat != x.epoch then .next s
      else if m &&& own = m then .next ((s.setPort port (x.takeAck f)).switch port m)
      else .next (s.setPort port ((x.takeAck f).propose own))
    | none => .next s

/-- RSHREQ_REPEAT: the initiator's request again. -/
def execRshreqRepeat (port : Nat) (s : State) : Out3 :=
  let x := s.port port
  match x.ini with
  | some m => if x.up then .next (s.setPort port (x.sendShape tyRshreq m x.epoch)) else .next s
  | none => .next s

/-- RETRAIN: the port comes up on the lanes that hold, with numbers and buffers reset, and free credits (log 59); a port that the
topology table does not name is kept down. -/
def execRetrain (port : Nat) (m : BitVec 8) (s : State) : Out3 :=
  if 576 ≤ port ∨ s.peerOf port = none then .next s
  else
    let x := s.port port
    let s := x.pkts.foldl (fun s q => s.lostPacket q.2) s
    let (k, s) := s.freeNat
    let y : Port := { x with
      act := if 4 ≤ lanes m then m else 0, shed := 0, up := decide (4 ≤ lanes m), rsh := 0, nseq := 0, exp := 0
      acked := none, replay := [], pkts := [], gap := false, since := 0, ini := none, ans := none, rx := none
      room := Vector.replicate 24 0, owed := Vector.replicate 24 0 }
    .next (s.setPort port (if y.up then y.credit k else y))

end Sys2Proof.Machine
end

