-- ==== Sys2Proof/Machine/Frames.lean ====
section
/-! DEFINITION. Context frames: what is written of a tile, when, and how a tile is reinstated from one (13 R290 to R292). -/

namespace Sys2Proof.Machine

/-! ### Where (13 R291) -/

def State.frameBase (s : State) (r rank : Nat) : Nat := s.recAt r 16 8 + rank * 0x400000

/-! ### The layout, written (13 R291) -/

/-- A slot block but for what only C's holds: its first 352 bytes. -/
def slotBlock (x : SlotSt) : List Byte :=
  let loop (l : Loop) : List Byte := leBytes 4 l.start ++ leBytes 4 l.stop ++ leBytes 8 l.left
  (x.s.toList.flatMap fun v => leBytes 8 v.toNat) ++ (x.g.toList.map fun b => if b then 1 else 0) ++
    leBytes 8 x.pc.toNat ++ leBytes 8 (x.due.getD 0) ++ padTo 64 (x.loops.reverse.flatMap loop) ++ leBytes 8 x.loops.length

/-- What C's block holds beside. -/
def controlBlock (c : Cap) : List Byte :=
  let h := c.held.getD (0, 0)
  (c.hs.toList.flatMap fun v => leBytes 8 v.toNat) ++ (c.hg.toList.map fun b => if b then 1 else 0) ++ leBytes 4 0 ++
    leBytes 8 h.1 ++ leBytes 8 h.2 ++ leBytes 8 c.trapc.toNat ++ leBytes 8 c.trappc.toNat ++ leBytes 8 c.trapv.toNat

def slotsArea (c : Cap) : List Byte :=
  padTo 512 (slotBlock c.sc ++ controlBlock c) ++ padTo 512 (slotBlock c.sa) ++ padTo 512 (slotBlock c.sv) ++
    padTo 512 (slotBlock c.sm)

/-- RUN of TSTAT (05 R113) as it was captured. -/
def Cap.run (c : Cap) : Nat :=
  ([c.sc, c.sa, c.sv, c.sm].zipIdx.map fun p => if p.1.running then 2 ^ p.2 else 0).foldl (· + ·) 0

def regsArea (c : Cap) : List Byte :=
  (c.x.toList.flatMap fun v => leBytes 8 v.toNat) ++ leBytes 8 c.tcfg.toNat ++
    leBytes 8 (c.flags.toNat + c.run * 2 ^ 12 + if c.inh then 2 ^ 16 else 0) ++ leBytes 8 c.srseed.toNat ++
    (c.bfmt.toList.flatMap fun v => leBytes 8 v.toNat) ++ c.bscl.toList.flatMap fun v => leBytes 8 v.toNat

def barWord (x : Barrier) : Nat := x.cfg % 8 + (x.arr.foldl (fun n k => n + 2 ^ Slot.num k) 0) * 16 + x.phase.toNat * 2 ^ 16
def mutWord (x : Mutex) : Nat := match x.owner with
  | some k => 1 + Slot.num k * 2
  | none => 0

def syncArea (c : Cap) : List Byte :=
  (c.toks.toList.map fun n => BitVec.ofNat 8 n) ++
    ((List.range 256).flatMap fun b => leBytes 8 (barWord (tget c.bars Barrier.reset b))) ++
    ((List.range 16).flatMap fun m => leBytes 8 (mutWord (tget c.muts Mutex.reset m))) ++
    ((List.range 16).flatMap fun m => leBytes 8 (tget c.sems Sem.reset m).count.toNat)

def countArea (t : Tile) : List Byte := (List.range 1024).flatMap fun i => leBytes 4 (t.ctr i).toNat

def bcbBytes (x : Bcb) : List Byte :=
  leBytes 8 (wrapTo 64 x.count) ++ leBytes 4 x.round.toNat ++ leBytes 4 ((if x.armed then 1 else 0) + if x.excess then 2 else 0)

def bcbArea (t : Tile) : List Byte := (List.range 64).flatMap fun i => bcbBytes (t.bcb i)

/-- Tag slots of an entry: the sources held, in the order they came. -/
def CEnt.srcs (x : CEnt) : List Nat := (x.tags.map (·.1)).eraseDups

def tagMask (x : CEnt) (r : Nat) : Nat := x.tags.foldl (fun n t => if t.1 = r then n + 2 ^ (t.2 % 64) else n) 0

def centBytes (x : CEnt) : List Byte :=
  padTo 128 x.img ++ leBytes 8 x.status.toNat ++
    ((List.range 8).map fun i => match x.srcs[i]? with
      | some r => BitVec.ofNat 8 r
      | none => 0xFF) ++
    (List.range 8).flatMap fun i => match x.srcs[i]? with
      | some r => leBytes 8 (tagMask x r)
      | none => leBytes 8 0

def collArea (t : Tile) : List Byte := (List.range 256).flatMap fun e => centBytes (t.cent e)

def rangesArea (l : List (Nat × Nat)) : List Byte :=
  padTo 512 (leBytes 8 l.length ++ l.flatMap fun r => leBytes 8 (r.1 + r.2 * 2 ^ 23))

/-! ### When a frame is complete (13 R290) -/

/-- Slots as a mask of four bits. -/
def slotMask (p : Slot → Bool) : Nat := allSlots.foldl (fun n k => if p k then n + 2 ^ Slot.num k else n) 0

def Tile.dflt (t : Tile) : Nat := slotMask fun k => (t.slot k).drained == some 2
def Tile.endedMask (t : Tile) : Nat := slotMask fun k => (t.slot k).drained == some 1

/-- Whether the whole scratchpad is saved: some slot took the default drain, or the lists are more than RANGES holds
(log 52). -/
def Tile.savesWhole (t : Tile) (d : Drain) : Bool := t.dflt != 0 || decide (63 < d.ranges.length)

def Tile.allDrained (t : Tile) : Bool := allSlots.all fun k => (t.slot k).drained.isSome

/-- Whether an entry would still leave its queue as things stand: it has its data, and nothing ahead holds it but an INVAL that
is only to be made. -/
def Tile.leaves (t : Tile) (e : QEnt) : Bool :=
  let u : Tile := { t with ents := t.ents.map fun q => { q with inv := true } }
  if e.kind.isMark then u.markLeaves { e with inv := true }
  else e.data.length == e.need && (match e.tr with
    | .faulted _ => false
    | .pending | .ok _ => true) && u.inTurn e

/-- Whether every access that may leave its queue has left it and performed, every answer is in, and no engine has a command in
progress (13 R290, 10 R209). -/
def Tile.saveable (t : Tile) : Bool :=
  (t.ents.all fun e => !t.leaves e) && (t.led.all fun l => t.ents.any fun e => e.id == l.id) && !t.awaiting && t.back.isEmpty &&
    t.chain.atRest && t.walkHere && t.pend.isEmpty && t.vjobs.isEmpty && t.flaws.isEmpty &&
    (t.tmq.all fun c => c.lvl == 0 && (match c.coll with
      | some (_, _, k) => k == 0 && c.data.isEmpty
      | none => true)) &&
    (t.coll.all fun e => e.2.sent.isEmpty) && t.async.isEmpty

/-- What CD keeps of the queues and the chain: a link part-way through its walk goes on with its next entry, and every entry is
translated again after the restore (11 R222, 18 R347, R348). -/
def Tile.queues (t : Tile) (f : Option Fence) : SavedQ where
  chain := { t.chain with stop := none, walk := t.chain.walk.map fun w => { w with asked := false } }
  ents := t.ents.map fun e => { e with tr := .pending }
  laq := t.laq
  saq := t.saq
  lq := t.lq
  sq := t.sq
  led := t.led
  back := t.back
  tmq := t.tmq.map fun c => { c with data := [], inv := false }
  fence := f
  tpush := t.tpush.filter fun p => f.any fun f => p.slot == .a && p.iss == f.iss
  coll := t.coll
  ids := t.ids
  outs := []

/-- The FENCE that had not retired at t_r: it retires now if its conditions hold, with its token in the captured FIFO. -/
def Tile.drainFence (t : Tile) (d : Drain) : Tile × Option Fence :=
  match d.fence with
  | some f =>
    if f.marks.isEmpty && t.performed f.id f.scope then
      let due := t.tpush.filter fun p => p.slot == .a && p.iss == f.iss
      (due.foldl (fun t p => t.giveToken p.fifo p.iss) { t with tpush := t.tpush.filter fun p => !due.contains p }, none)
    else (t, some f)
  | none => (t, none)

/-- The frame written through the pins of its record. The areas that only the device reads have free bytes. DEDUCED (log 65): of a
tile whose slots have all ended, which no list's ranges keep, the out operands are kept beside its queues, so that they are the same
after the restore (13 R290, R292, 17 R333). -/
def State.writeFrame (s : State) (n : Nat) (d : Drain) (b : Bind) : State :=
  let (t, f) := (s.tile n).drainFence d
  match t.drn.bind (·.cap) with
  | none => s
  | some c =>
    let (own, s) := (s.setTile n t).freeBytes 1536
    let whole := t.savesWhole d
    let flags := (if c.inh then 1 else 0) + (if whole then 2 else 0) + if d.mimg.isNone then 4 else 0
    let base := s.frameBase b.rcd b.rank
    let pins := (s.rinf b.rcd).pins
    let ranges := if whole then [] else d.ranges
    let head := leBytes 4 0x4346524D ++ leBytes 2 1 ++ leBytes 1 d.reason ++ leBytes 1 t.dflt ++ leBytes 1 t.endedMask ++
      leBytes 1 flags ++ leBytes 2 ranges.length ++ leBytes 4 (d.mimg.getD 0) ++ List.replicate 48 0
    let parts := if whole then [(0, 0x300000)] else ranges ++ d.mimg.toList.map fun a => (a, imgSize)
    let image := match d.image with
      | some m => [(0x8000, readRange m 0 imgSize)]
      | none => []
    let areas : List (Nat × List Byte) :=
      [(0, head), (0x40, slotsArea c), (0x840, regsArea c), (0x1000, syncArea c), (0x2000, countArea t), (0x3000, bcbArea t),
        (0x3400, own)] ++ image ++ [(0x10000, rangesArea ranges), (0x10400, collArea t)] ++
        parts.map fun p => (0x20000 + p.1, readRange t.spad p.1 p.2)
    let s := areas.foldl (fun s a => s.pinStore pins (base + a.1) a.2) s
    let outs := if t.endedMask = 15 then ((s.opnds b.rcd).filter Opnd.isOut).map fun o => (o.sad, readRange t.spad o.sad o.len) else []
    let s := { s with saved := tset s.saved (256 * b.rcd + b.rank) { t.queues f with outs := outs } }
    s.tileEvent n 4 0x23 b.rcd (t.dflt + t.endedMask * 16 + flags * 256)

/-- A tile's frame is complete; with the last one the task leaves its tiles. -/
def State.frameDone (s : State) (b : Bind) : State :=
  let s := s.modRun b.rcd fun x => { x with saves := x.saves ++ [b.rank] }
  match s.run b.rcd with
  | some x => if x.tiles.length ≤ x.saves.length then s.saveDone x else s
  | none => s

/-- Whether the device may take the engine's state as an MSAVE would (06 R157). -/
def Tile.mayImage (t : Tile) : Bool := t.eng.save.isNone && !t.eng.cmd.any fun c => c.kind != .mgo

def Tile.askImage (t : Tile) (d : Drain) : Tile :=
  ({ t with
    drn := some { d with want := true }
    eng := { t.eng with save := some ⟨deviceSave, t.cyc, 0, none, false⟩ } } : Tile).stopNest

/-- FRAME_COMPLETE: once every slot is done, first the engine's image where M named none, then the accesses, then the frame. A viral
package saves nothing (19 R361). -/
def execFrameComplete (tile : Nat) (s : State) : Out3 :=
  let n := tile % 256
  let t := s.tile n
  match t.drn, t.task with
  | some d, some b =>
    if d.cap.isNone || !t.allDrained || t.killed || (s.party 0).viral || ((s.run b.rcd).all fun x => x.saves.contains b.rank) then .next s
    else if d.mimg.isNone && !d.want then
      if t.mayImage then .next (s.setTile n (t.askImage d)) else .next s
    else if (d.mimg.isNone && d.image.isNone) || !t.saveable then .next s
    else .next ((s.writeFrame n d b).frameDone b)
  | _, _ => .next s

/-! ### START and restore (05 R111, 13 R292) -/

/-- The state that START sets, but for the registers and streams (05 R111). -/
def Tile.startBase (t : Tile) : Tile :=
  { t with
    phase := 0, tcfg := 0, flags := 0, inh := false, toks := Vector.replicate 16 0, tpush := []
    bars := [], muts := [], sems := [], lq := [], sq := [], ents := [], laq := [], saq := [], ahead := [], led := [], fence := none, used := []
    back := [], chain := .reset, tmq := [], coll := [], tlb := [], sevm := 0
    pend := [], board := [], reserved := [], eoc := [], vjobs := [], vFree := 0
    trapT := none, heldC := none, hEnded := false, double := none, killed := false, bundle := .free
    drn := none, preq := none, boot := none, flaws := [], wdog := none, istOld := [], oldNow := [], iclrs := [] }

/-- The streams begun: every slot at its base, its registers zero, START its previous issue (03 R52). -/
def Tile.startSlots (t : Tile) (base : List Nat) : Tile :=
  allSlots.foldl (fun t k => t.setSlot k { SlotSt.reset with
    pc := BitVec.ofNat 18 (base.getD (Slot.num k) 0), running := true, base := t.cyc }) t

/-- START on one tile. -/
def State.startTile (s : State) (n : Nat) (b : Boot) : State :=
  let args : Vector W64 8 := Vector.ofFn fun i => w64 (s.recAt b.rcd (32 + 8 * i.val) 8)
  (s.forgetWalks n).modTile n fun t => { (t.startBase.startSlots b.base) with x := args }

/-- One slot from its block; e is the restore cycle. -/
def restoreSlot (l : List Byte) (ended : Bool) (e : Nat) (held : Bool) : SlotSt :=
  let at_ (o k : Nat) : Nat := fromLe ((l.drop o).take k)
  let loops := (List.range (min 4 (at_ 344 8))).map fun i =>
    (⟨at_ (280 + 16 * i) 4 % 2 ^ 18, at_ (284 + 16 * i) 4 % 2 ^ 18, at_ (288 + 16 * i) 8 % 2 ^ 32⟩ : Loop)
  { SlotSt.reset with
    s := Vector.ofFn fun i => if i = 0 then 0 else w64 (at_ (8 * i.val) 8)
    g := Vector.ofFn fun i => if i = 0 then true else at_ (256 + i.val) 1 % 2 == 1
    pc := BitVec.ofNat 18 (at_ 264 8), due := some (e + at_ 272 8 + if held then 0 else 3), base := e + 3
    running := !ended, loops := loops.reverse }

/-- Entry e of the collective table from its 208 bytes, with what only the device keeps from x. -/
def centOf (x : CEnt) (l : List Byte) : CEnt :=
  let st := w64 (fromLe ((l.drop 128).take 8))
  let src (i : Nat) : Nat := (l.getD (136 + i) 0xFF).toNat
  { x with
    img := l.take 128, state := fld st 6 2, fired := bitAt st 5, srcreu := bitAt st 0, locl := bitAt st 1, allfin := bitAt st 2
    dups := fld st 48 16, count := fld st 16 21, abrx := bitAt st 8, fail := bitAt st 9, ovr := bitAt st 10, nxerr := bitAt st 11
    tags := (List.range 8).flatMap fun i =>
      if src i = 0xFF then []
      else ((List.range 64).filter fun b => (fromLe ((l.drop (144 + 8 * i)).take 8)) / 2 ^ b % 2 == 1).map fun b => (src i, b) }

def collOf (old : Tab CEnt) (l : List Byte) : Tab CEnt :=
  (List.range 256).foldl (fun t e =>
    let b := (l.drop (208 * e)).take 208
    let x := centOf (tget old CEnt.reset e) b
    if x = CEnt.reset then t else tset t e x) []

/-- The registers, synchronisation state and counters of a frame, from its first 0x3400 bytes. Reserved fields read zero
whatever the frame holds there (00 R5). -/
def Tile.takeFrame (t : Tile) (l : List Byte) (e : Nat) : Tile :=
  let at_ (o k : Nat) : Nat := fromLe ((l.drop o).take k)
  let r (i : Nat) : W64 := w64 (at_ (0x880 + 8 * i) 8)
  let inh := at_ 9 1 % 2 == 1
  let ended (k : Nat) : Bool := at_ 8 1 / 2 ^ k % 2 == 1
  let block (k : Nat) : List Byte := (l.drop (0x40 + 512 * k)).take 512
  let bars := (List.range 256).filterMap fun i =>
    let v := at_ (0x1010 + 8 * i) 8
    let b : Barrier := ⟨v % 8, BitVec.ofNat 16 (v / 2 ^ 16), allSlots.filter fun k => v / 2 ^ (4 + Slot.num k) % 2 == 1⟩
    if b = Barrier.reset then none else some (i, b)
  let muts := (List.range 16).filterMap fun i =>
    let v := at_ (0x1810 + 8 * i) 8
    if v % 2 = 1 then some (i, (⟨some (slotOf (v / 2)), []⟩ : Mutex)) else none
  let sems := (List.range 16).filterMap fun i =>
    let v := at_ (0x1890 + 8 * i) 4
    if v = 0 then none else some (i, (⟨BitVec.ofNat 32 v, []⟩ : Sem))
  let ctrs := (List.range 1024).filterMap fun i =>
    let v := at_ (0x2000 + 4 * i) 4
    if v = 0 then none else some (i, BitVec.ofNat 32 v)
  let bcbs := (List.range 64).filterMap fun i =>
    let o := 0x3000 + 16 * i
    let b : Bcb := ⟨wrap48 (signed 64 (at_ o 8)), at_ (o + 12) 1 % 2 == 1, BitVec.ofNat 32 (at_ (o + 8) 4), at_ (o + 12) 1 / 2 % 2 == 1⟩
    if b = Bcb.reset then none else some (i, b)
  let c := restoreSlot (block 0) (ended 0) e false
  { t with
    sc := c
    sa := restoreSlot (block 1) (ended 1) e inh
    sv := restoreSlot (block 2) (ended 2) e inh
    sm := restoreSlot (block 3) (ended 3) e inh
    hs := Vector.ofFn fun i => w64 (at_ (0x1A0 + 8 * i.val) 8)
    hg := Vector.ofFn fun i => at_ (0x1E0 + i.val) 1 % 2 == 1
    inh := inh
    trapT := if inh then some e else none
    heldC := if inh then some ⟨BitVec.ofNat 18 (at_ 0x1E8 8), e, some (e + at_ 0x1F0 8), none, false, 0⟩ else none
    trapc := w64 (at_ 0x1F8 8) &&& 0xFFFF031F#64, trappc := w64 (at_ 0x200 8) &&& 0x3FFF8#64, trapv := w64 (at_ 0x208 8)
    x := Vector.ofFn fun i => w64 (at_ (0x840 + 8 * i.val) 8)
    tcfg := r 0 &&& 3, flags := (r 1).setWidth 7, srseed := r 2
    bfmt := Vector.ofFn fun i => (r (3 + i.val)).setWidth 4
    bscl := Vector.ofFn fun i => r (15 + i.val) &&& 0x33FFFFF#64
    toks := Vector.ofFn fun i => at_ (0x1000 + i.val) 1
    bars := bars, muts := muts, sems := sems, ctrs := ctrs, bcbs := bcbs }

/-- The queues and the chain taken up again (13 R292). -/
def Tile.takeQueues (t : Tile) (q : SavedQ) : Tile :=
  { t with
    chain := q.chain, ents := q.ents, laq := q.laq, saq := q.saq, lq := q.lq, sq := q.sq, led := q.led, back := q.back
    tmq := q.tmq, fence := q.fence, tpush := q.tpush, ids := max t.ids q.ids }

/-- The engine of a frame, as MREST reinstates it, a suspended nest resuming at e + 3. -/
def Tile.takeImage (t : Tile) (img : Mem) (at_ : Nat) : Tile :=
  let t := { t with eng := Eng.reset.reinstate img }
  if imageSusp img then
    let t := { t with eng := { t.eng with nest := some (t.nestOf (imageNest img at_)) } }
    { t with eng := { t.eng with
      cmd := some ⟨.mgo, t.cyc - 1, t.sm.pc.toNat, some (t.nestOf (imageNest img at_)).endAt⟩ } }
  else t

/-- Undefined bytes: each is, by a free choice, that of one list or of the other (00 R6). -/
def mixBytes (pick a b : List Byte) : List Byte :=
  (pick.zip (a.zip b)).map fun p => if p.1.getLsbD 0 then p.2.1 else p.2.2

/-- The scratchpad of a restored tile: the saved ranges from its frame over the operands that dispatch has staged (13 R271);
every other byte is that of the tile's scratchpad as it stands or of the frame's memory, both the partition's own (00 R6, 13
R292, log 19). The parts come from the frame's ranges and, of a tile whose slots had all ended, from its out operands. -/
def restoredSpad (spad : Mem) (ops : List Opnd) (pick frame : List Byte) (parts : List (Nat × List Byte)) : Mem :=
  let m := cellsFrom 0 (mixBytes pick (readRange spad 0 0x300000) frame)
  let m := (ops.filter Opnd.isIn).foldl (fun m o => writeRange m o.sad (readRange spad o.sad o.len)) m
  parts.foldl (fun m p => writeRange m p.1 p.2) m

/-- The saved parts of a scratchpad that a frame names, by address and length, from its header and RANGES. -/
def frameParts (flags count mimg : Nat) (range : Nat → Nat) : List (Nat × Nat) :=
  if flags / 2 % 2 = 1 then [(0, 0x300000)]
  else ((List.range (min 63 count)).map fun i => (range i % 2 ^ 22, range i / 2 ^ 23 % 2 ^ 23)) ++
    if flags / 4 % 2 = 1 then [] else [(mimg % 0x300000, imgSize)]

/-- A poisoned place of what a restore reads of a frame (19 R369). -/
def State.frameTaint (s : State) (b : Boot) (rank : Nat) : Option Nat :=
  let pins := (s.rinf b.rcd).pins
  let base := s.frameBase b.rcd rank
  let at_ (o k : Nat) : Nat := fromLe (s.pinned pins (base + o) k)
  let own := if at_ 9 1 / 4 % 2 = 1 then [(0x8000, imgSize)] else []
  let parts := frameParts (at_ 9 1) (at_ 10 2) (at_ 12 4) fun i => at_ (0x10008 + 8 * i) 8
  let reads : List (Nat × Nat) := [(0, 0x6400)] ++ own ++ [(0x10000, 512), (0x10400, 53248)] ++ parts.map fun p => (0x20000 + p.1, p.2)
  reads.findSome? fun p => s.tainted pins (base + p.1) p.2

/-- The restore of one tile at cycle e, the cycle before the one that begins: none where its frame or its engine image is
refused, which kills the task with STATUS 2. -/
def State.restoreTile (s : State) (n : Nat) (b : Boot) (rank : Nat) : Option State :=
  let pins := (s.rinf b.rcd).pins
  let base := s.frameBase b.rcd rank
  let rd (o k : Nat) : List Byte := s.pinned pins (base + o) k
  let l := rd 0 0x3400
  let at_ (o k : Nat) : Nat := fromLe ((l.drop o).take k)
  let e := (s.tile n).cyc - 1
  let flags := at_ 9 1
  if at_ 0 4 ≠ 0x4346524D ∨ at_ 4 2 ≠ 1 then none
  else
    let img := cellsFrom 0 (if flags / 4 % 2 = 1 then rd 0x8000 imgSize else rd (0x20000 + at_ 12 4 % 0x300000) imgSize)
    let q := tget s.saved SavedQ.reset (256 * b.rcd + rank)
    let parts := frameParts flags (at_ 10 2) (at_ 12 4) fun i => fromLe (rd (0x10008 + 8 * i) 8)
    let (free, s1) := s.freeBytes 393216
    let spad := restoredSpad (s.tile n).spad (s.opnds b.rcd) free (rd 0x20000 0x300000)
      (parts.map (fun p => (p.1, rd (0x20000 + p.1) p.2)) ++ q.outs)
    let t := { (((s.tile n).startBase.takeFrame l e).takeQueues q) with
      spad := spad, coll := collOf q.coll (rd 0x10400 53248) }
    if (t.imageTrap s.full img (e + 3)).isSome then none
    else some ((s1.forgetWalks n).setTile n (t.takeImage img (e + 3)))

end Sys2Proof.Machine
end

