-- ==== Sys2Proof/Machine/Preempt.lean ====
section
/-! DEFINITION. Yielding, quiescent points, the end of a stub, the record words of a task, and the moves by which a
pre-emption request reaches a tile (13 R283 to R289, R293 to R297). -/

namespace Sys2Proof.Machine

/-! ### YIELD and QPT (13 R293, R294) -/

/-- YIELD: its event now, and its request at the end of the cycle. -/
def execYield (a : Src) (s : State) : Out3 :=
  let k := s.cur.slot
  runWord s { srcs := [a] } fun t v =>
    let x := (nth v 0).toNat
    if 1 < x then Plan.ill4
    else {
      act := fun u =>
        (u.event (Slot.num k) 0x21 ((u.task.map (·.rcd)).getD 0) x).atEnd (.yields (x == 1))
      retire := t.cyc }

/-- QPT: in slot C, the invalidations pending at its issue await slot A's accesses before it. -/
def execQpt (s : State) : Out3 :=
  let k := s.cur.slot
  plainWord s fun t => if k = .c then { t with qpts := t.qpts ++ [⟨t.ids, t.invals.map (·.id)⟩] } else t

/-! ### DSEND (13 R289) -/

/-- The live ranges of a list, where it keeps its limits. -/
def liveRanges (t : Tile) (a : Nat) : Option (List (Nat × Nat)) :=
  let n := readLe t.spad a 8 % 64
  if 0x300000 < a + 8 + 8 * n then none
  else (List.range n).mapM fun i =>
    let v := readLe t.spad (a + 8 + 8 * i) 8
    let b := v % 2 ^ 22
    let l := v / 2 ^ 23 % 2 ^ 23
    if b % 64 = 0 ∧ l % 64 = 0 ∧ b + l ≤ 0x300000 ∧ inBank b l then some (b, l) else none

/-- What DSEND names: its live ranges and, in slot M, the engine's image; none where an operand or the list breaks the
limits. -/
def dsendArgs (t : Tile) (k : Slot) (a b : W64) : Option (List (Nat × Nat) × Option Nat) :=
  let odd (v : W64) : Bool := v &&& ~~~(0x1003FFFFF#64) != 0
  let img := fld b 0 22
  if odd a || odd b || (k != .m && b != 0) then none
  else if bitAt b 32 && !(img % 64 == 0 && inBank img imgSize) then none
  else
    let m := if bitAt b 32 then some img else none
    if bitAt a 32 then (liveRanges t (fld a 0 22)).map fun l => (l, m) else some ([], m)

def Drain.name_ (d : Drain) (r : List (Nat × Nat) × Option Nat) : Drain :=
  { d with ranges := d.ranges ++ r.1, mimg := if r.2.isSome then r.2 else d.mimg }

/-- The end of a slot's stub, with what it has named. -/
def Tile.endStub (t : Tile) (k : Slot) (r : List (Nat × Nat) × Option Nat) : Tile :=
  let t := { t with drn := t.drn.map fun (d : Drain) => d.name_ r }
  t.modSlot k fun x => { x with
    running := false, stub := false, drained := some 0, pre := .none, due := none, stall := none, joined := false, mark := 0 }

/-- DSEND. Whatever it traps with, the stub's slot takes the default drain. Its list is read early, for PENDTRAP, in slots V
and M alone (03 R57). -/
def execDsend (a b : Src) (s : State) : Out3 :=
  let k := s.cur.slot
  runWord s { srcs := [a, b] } fun t v =>
    let listed := fld (nth v 0) 0 22
    if !(t.slot k).stub then Plan.ill4
    else match dsendArgs t k (nth v 0) (nth v 1) with
      | none => Plan.ill4
      | some r => {
          early := (k == .v || k == .m) && bitAt (nth v 0) 32 && t.pendingAt listed (8 + 8 * (readLe t.spad listed 8 % 64))
          wait := if k = .m then t.busyWait else none
          flow := .stay
          act := fun u => u.endStub k r
          retire := t.cyc }

/-! ### LRPATCH and LRARM (13 R283, R284) -/

/-- Whether a record is BUILT and of the partition of a tile's task. -/
def State.builtFor (s : State) (n r : Nat) : Bool :=
  s.recState r == recBuilt && (s.tile n).part == some (s.recPart r)

/-- The field of LRPATCH written: its status and the state after it. -/
def State.patch (s : State) (n r l : Nat) (v : W64) : Nat × State :=
  if !s.builtFor n r then (1, s)
  else if l < 8 then (0, s.setRec r (32 + 8 * l) 8 v.toNat)
  else if l < 20 then
    if fld v 0 3 ≠ 0 ∨ fld v 56 8 ≠ 0 then (2, s)
    else
      let at_ := 112 + 12 * (l - 8)
      (0, s.setRec r at_ 12 (s.recAt r at_ 12 / 2 ^ 53 * 2 ^ 53 + v.toNat / 8))
  else if 2 ^ 16 ≤ v.toNat then (2, s)
  else (0, s.setRec r 4 2 v.toNat)

/-- LRARM's operation at CD. -/
def State.armFrom (s : State) (n r : Nat) : Nat × State :=
  if s.builtFor n r then (0, s.armRec r) else (1, s)

/-- The mark of a record word that CD answers in a cycle, above every PHASE and every mark of a granted mutex. -/
def answerMark (cyc : Nat) : Nat := 65552 + cyc

/-- The wait of a record word: CD answers in a later cycle, chosen freely as the word first asks. -/
def answerWait (t : Tile) (k : Slot) : Option Wait :=
  let x := t.slot k
  if x.joined && decide (x.mark ≤ answerMark t.cyc) then none else some .answer

def askCd (k : Slot) (later : Nat) (t : Tile) : Tile :=
  if (t.slot k).joined then t else joinAs k (answerMark (t.cyc + 1 + later)) t

/-- A record word's operation applied as it is answered, its status written to d. -/
def answerRec (n : Nat) (k : Slot) (d : Fin 32) (op : State → Nat × State) (s : State) : State :=
  let (st, s) := op s
  s.modTile n fun t => t.schedS k d (t.cyc + 1) (w64 st)

def execLrpatch (d : Fin 32) (a b : Src) (fld_ : Fin 21) (s : State) : Out3 :=
  let k := s.cur.slot
  let n := s.cur.tile
  let (later, s) := s.freeNat
  runWord s { srcs := [a, b] } fun t v =>
    if 2 ^ 16 ≤ (nth v 0).toNat then Plan.ill4
    else {
      outs := [(.s d, 1)]
      wait := answerWait t k
      join := askCd k later
      sys := answerRec n k d fun s => s.patch n (nth v 0).toNat fld_.val (nth v 1)
      retire := t.cyc + 1 }

def execLrarm (d : Fin 32) (a : Src) (s : State) : Out3 :=
  let k := s.cur.slot
  let n := s.cur.tile
  let (later, s) := s.freeNat
  runWord s { srcs := [a] } fun t v =>
    if 2 ^ 16 ≤ (nth v 0).toNat then Plan.ill4
    else if !(t.slot k).joined && !t.performed t.ids .pkg then { outs := [(.s d, 1)], wait := some .completion }
    else {
      outs := [(.s d, 1)]
      wait := answerWait t k
      join := askCd k later
      sys := answerRec n k d fun s => s.armFrom n (nth v 0).toNat
      retire := t.cyc + 1 }

/-! ### A request at a tile (13 R285, R286, R297) -/

/-- A request dropped: its task completes. -/
def State.dropRequest (s : State) (r : Nat) : State :=
  let s := match s.run r with
    | some x => x.tiles.foldl (fun (s : State) n => s.modTile n fun t => { t with reqs := [] }) s
    | none => s
  s.modRun r fun x => { x with req := none }

/-- Whether every slot of every tile of a task has issued TASKEND. -/
def State.allEnded (s : State) (x : Run) : Bool :=
  x.tiles.all fun n => (s.tile n).ended && (!(s.tile n).inh || (s.tile n).hEnded) && (s.tile n).drn.isNone

/-- The request at the head of a tile's list. -/
def State.arrive (s : State) (n : Nat) (x : Run) (reason : Nat) (rest : List Nat) : State :=
  let t := s.tile n
  let t := { t with reqs := rest }
  if s.allEnded x then s.dropRequest x.rcd
  else if t.drn.isSome then s.setTile n t
  else if t.inh then s.setTile n { t with preq := some (t.preq.getD reason) }
  else s.setTile n (t.beginDrain reason)

/-- PREEMPT_ARRIVE. A request at a tile that a debugger holds, or whose task has not started, waits. -/
def execPreemptArrive (tile : Nat) (s : State) : Out3 :=
  let n := tile % 256
  let t := s.tile n
  match t.reqs with
  | [] => .next s
  | r :: rest =>
    if t.hold.isSome ∨ t.boot.isSome ∨ t.phase ≠ 0 then .next s
    else match s.runOf n with
      | some x => if t.killed then .next s else .next (s.arrive n x r rest)
      | none => .next (s.setTile n { t with reqs := rest })

/-- PREEMPT_INH_TIMEOUT: a request held for a handler takes effect. -/
def execPreemptInhTimeout (tile : Nat) (s : State) : Out3 :=
  let n := tile % 256
  let t := s.tile n
  match t.preq with
  | some r => if t.inh ∧ t.hold.isNone ∧ !t.killed ∧ t.phase = 0 then .next (s.setTile n (t.beginDrain r)) else .next s
  | none => .next s

/-- STUB_TIMEOUT (13 R288). -/
def execStubTimeout (tile : Nat) (slot : Slot) (s : State) : Out3 :=
  let n := tile % 256
  if ((s.tile n).slot slot).stub then .next (s.modTile n fun t => t.dropStub slot) else .next s

/-! ### The watchdogs (13 R295, R296; 19 R356) -/

/-- WQ and WS of a partition in microseconds: 2 ms each where WDSET has set none (13 R295, R296). The two watchdogs below are
moves that may come at any time after their condition holds (log 11). -/
def State.watch (s : State) (p : Nat) : Nat × Nat := tget s.wd (2000, 2000) p

/-- An invalidation that no QPT has answered: class 22, and a request with REASON 10, even when pinned. -/
def State.qptLate (s : State) (n r : Nat) : State := (s.report 22 13 n 0 0 0).request r 10 false []

/-- QPT_WATCHDOG. -/
def execQptWatchdog (tile : Nat) (s : State) : Out3 :=
  let n := tile % 256
  let t := s.tile n
  let late := t.invals.any fun v => !t.qpts.any fun q => q.invs.contains v.id
  match t.task with
  | some b => if late ∧ t.hold.isNone ∧ t.drn.isNone then .next (s.qptLate n b.rcd) else .next s
  | none => .next s

/-- STALL_WATCHDOG: the trap is taken by the slot's stalled word in the next cycle. -/
def execStallWatchdog (tile : Nat) (slot : Slot) (s : State) : Out3 :=
  let n := tile % 256
  let t := s.tile n
  if (t.slot slot).stall.isSome ∧ (t.slot slot).running ∧ t.hold.isNone then .next (s.setTile n { t with wdog := some slot })
  else .next s

end Sys2Proof.Machine
end

