-- ==== Sys2Proof/Machine/Routing.lean ====
section
/-! DEFINITION. Routing: packets forwarded adaptively or in escape, tree versions, liveness and unreachable groups
(14 R309 to R312, 19 R364). -/

namespace Sys2Proof.Machine

/-! ### Next hops (14 R310) -/

/-- Whether the topology links a package to a group. A port of its own that is down is absent to a router (14 R306). -/
def State.reaches (s : State) (p g : Nat) : Bool :=
  s.fab.topo.any fun e => e.1 / 1024 == p && (p != s.own || (s.port (e.1 % 1024)).up) && pkgGroup e.2 == g

/-- Whether a peer is a minimal next hop towards a group. -/
def State.towards (s : State) (peer g : Nat) : Bool :=
  pkgGroup peer == g || (pkgGroup peer == pkgGroup s.own && !s.reaches s.own g && s.reaches peer g)

/-- Whether a peer is a minimal next hop towards a package: at most local, global, local. -/
def State.minimal (s : State) (peer d : Nat) : Bool :=
  if pkgGroup s.own = pkgGroup d then peer == d else s.towards peer (pkgGroup d)

/-! ### Escape routes (14 R311) -/

/-- Distances from a frontier along edges, level by level. -/
def spread {α : Type} [BEq α] (next : α → List α) : Nat → Nat → List α → List α → List (α × Nat)
  | 0, _, _, _ => []
  | k + 1, d, seen, fr =>
    if fr.isEmpty then []
    else
      let new := (fr.flatMap next).eraseDups.filter fun x => !seen.contains x
      fr.map (fun x => (x, d)) ++ spread next k (d + 1) (seen ++ new) new

def distOf {α : Type} [BEq α] (l : List (α × Nat)) (x : α) : Option Nat := (l.find? fun p => p.1 == x).map (·.2)

/-- The edges of a tree version's graph, and its packages. -/
def treeEdges (l : List (Nat × Nat)) : List (Nat × Nat) := l.map fun e => (e.1 / 1024, e.2)
def treeNodes (l : List (Nat × Nat)) : List Nat := ((treeEdges l).flatMap fun e => [e.1, e.2]).eraseDups

/-- Each package's level: its distance from the package of lowest number. -/
def treeLevels (l : List (Nat × Nat)) : List (Nat × Nat) :=
  match treeNodes l with
  | [] => []
  | p :: r =>
    let root := r.foldl min p
    spread (fun a => (treeEdges l).filterMap fun e => if e.1 = a then some e.2 else none) (r.length + 2) 0 [root] [root]

/-- Whether a link is up: towards a lower level, or on one level towards the lower number. -/
def isUp (lev : List (Nat × Nat)) (a b : Nat) : Bool :=
  match distOf lev a, distOf lev b with
  | some x, some y => decide (y < x) || (x == y && decide (b < a))
  | _, _ => false

/-- Lengths of the shortest escape routes to a package, from each package and phase. -/
def escapeDist (l : List (Nat × Nat)) (goal : Nat) : List ((Nat × Bool) × Nat) :=
  let lev := treeLevels l
  let back (x : Nat × Bool) : List (Nat × Bool) := (treeEdges l).flatMap fun e =>
    if e.2 ≠ x.1 then []
    else if isUp lev e.1 e.2 then (if x.2 then [] else [(e.1, false)])
    else if x.2 then [(e.1, false), (e.1, true)] else []
  spread back (2 * (treeNodes l).length + 2) 0 [(goal, false), (goal, true)] [(goal, false), (goal, true)]

/-- The phase in which a packet in escape leaves towards a peer, where that is a next hop of a shortest route. -/
def escapeHop (l : List (Nat × Nat)) (own peer goal : Nat) (down : Bool) : Option Bool :=
  if !(treeEdges l).contains (own, peer) then none
  else
    let dist := escapeDist l goal
    let next := down || !isUp (treeLevels l) own peer
    if down && isUp (treeLevels l) own peer then none
    else match distOf dist (own, down), distOf dist (peer, next) with
      | some a, some b => if a = b + 1 then some next else none
      | _, _ => none

/-! ### Forwarding (14 R309, R310, R312) -/

/-- Whether a packet may still take a local detour in this group, which may have one: it came into the group by the last link, as
the topology table has it (14 R298), or by one local link from its source, which takes one only to a package of the group. DEDUCED
(log 60): no field of the header tells of an earlier detour. -/
def State.mayDetour (s : State) (x : Net) : Bool :=
  let here (p : Nat) : Bool := pkgGroup p == pkgGroup s.own
  match x.via.bind fun v => s.peerOf v.1 with
  | some q => !here q || (x.hops == 1 && here x.spkg && (x.igrp.isSome || !here x.dpkg))
  | none => false

/-- How a packet at RD leaves by an up port in an adaptive channel: minimally; from its source through a free intermediate
group, or to a package of its own group through one other member (01 R18); elsewhere by a local detour. -/
def State.adaptive (s : State) (x : Net) (peer : Nat) : Option Net × State :=
  let x := if x.igrp = some (pkgGroup s.own) then { x with igrp := none } else x
  let direct := match x.igrp with
    | some g => s.towards peer g
    | none => s.minimal peer x.dpkg
  if direct then (some x, s)
  else if x.spkg = s.own ∧ x.hops = 0 then
    let (near, s) := s.freeBool
    let (k, s) := s.freeNat
    let g := k % 73728
    let g := if pkgGroup s.own ≤ g then g + 1 else g
    if near && pkgGroup x.dpkg = pkgGroup s.own && pkgGroup peer = pkgGroup s.own then (some x, s)
    else (if s.towards peer g then some { x with igrp := some g } else none, s)
  else (if pkgGroup peer = pkgGroup s.own && s.mayDetour x then some x else none, s)

/-- Whether a port carries a packet at all: the service port takes fabric-manager packets of TC0 and TC1 alone (14 R298), and
nothing is routed towards an unreachable group (19 R364). -/
def State.carries (s : State) (x : Net) (port : Nat) : Bool :=
  (port != 575 || (x.kind == 9 && decide (x.tc ≤ 1))) && !s.fab.unreach.contains (pkgGroup x.dpkg) && !s.fab.dead.contains x.dpkg

/-- A packet taken from those at RD. -/
def State.dropRdq (s : State) (index : Nat) : State := { s with fab := { s.fab with rdq := s.fab.rdq.eraseIdx index } }

/-- A packet at RD put on a port: it gives up the buffer that it came in. -/
def State.sendOn (s : State) (index port : Nat) (x : Net) : State :=
  ((s.setPort port ((s.port port).sendNet { x with hops := x.hops + 1, via := none })).freeVia x).dropRdq index

/-- The links of a tree version, and the package to which one of them leads from a port. -/
def Fab.links (f : Fab) (v : Nat) : List (Nat × Nat) := ((f.trees.find? fun t => t.1 == v).map (·.2)).getD []
def Fab.treePeer (f : Fab) (v own port : Nat) : Option Nat :=
  ((f.links v).find? fun e => e.1 == 1024 * own + port).map (·.2)

/-- A packet in escape whose next hop is down: dropped and recorded, and failed where it is this package's (14 R312). -/
def State.deadHop (s : State) (index : Nat) (x : Net) : State :=
  let s := (s.freeVia x).dropRdq index
  ((s.dieEvent 5 (s.partTagged x.ptag) 0x19 (x.spkg % 2 ^ 26) 4).reportPkt 19 11 (unitParty 5) x.ptag).lostPacket x

/-- A packet in escape at a port that its own tree version names: a next hop that is down, or to which the topology table no longer
leads, drops it. -/
def State.forwardEscape (s : State) (index port : Nat) (x : Net) : State :=
  match s.fab.treePeer x.tree s.own port with
  | none => s
  | some peer =>
    match escapeHop (s.fab.links x.tree) s.own peer x.dpkg x.down with
    | none => s
    | some d =>
      if !(s.port port).up || s.peerOf port != some peer then s.deadHop index x
      else if (s.port port).takes x then s.sendOn index port { x with down := d }
      else s

/-- A packet in an adaptive channel at a port: which of the two channels it takes is free. -/
def State.forwardAdaptive (s : State) (index port : Nat) (x : Net) : State :=
  match s.peerOf port with
  | none => s
  | some peer =>
    let (k, s) := s.freeNat
    match s.adaptive { x with vc := k % 2 } peer with
    | (some x, s) => if (s.port port).takes x then s.sendOn index port x else s
    | (none, s) => s

/-- PACKET_FORWARD: a packet at RD leaves by a port, where it may and the channel that it takes at the next hop has room for all of
it. A viral RD sends nothing but a notice that the port still has to send, and one that has been removed sends nothing. -/
def execPacketForward (index port : Nat) (s : State) : Out3 :=
  if s.cutOff then .next (if (s.party 5).viral && s.fab.notes.contains port then s.noticePort port else s)
  else
    match s.fab.rdq[index]? with
    | none => .next s
    | some x =>
      if !s.carries x port || s.holdsBack x then .next s
      else .next (if x.vc = 2 then s.forwardEscape index port x else s.forwardAdaptive index port x)

/-- ESCAPE_ENTRY: a packet enters the escape channel under the newest tree version. -/
def execEscapeEntry (index : Nat) (s : State) : Out3 :=
  let f := s.fab
  match f.rdq[index]?, f.trees.getLast? with
  | some x, some (v, _) =>
    if x.vc = 2 then .next s
    else
      .next (({ s with fab := { f with rdq := f.rdq.set index { x with vc := 2, tree := v, down := false } } } : State).dieCount
        5 9 1)
  | _, _ => .next s

/-! ### Tree versions (14 R312) -/

/-- The topology table as the fabric manager gives it with a tree: the wiring known so far with the tree's links, or, by its free
choice, those links alone, and then a port that the table no longer names goes down (14 R298, log 62). -/
def State.rewire (s : State) (links : List (Nat × Nat)) : State :=
  let (anew, s) := s.freeBool
  let f := s.fab
  if anew then
    let s := { s with fab := { f with topo := links } }
    (s.ports.map (·.1)).foldl (fun s p => if (s.port p).up && s.peerOf p = none then s.linkDown p else s) s
  else { s with fab := { f with topo := f.topo ++ links.filter fun e => !f.topo.contains e } }

/-- TREE_INSTALL: a new version, at most four at a time, with the topology table. Groups marked unreachable are routed to again. The
fabric manager may write the port and routing registers with it (14 R314). -/
def execTreeInstall (version : Nat) (links : List (Nat × Nat)) (s : State) : Out3 :=
  let f := s.fab
  if 4 ≤ f.trees.length ∨ f.trees.any (fun t => t.1 == version) then .next s
  else
    .next ((({ s with fab := { f with trees := f.trees ++ [(version, links)], unreach := [], dead := [] } } : State).rewire
      links).managerWrite)

/-- TREE_RETIRE: an older version that no packet at RD bears. -/
def execTreeRetire (version : Nat) (s : State) : Out3 :=
  let f := s.fab
  if (f.rdq.any fun x => x.vc == 2 && x.tree == version) || (f.trees.getLast?.map (·.1)) == some version then .next s
  else .next { s with fab := { f with trees := f.trees.filter fun t => t.1 != version } }

/-! ### Liveness (19 R364) -/

def isGlobal (port : Nat) : Bool := decide (383 ≤ port) && decide (port < 575)

/-- Whether a debugger holds a die of the package. -/
def State.anyHeld (s : State) : Bool := (List.range 4).any fun d => (s.die d).stat == 1

/-- A liveness packet: FMGR of TC0, with the HELD mark while a die is held; it crosses one link. -/
def State.livenessNet (s : State) (q : Nat) : Net := { Net.reset with kind := 9, dpkg := q, spkg := s.own, hops := 1, held := s.anyHeld }

/-- LIVENESS_SEND: an FMGR packet of TC0 on a live global port. -/
def execLivenessSend (port : Nat) (s : State) : Out3 :=
  match s.peerOf port with
  | some q =>
    if isGlobal port && (s.port port).takes (s.livenessNet q) && !s.cutOff then
      .next (s.setPort port ((s.port port).sendNet (s.livenessNet q)))
    else .next s
  | none => .next s

/-- LIVENESS_RECEIVE: liveness from the group that a port leads to, with or without the HELD mark. -/
def execLivenessReceive (port : Nat) (s : State) : Out3 :=
  match s.peerOf port with
  | some q =>
    if !(s.port port).up || s.cutOff then .next s
    else
      let g := pkgGroup q
      let s := if s.fab.alive.contains g then s else { s with fab := { s.fab with alive := s.fab.alive ++ [g] } }
      let (held, s) := s.freeBool
      .next (s.hears q held)
  | none => .next s

/-- The requests to some packages expired at once, and what still waits at RD of them taken out. -/
def State.expireAll (s : State) (sel : Nat → Bool) (cls code : Nat) : State :=
  let f := s.fab
  let old := f.reqs.filter fun r => sel r.pkt.dpkg
  let s := { s with fab := { f with
    reqs := f.reqs.filter fun r => !sel r.pkt.dpkg
    rdq := f.rdq.filter fun x => !(x.spkg == s.own && decide (x.kind ≤ 1) && sel x.dpkg) } }
  old.foldl (fun s r => s.failReq r cls code) s

/-- The package whose CD runs the fabric manager: the live one of the lowest number (14 R312). -/
def State.manager (s : State) : Nat :=
  match s.fab.trees.getLast? with
  | some (_, l) => (treeNodes l).foldl min s.own
  | none => s.own

/-- A report to the fabric manager, as an FMGR packet of TC0 whose data have no layout: free. -/
def State.tellManager (s : State) : State :=
  if s.manager = s.own then s
  else
    let (l, s) := s.freeBytes 8
    { s with fab := { s.fab with rdq := s.fab.rdq ++ [{ Net.reset with kind := 9, dpkg := s.manager, spkg := s.own, data := l }] } }

/-- GROUP_TIMEOUT: a group heard of since its timer began has it begun again; the timer of one with a package that reports HELD is
suspended; a silent one is marked unreachable and reported, and every request to it fails. -/
def execGroupTimeout (group : Nat) (s : State) : Out3 :=
  let f := s.fab
  if f.alive.contains group then .next { s with fab := { f with alive := f.alive.filter (· != group) } }
  else if f.unreach.contains group || group == pkgGroup s.own || f.held.any fun q => pkgGroup q == group then .next s
  else
    .next (((({ s with fab := { f with unreach := f.unreach ++ [group] } } : State).report 15 11 (unitParty 5) 0 0 0).expireAll
      (fun p => pkgGroup p == group) 15 7).tellManager)

/-- VIRAL_NOTICE_RECEIVE: a viral notice of the package that a port leads to counts as its timeout at every level at once: the
links to it go down (class 13), its requests have had no answer (class 14), and nothing goes to it until the next tree, so that
those requests fail as the group's would (class 15). DEDUCED (log 60): the levels in this order, and of the last the package
alone, not its group. -/
def execViralNoticeReceive (port : Nat) (s : State) : Out3 :=
  match s.peerOf port with
  | some q =>
    if !(s.port port).up || s.cutOff then .next s
    else
      let links := (s.ports.map (·.1)).filter fun p => (s.port p).up && s.peerOf p == some q
      let s := links.foldl (fun s p => (s.report 13 12 (unitParty 5) 0 0 0).linkDown p) s
      let s := (s.fab.reqs.filter fun r => r.pkt.dpkg == q).foldl (fun s r => s.reportAt 5 14 11 r.pkt.stile 0) s
      .next (({ s with fab := { s.fab with dead := s.fab.dead.filter (· != q) ++ [q] } } : State).expireAll (fun p => p == q) 15 7)
  | none => .next s

end Sys2Proof.Machine
end

