-- ==== Sys2Proof/Machine/Hostq.lean ====
section
/-! DEFINITION. The command queues: their registers, packets, acceptance and refusal, and the commands on launch records and
package registers (21 R396 to R398, R402; 13 R264, R266; 14 R314; 19 R355, R363). -/

namespace Sys2Proof.Machine

/-! ### Queue registers (21 R396) -/

def qKey (fn q : Nat) : Nat := 16 * (fn % 64) + q % 16
def State.queue (s : State) (k : Nat) : Queue := tget s.queues Queue.reset k
def State.setQueue (s : State) (k : Nat) (x : Queue) : State := { s with queues := tset s.queues k x }

/-- QTAIL_WRITE: a tail written while the queue is stopped takes effect after the restart (21 R398). -/
def Queue.setTail (x : Queue) (v : BitVec 32) : Queue := if x.stop then { x with late := some v } else { x with tail := v }

def execQtailWrite (fn q : Nat) (value : BitVec 32) (s : State) : Out3 :=
  .next (s.setQueue (qKey fn q) ((s.queue (qKey fn q)).setTail value))

/-- QUEUE_RESTART: 1 written to STOP. ERR keeps its value. -/
def Queue.restart (x : Queue) : Queue :=
  if x.stop then { x with stop := false, tail := x.late.getD x.tail, late := none } else x

def execQueueRestart (fn q : Nat) (s : State) : Out3 := .next (s.setQueue (qKey fn q) (s.queue (qKey fn q)).restart)

/-- The queue registers without a move of their own, by their offset among the queue's 32 bytes: QBASE, QSIZE, and QHEAD
while the queue is stopped. A size outside 8 to 20 is not taken. -/
def Queue.put (x : Queue) (off : Nat) (v : W64) : Queue :=
  match off with
  | 0 => { x with base := v &&& ~~~0xFFF#64 }
  | 8 => if 8 ≤ fld v 0 5 ∧ fld v 0 5 ≤ 20 then { x with size := fld v 0 5 } else x
  | 16 => if x.stop then { x with head := v.setWidth 32 } else x
  | _ => x

/-- The 32 bytes of a queue's registers as a read of BAR0 gives them; what is not named reads zero. -/
def Queue.bytes (x : Queue) : List Byte :=
  leBytes 8 x.base.toNat ++ leBytes 4 x.size ++ leBytes 4 x.tail.toNat ++ leBytes 4 x.head.toNat ++ leBytes 4 0 ++
    leBytes 8 (x.err * 2 ^ 8 + if x.stop then 1 else 0)

/-- Bytes that a function reads from BAR0; a viral CD answers configuration reads only (19 R361). -/
def State.bar0 (s : State) (fn off n : Nat) : Option (List Byte) :=
  if (s.party 0).viral then none
  else
    let one (a : Nat) : Byte :=
      if 0x1000 ≤ a ∧ a < 0x1200 then (s.queue (qKey fn ((a - 0x1000) / 32))).bytes.getD (a % 32) 0 else 0
    some ((List.range n).map fun i => one (off + i))

/-- DIESTAT (19 R366). -/
def State.diestat (s : State) : W64 := w64 ((List.range 4).foldl (fun v d => v + (s.die d).stat * 16 ^ d) 0)

/-- What BAR2 of the physical function maps, for reads alone; the spec gives no offsets (21 R395, R401). -/
inductive Bar2 where
  | diestat
  | ftmo
  | lanemap (port : Nat)
  | select (party index : Nat)
  | counter (party index : Nat)
  deriving DecidableEq, Repr

def State.bar2 (s : State) (r : Bar2) : Option W64 :=
  if (s.party 0).viral then none
  else some (match r with
    | .diestat => s.diestat
    | .ftmo => s.fab.ftmo
    | .lanemap p => (s.port p).lanemap
    | .select p i => (tget s.dcnt (0, 0) (32 * p + i)).1
    | .counter p i => (tget s.dcnt (0, 0) (32 * p + i)).2.setWidth 64)

/-- HOST_REG_WRITE: reg is the register's offset in BAR0. -/
def execHostRegWrite (fn reg : Nat) (value : W64) (s : State) : Out3 :=
  if 0x1000 ≤ reg ∧ reg < 0x1200 then
    let k := qKey fn ((reg - 0x1000) / 32)
    .next (s.setQueue k ((s.queue k).put (reg % 32) value))
  else .next s

/-! ### Packets (21 R396, R397) -/

/-- The packet at the head of a queue: its queue, header fields and the bytes of its later units. -/
structure Packet where
  fn   : Nat
  q    : Nat
  que  : Queue
  cmd  : Nat
  len  : Nat
  zero : Nat
  a    : Nat
  b    : W64
  body : List Byte
  deriving DecidableEq, Repr

/-- Bytes of a queue's ring from a unit on. -/
def State.units (s : State) (x : Queue) (first n : Nat) : List Byte :=
  readBytes s.hmem (x.base.toNat + 16 * ((x.head.toNat + first) % 2 ^ x.size)) (16 * n)

/-- The packet that the device reads now: one that QTAIL covers whole, once every earlier write of the host has performed
(10 R207). -/
def State.packet (s : State) (fn q : Nat) : Option Packet :=
  let x := s.queue (qKey fn q)
  let avail := (x.tail - x.head).toNat
  let h := s.units x 0 1
  let at_ (o n : Nat) : Nat := fromLe ((h.drop o).take n)
  let len := at_ 1 1
  let read := if 1 ≤ len ∧ len ≤ 17 then len else 1
  if 64 ≤ fn ∨ x.stop ∨ x.size < 8 ∨ avail < read ∨ !s.hostQuiet then none
  else some ⟨fn % 64, q % 16, x, at_ 0 1, len, at_ 2 2, at_ 4 4, w64 (at_ 8 8), s.units x 1 (read - 1)⟩

/-- The partition of a function. -/
def State.partOfFn (s : State) (fn : Nat) : Option Nat := (s.parts.find? fun p => p.2.valid && p.2.vf == fn).map (·.1)

/-- Whether a snapshot that has begun keeps a function's queues from being read (19 R374). -/
def State.snapHolds (s : State) (fn : Nat) : Bool :=
  match s.snap, s.partOfFn (fn % 64) with
  | some x, some p => x.begun && bitAt x.mask p
  | _, _ => false

/-- The head packet where it bears a command. A viral CD, which writes nothing to host memory, takes none but CAPS.READ, which may have
to be rejected (19 R361; 20 R394; log 65). -/
def State.command (s : State) (fn q cmd : Nat) : Option Packet :=
  if ((s.party 0).viral && cmd != 0x09) || s.snapHolds fn then none else (s.packet fn q).filter fun x => x.cmd == cmd

/-- Unit i of a packet as its low and high halves. -/
def Packet.lo (x : Packet) (i : Nat) : W64 := w64 (fromLe ((x.body.drop (16 * (i - 1))).take 8))
def Packet.hi (x : Packet) (i : Nat) : W64 := w64 (fromLe ((x.body.drop (16 * (i - 1) + 8)).take 8))

/-! ### Decisions (21 R398) -/

/-- The error of a packet's form, 0 for none: LEN, straddling, a PF command from a VF, a reserved field of the header. -/
def Packet.formErr (x : Packet) (lo hi : Nat) (pf : Bool) : Nat :=
  if x.len < lo ∨ hi < x.len then 1
  else if 2 ^ x.que.size < x.que.head.toNat % 2 ^ x.que.size + x.len then 3
  else if pf && x.fn != 0 then 4
  else if x.zero ≠ 0 then 1
  else 0

def Packet.queueNo (x : Packet) : Nat := 256 * x.fn + x.q

/-- A packet refused: the queue stops on it, with a REJECTED entry, class 23, and the function's error interrupt. -/
def State.reject (s : State) (x : Packet) (rcd err : Nat) : State :=
  let s := s.journal x.queueNo jRejected x.cmd rcd x.que.used 0 err
  let s := s.setQueue (qKey x.fn x.q) { x.que with err := err, stop := true }
  (s.irq x.fn 1).report 23 14 (unitParty 0) 0 0 err

/-- A packet accepted: its ACCEPTED entry, whose JSEQ is answered, and its units consumed. -/
def State.accept (s : State) (x : Packet) (rcd : Nat) : Nat × State :=
  let s := s.journal x.queueNo jAccepted x.cmd rcd x.que.used 0 0
  (s.jseq, s.setQueue (qKey x.fn x.q) { x.que with head := x.que.head + BitVec.ofNat 32 x.len, used := x.que.used + x.len })

/-- A command decided: an error refuses it; otherwise its effect follows, given its ACCEPTED entry. -/
def State.settleCmd (s : State) (x : Packet) (rcd err : Nat) (eff : Nat → State → State) : State :=
  if err ≠ 0 then s.reject x rcd err
  else
    let (j, s) := s.accept x rcd
    eff j s

/-- A command of one LEN with its own check, made once its form is right. -/
def State.runCmd (s : State) (fn q cmd len : Nat) (pf : Bool) (rcd : Packet → Nat) (chk : Packet → Nat)
    (eff : Packet → Nat → State → State) : State :=
  match s.command fn q cmd with
  | none => s
  | some x =>
    let e := x.formErr len len pf
    s.settleCmd x (rcd x) (if e ≠ 0 then e else chk x) (eff x)

/-- CMD_NOP, and every packet whose CMD is unknown, which is refused. -/
def knownCmd (c : Nat) : Bool := decide (c ≤ 9) || (decide (0x20 ≤ c) && decide (c ≤ 0x2A))

def execCmdNop (fn q : Nat) (s : State) : Out3 :=
  if (s.party 0).viral || s.snapHolds fn then .next s
  else match s.packet fn q with
    | none => .next s
    | some x =>
      if !knownCmd x.cmd then .next (s.reject x noRec 2)
      else if x.cmd = 0 then .next (s.settleCmd x noRec (x.formErr 1 17 false) fun _ s => s)
      else .next s

/-! ### Commands on launch records (13 R264 to R266, R285; 18 R345) -/

/-- An operand entry within its limits (13 R265). -/
def opndOk (v : Nat) : Bool :=
  let o := opndOf v
  if o.dir = 0 then v == 0 else decide (4 ≤ o.len) && decide (o.len ≤ 262144) && inBank o.sad o.len

/-- A record's bytes within the limits of 13 R264 and R265. -/
def recordOk (l : List Byte) : Bool :=
  let at_ (o n : Nat) : Nat := fromLe ((l.drop o).take n)
  let addr (o m : Nat) : Bool := at_ o 8 % m == 0 && decide (at_ o 8 < 2 ^ 56)
  decide (at_ 0 1 < 128) && at_ 1 1 % 16 != 0 && decide (at_ 1 1 / 16 ≤ 8) && decide (1 ≤ at_ 2 1) && decide (at_ 2 1 ≤ 16) &&
    decide (at_ 3 1 < 64) && addr 8 64 && addr 16 0x400000 && addr 24 32 &&
    ((List.range 8).all fun i => decide (i < at_ 1 1 / 16) || at_ (96 + 2 * i) 2 == 0) &&
    (List.range 12).all fun i => opndOk (at_ (112 + 12 * i) 12)

def Packet.rcd (x : Packet) : Nat := min x.a noRec

/-- The error of a command that names a record: a value outside the pool, a record of another partition, or a state that the
command does not take. -/
def State.recErr (s : State) (x : Packet) (ok : Nat → Bool) : Nat :=
  if 65536 ≤ x.a then 5
  else if s.recState x.a ≠ recFree ∧ s.partOfFn x.fn ≠ some (s.recPart x.a) then 4
  else if ok (s.recState x.a) then 0 else 6

/-- BUILD. -/
def State.buildRec (s : State) (r j : Nat) (l : List Byte) : State :=
  let s := { s with recs := writeRange s.recs (256 * r) l }
  (s.setRecState r recBuilt).setRinf r { RInfo.reset with jref := j }

/-- Whether every successor that a record's bytes name is FREE or of its own partition (18 R338, R350). -/
def State.succsMine (s : State) (l : List Byte) : Bool :=
  let at_ (o n : Nat) : Nat := fromLe ((l.drop o).take n)
  (List.range (min 8 (at_ 1 1 / 16))).all fun i => s.recMine (at_ 3 1 % 64) (at_ (96 + 2 * i) 2)

def State.buildErr (s : State) (x : Packet) : Nat :=
  if s.partOfFn x.fn ≠ some (fromLe ((x.body.drop 3).take 1) % 64) then 4
  else if !recordOk x.body then 5
  else if !(s.succsMine x.body) then 4
  else s.recErr x fun st => st == recFree

def execBuild (fn q : Nat) (s : State) : Out3 :=
  .next (s.runCmd fn q 0x01 17 false Packet.rcd s.buildErr fun x j s => s.buildRec x.a j x.body)

/-- ARM: as LRARM, without its wait. -/
def execArm (fn q : Nat) (s : State) : Out3 :=
  .next (s.runCmd fn q 0x02 1 false Packet.rcd (fun x => s.recErr x fun st => st == recBuilt) fun x j s =>
    (s.setRinf x.a { s.rinf x.a with jref := j }).armRec x.a)

def execRelease (fn q : Nat) (s : State) : Out3 :=
  .next (s.runCmd fn q 0x03 1 false Packet.rcd (fun x => s.recErr x fun st => st == recDone || st == recPoisoned) fun x _ s =>
    s.setRecState x.a recFree)

/-- PREEMPT: a request, which a pinned task refuses (13 R285). -/
def execPreempt (fn q : Nat) (s : State) : Out3 :=
  .next (s.runCmd fn q 0x04 1 false Packet.rcd (fun x => s.recErr x fun st => st == recRunning) fun x _ s =>
    if s.recPin x.a then s else s.request x.a 11 false [])

/-- RESOLVE (18 R345): a record of any state is named. -/
def execResolve (fn q : Nat) (s : State) : Out3 :=
  .next (s.runCmd fn q 0x05 1 false Packet.rcd (fun x => s.recErr x fun _ => true) fun x _ s => s.resolveRec x.a)

/-! ### Commands on package registers -/

/-- The severity floors (19 R356). -/
def sevFloor (c : Nat) : Nat :=
  [1, 0, 2, 0, 1, 2, 0, 1, 1, 1, 0, 1, 1, 1, 1, 1, 1, 1, 1, 1, 3, 3, 0, 1, 2, 1, 2, 1, 5, 5, 1, 3].getD c 0

/-- The matrix's entry of a class and source in its 256 bytes (19 R355). -/
def sevEntry (l : List Byte) (c src : Nat) : Nat :=
  let b := (l.getD (8 * c + src / 2) 0).toNat
  if src % 2 = 0 then b % 16 else b / 16

def sevOk (l : List Byte) : Bool :=
  (List.range 32).all fun c => (List.range 16).all fun k => decide (sevFloor c ≤ sevEntry l c k) && decide (sevEntry l c k ≤ 5)

/-- The entries that differ from their class's default. -/
def sevTab (l : List Byte) : Tab Nat :=
  (List.range 512).filterMap fun k =>
    let a := sevEntry l (k / 16) (k % 16)
    if a = sevDefault (k / 16) then none else some (k, a)

/-- SEVSET. -/
def execSevset (fn q : Nat) (s : State) : Out3 :=
  .next (s.runCmd fn q 0x21 17 true (fun _ => noRec) (fun x => if sevOk x.body then 0 else 5) fun x _ s =>
    { s with matrix := sevTab x.body })

/-- Whether FTMO may hold a value (19 R363). -/
def ftmoOk (v : W64) : Bool :=
  let link := fld v 0 16
  decide (5 ≤ link) && decide (link ≤ 1000) && decide (4 * link ≤ fld v 16 16) && decide (4 * fld v 16 16 ≤ 10 * fld v 32 16)

/-- TMOSET. DESIGN CHOICE (log 66): the reserved bits of the value in B are ignored, as a register ignores them (00 R5). -/
def execTmoset (fn q : Nat) (s : State) : Out3 :=
  .next (s.runCmd fn q 0x22 1 true (fun _ => noRec) (fun x => if ftmoOk x.b then 0 else 5) fun x _ s =>
    { s with fab := { s.fab with ftmo := x.b &&& 0xFFFFFFFFFFFF#64 } })

/-- WDSET (13 R296). -/
def wdErr (x : Packet) : Nat :=
  let ok (n : Nat) : Bool := decide (100 ≤ n) && decide (n ≤ 1000000)
  if x.a < 64 ∧ ok (fld x.b 0 32) ∧ ok (fld x.b 32 32) then 0 else 5

def execWdset (fn q : Nat) (s : State) : Out3 :=
  .next (s.runCmd fn q 0x23 1 true (fun _ => noRec) wdErr fun x _ s =>
    { s with wd := tset s.wd x.a (fld x.b 0 32, fld x.b 32 32) })

/-- POWER: SLEW (21 R402). -/
def slewOk (v : W64) : Bool := fld v 48 8 != 0 && decide (1 ≤ fld v 16 7) && decide (fld v 16 7 ≤ 100)

/-- POWER. DESIGN CHOICE (log 66): the reserved bits of the value in B are ignored, as a register ignores them (00 R5). -/
def execPower (fn q : Nat) (s : State) : Out3 :=
  .next (s.runCmd fn q 0x24 1 true (fun _ => noRec) (fun x => if slewOk x.b then 0 else 5) fun x _ s =>
    { s with slew := x.b &&& 0xFFFFFFFF007FFFFF#64 })

/-! ### FABSET (14 R314) -/

/-- Whether a FABSET names a port or every port (21 R397). -/
def Packet.portOk (x : Packet) : Bool := decide (x.a % 1024 < 576) || x.a % 1024 == 0x3FF

/-- The head packet where it is a FABSET of one register; one of no register goes with PCTL. DESIGN CHOICE (log 66): the reserved bits
of the value in B are ignored, as a register ignores them (00 R5). -/
def State.fabset (s : State) (fn q reg : Nat) (chk : Packet → Nat) (eff : Packet → State → State) : State :=
  match s.command fn q 0x2A with
  | none => s
  | some x =>
    let r := x.a / 2 ^ 16 % 4
    if r ≠ reg ∧ !(r = 3 ∧ reg = 0) then s
    else
      let e := x.formErr 2 2 true
      let zero := x.a / 2 ^ 10 % 2 ^ 6 != 0 || x.a / 2 ^ 18 != 0 || x.lo 1 != 0 || x.hi 1 != 0
      s.settleCmd x noRec (if e ≠ 0 then e else if zero then 1 else if r = 3 ∨ !x.portOk then 5 else chk x) fun _ s => eff x s

def execFabsetPctl (fn q : Nat) (s : State) : Out3 :=
  .next (s.fabset fn q 0
    (fun x => if fld x.b 0 8 = 0 ∨ fld x.b 8 16 = 0 then 5 else 0)
    fun x s => s.putPctl (x.a % 1024) x.b)

def execFabsetRcfg (fn q : Nat) (s : State) : Out3 :=
  .next (s.fabset fn q 1 (fun _ => 0) fun x s => { s with fab := { s.fab with rcfg := x.b &&& 0xFFFF#64 } })

def execFabsetTcw (fn q : Nat) (s : State) : Out3 :=
  .next (s.fabset fn q 2 (fun _ => 0) fun x s => { s with fab := { s.fab with tcw := x.b } })

/-! ### What comes from outside the queues (01 R15; 05 R118; 21 R399) -/

/-- PACKAGE_NUMBER_ASSIGN: a place of the address plan (01 R14, R15). In the bring-up service COORD.PVAL stays 0. -/
def execPackageNumberAssign (group : BitVec 17) (member : BitVec 9) (s : State) : Out3 :=
  if s.full && !badPkg (group.toNat * 512 + member.toNat) then .next { s with pval := true, group := group, member := member } else .next s

/-- DEBUGGER_ATTACH. -/
def execDebuggerAttach (part : Nat) (on : Bool) (s : State) : Out3 :=
  let rest := s.dbg.filter (· != part % 64)
  .next { s with dbg := if on then rest ++ [part % 64] else rest }

/-- TRAINING_COMPLETE. -/
def execTrainingComplete (s : State) : Out3 := .next { s with trained := true }

/-- FULL_SERVICE_BEGIN: once training is complete, as no task is RUNNING; every die not dropped is admitted. -/
def execFullServiceBegin (s : State) : Out3 :=
  if s.trained && !s.full && s.runs.isEmpty then
    let serve (s : State) (d : Nat) : State := s.modDie d fun x => { x with stat := if x.stat = 4 then 0 else x.stat }
    .next ((List.range 4).foldl serve { s with full := true })
  else .next s

end Sys2Proof.Machine
end

