-- ==== Sys2Proof/Machine/Partition.lean ====
section
/-! DEFINITION. The partition table and the clearing of what it grants, invalidations, and the fault rings (18 R335 to R337,
R344, R347, R351). -/

namespace Sys2Proof.Machine

/-! ### An entry's bytes (18 R335) -/

def entAt (l : List Byte) (o n : Nat) : Nat := fromLe ((l.drop o).take n)

/-- An entry's extents in use. -/
def entExt (l : List Byte) : List (Nat × Nat) :=
  ((List.range 16).map fun i => (entAt l (64 + 8 * i) 8 % 2 ^ 36 * 65536, entAt l (64 + 8 * i) 8 / 2 ^ 40)).filter fun e => e.2 != 0

def partOf (l : List Byte) : PartE where
  valid := entAt l 0 1 % 2 == 1
  vf := entAt l 1 1
  asid := entAt l 2 2
  ptag := entAt l 4 2
  tcmask := BitVec.ofNat 8 (entAt l 6 1)
  tiles := Vector.ofFn fun i => w64 (entAt l (8 + 8 * i.val) 8)
  root := entAt l 40 8
  resimg := entAt l 48 8
  fring := w64 (entAt l 56 8)
  ext := entExt l

/-- Whether every reserved field of an entry's bytes is zero. -/
def entZero (l : List Byte) : Bool :=
  decide (entAt l 0 1 < 2) && decide (entAt l 1 1 < 64) && entAt l 6 1 % 4 == 0 && entAt l 7 1 == 0 &&
    entAt l 56 8 / 16 % 256 == 0 && decide (entAt l 56 8 < 2 ^ 52) &&
    ((List.range 16).all fun i => entAt l (64 + 8 * i) 8 / 2 ^ 36 % 16 == 0) && entAt l 192 32 == 0 && entAt l 224 32 == 0

/-! ### Refusals (18 R335, R351; 21 R399) -/

def rangesMeet (a b : Nat × Nat) : Bool := decide (a.1 < b.1 + b.2) && decide (b.1 < a.1 + a.2)

/-- An extent as base and length in bytes. -/
def extBytes (e : Nat × Nat) : Nat × Nat := (e.1, e.2 * 65536)

/-- The journal body and the Cartouche region. -/
def keptRange : Nat × Nat := (0xBEFC00000, 0x400000 + 0x10000000)

/-- An extent on backed addresses, outside what CD keeps, and in the bring-up service in H0 and H1. -/
def State.extOk (s : State) (e : Nat × Nat) : Bool :=
  let b := extBytes e
  backed b.1 && backed (b.1 + b.2 - 1) && stackOf b.1 == stackOf (b.1 + b.2 - 1) && !rangesMeet b keptRange &&
    (s.full || decide (stackOf b.1 < 2))

/-- The entries of a restore. -/
def Rest.ents (r : Rest) : List (Nat × PartE) := r.kept.parts.filter fun e => bitAt r.mask e.1

/-- The entries that hold what they name: the valid ones, and those that are accepted and held. -/
def State.holders (s : State) : List (Nat × PartE) :=
  (s.parts ++ (s.psets.map fun p => (p.1, p.2.1)) ++ s.rest.toList.flatMap Rest.ents).filter fun p => p.2.valid

/-- Whether two entries of different partitions name one thing; an entry that is not valid takes no ASID, tag or function. -/
def PartE.clash (a b : PartE) : Bool :=
  (a.valid && (a.asid == b.asid || a.ptag == b.ptag || a.vf == b.vf)) || ((a.tcmask &&& b.tcmask) >>> 2) != 0 ||
    ((List.range 4).any fun i => a.tiles.get (Fin.ofNat 4 i) &&& b.tiles.get (Fin.ofNat 4 i) != 0) ||
    a.ext.any fun e => b.ext.any fun f => rangesMeet (extBytes e) (extBytes f)

/-- ROOT, RESIMG and the fault ring where an entry needs them. -/
def PartE.placed (e : PartE) : Bool :=
  let ring := fld e.fring 12 40 * 4096
  e.root % 0x20000 == 0 && e.resimg % 64 == 0 && covered e.ext e.root 0x20000 && covered e.ext e.resimg 0x8000 &&
    (decide (hostBase ≤ ring) || covered e.ext ring (32 * 2 ^ (fld e.fring 0 4 + 6)))

/-- Whether an entry only adds tiles, extents or classes to another. -/
def PartE.extends_ (e old : PartE) : Bool :=
  e.valid == old.valid && e.vf == old.vf && e.asid == old.asid && e.ptag == old.ptag && e.root == old.root &&
    e.resimg == old.resimg && e.fring == old.fring && (old.tcmask &&& ~~~e.tcmask) == 0 &&
    ((List.range 4).all fun i => old.tiles.get (Fin.ofNat 4 i) &&& ~~~(e.tiles.get (Fin.ofNat 4 i)) == 0) &&
    old.ext.all fun x => covered e.ext (extBytes x).1 (extBytes x).2

/-- Whether a PARTSET is refused. R335 makes its refusals of an entry whether or not it is valid, so that a partition is taken
away by its own entry with VALID = 0. -/
def State.partsetErr (s : State) (x : Packet) : Nat :=
  let e := partOf x.body
  let others := s.holders.filter fun p => p.1 != x.a
  let bad := decide (64 ≤ x.a) || !entZero x.body || (s.psets.any fun p => p.1 == x.a) || (s.rest.any fun r => bitAt r.mask x.a) ||
    (others.any fun p => e.clash p.2) || !(e.ext.all s.extOk) || !e.placed ||
    ((s.runs.any fun r => r.part == x.a) && !e.extends_ (s.partE x.a))
  if bad then 5 else 0

/-! ### What an entry grants (18 R336) -/

/-- The tiles, extent pages and classes of a new entry that the old one does not hold. -/
def grantTiles (new old : PartE) : List Nat := new.tilesOf.filter fun n => !old.tilesOf.contains n

def grantTcs (new old : PartE) : List Nat :=
  if !new.valid then [] else (List.range 8).filter fun c => new.tcmask.getLsbD c && !(old.valid && old.tcmask.getLsbD c)

/-- Whether an entry grants an extent page, said of its extents' pages one after another. -/
def grantsPage (new old : PartE) : Bool :=
  new.valid && !(old.valid && new.ext.all fun e => covered old.ext e.1 (e.2 * 65536))

def grants (new old : PartE) : Bool := !(grantTiles new old).isEmpty || grantsPage new old || !(grantTcs new old).isEmpty

/-! ### Clearing (18 R336, R337) -/

/-- A device range zeroed at its home, with every copy of its lines dropped and its poison cleared. -/
def State.zeroRange (s : State) (b : Nat × Nat) : State :=
  let inside (a : Nat) : Bool := b.1 ≤ a && a < b.1 + b.2
  { s with
    dmem := s.dmem.filter fun c => !inside c.1
    poison := s.poison.filter fun q => !inside (32 * q)
    dies := s.dies.map fun d => (d.1, { d.2 with
      rdc := d.2.rdc.filter fun l => !inside (128 * l.1)
      fills := d.2.fills.filter fun l => !inside (128 * l.2)
      l2 := d.2.l2.filter fun l => !inside (128 * l.line) }) }

/-- The part of an extent that lies outside others, each taken away in turn. -/
def subtract (e : Nat × Nat) : List (Nat × Nat) → List (Nat × Nat)
  | [] => [e]
  | o :: r =>
    let lo : Nat × Nat := (e.1, min (e.1 + e.2) o.1 - e.1)
    let hi : Nat × Nat := (max e.1 (o.1 + o.2), (e.1 + e.2) - max e.1 (o.1 + o.2))
    if rangesMeet e o then (if lo.2 = 0 then [] else subtract lo r) ++ if hi.2 = 0 then [] else subtract hi r
    else subtract e r

/-- The ranges of device memory that an entry grants. -/
def grantRanges (new old : PartE) : List (Nat × Nat) :=
  if !new.valid then []
  else new.ext.flatMap fun e => subtract (extBytes e) (if old.valid then old.ext.map extBytes else [])

/-- Every translation of an ASID dropped: TLB entries of both levels, walks and their answers. -/
def State.flushAsid (s : State) (asid : Nat) : State :=
  { s with
    dies := s.dies.map fun d => (d.1, { d.2 with
      tlb2 := d.2.tlb2.filter fun e => e.asid != asid
      walks := d.2.walks.filter fun w => w.asid != asid
      found := d.2.found.filter fun f => f.asid != asid })
    tiles := s.tiles.map fun t => (t.1, { t.2 with tlb := t.2.tlb.filter fun e => e.asid != asid })
    mig := s.mig.filter fun e => e.asid != asid }

/-- Whether an entry is of the same partition as another: of one function, ASID and fabric tag. -/
def PartE.same (e old : PartE) : Bool :=
  e.valid && old.valid && e.vf == old.vf && e.asid == old.asid && e.ptag == old.ptag

/-- The classes that an entry gives up, each with the tag under which it was held. -/
def leftTags (e old : PartE) : List (Nat × Nat) :=
  if !old.valid then []
  else ((List.range 8).filter fun c => old.tcmask.getLsbD c &&
    !(e.valid && e.tcmask.getLsbD c && e.ptag == old.ptag)).map fun c => (c, old.ptag)

/-- The owner of a tile under a partition's new entry: the function and ASID of the entry where it keeps the tile. -/
def PartE.owns (e : PartE) (p n : Nat) (o : Option Owner) : Option Owner :=
  match o with
  | some x => if x.part ≠ p then o else if e.tilesOf.contains n then some ⟨p, e.vf, e.asid⟩ else none
  | none => none

/-- A partition's entry replaced. One that does more than add leaves no translation of either ASID behind, so that none
resolves outside the new entry's extents (18 R338, R342, R350). The tiles that it keeps bear its function from then on. Where it is
another partition's, the former one leaves it no journal entry of its records, no held fault record and no fault sequence (18
R344, 19 R372). -/
def State.setPart (s : State) (p : Nat) (e : PartE) : State :=
  let old := s.partE p
  let s := if e.extends_ old then s else (s.flushAsid old.asid).flushAsid e.asid
  let s := if e.same old then s
    else { s with jown := s.jown.filter fun o => o.2 != p + 1, frings := s.frings.filter fun f => f.1 != p }
  { s with
    parts := tset s.parts p e
    oldTags := (s.oldTags ++ leftTags e old).eraseDups
    tiles := s.tiles.map fun t => (t.1, { t.2 with owner := e.owns p t.1 t.2.owner }) }

/-- An entry takes effect whole, with what it grants cleared. -/
def State.grant (s : State) (p : Nat) (e : PartE) : State :=
  let old := s.partE p
  let tiles := grantTiles e old
  let s := ((grantRanges e old).foldl State.zeroRange s).setPart p e
  tiles.foldl (fun s n => s.clearTile p n e) s

/-- PARTSET: an entry that grants nothing takes effect at once; another is held. -/
def State.partset (s : State) (p j : Nat) (e : PartE) : State :=
  if grants e (s.partE p) then { s with psets := s.psets ++ [(p, e, j)] } else s.setPart p e

def execPartset (fn q : Nat) (s : State) : Out3 :=
  .next (s.runCmd fn q 0x20 17 true (fun _ => noRec) s.partsetErr fun x j s => s.partset x.a j (partOf x.body))

/-- The packets of 14 R307 that a list of packets bears. -/
def netsOf (l : List Pkt) : List Net := l.filterMap fun p => match p.body with
  | .net x => some x
  | _ => none

/-- Every packet of 14 R307 that a router of the package holds: on the mesh, at the parties and between them, in RD and at its
ports. -/
def State.netsHeld (s : State) : List Net :=
  s.fab.rdq ++ (s.paths.flatMap fun q => netsOf q.2) ++
    (s.parties.flatMap fun q => netsOf ((q.2.out.flatMap (·.2)) ++ q.2.hold.map (·.pkt))) ++
    (s.links.flatMap fun q => netsOf (q.2.map (·.pkt))) ++
    s.ports.flatMap fun q => (q.2.pkts.map (·.2)) ++ (q.2.rx.bind fun l => Net.ofBytes (l.take 64) (l.drop 64)).toList

/-- Whether a record holds a pin in a range of device memory. -/
def State.pinsMeet (s : State) (b : Nat × Nat) : Bool := s.rinfo.any fun r => r.2.pins.any fun e => rangesMeet e.range b

/-- Whether a tile has begun to serve a get that it has not answered. -/
def Tile.serving (t : Tile) : Bool := t.inbox.any fun q => match q.2.body with
  | .net x => x.kind == 1 && !x.data.isEmpty
  | _ => false

/-- Whether a held grant may be cleared (18 R336): no task is on a granted tile, which serves nobody's get any more, no record pins a
page of a granted extent, and no router holds a packet of a granted class that bears an earlier owner's tag. An entry that does
more than add waits until no task of its partition runs (18 R351). -/
def State.mayGrant (s : State) (p : Nat) (e : PartE) : Bool :=
  let old := s.partE p
  ((grantTiles e old).all fun n => (s.tile n).task.isNone && (s.tile n).async.isEmpty && !(s.tile n).serving) &&
    (grantRanges e old).all (fun b => !s.pinsMeet b) &&
    (s.netsHeld.all fun x => !(grantTcs e old).contains x.tc || !s.oldTags.contains (x.tc, x.ptag)) &&
    (e.extends_ old || !s.runs.any fun x => x.part == p)

/-- A held PARTSET done. -/
def State.granted (s : State) (p j : Nat) (e : PartE) : State :=
  ({ s.grant p e with psets := s.psets.filter fun x => x.1 != p } : State).journalDev jDone noRec j 0

/-! ### Invalidation (18 R347, R349) -/

/-- The invalidation that a command names. -/
def Packet.inval (x : Packet) (id : Nat) : InvP := ⟨id, x.a % 65536, x.b.toNat, (x.lo 1).toNat⟩

/-- Whether an invalidation covers a page that a record of its ASID holds pinned. -/
def State.hitsPin (s : State) (v : InvP) : Bool := s.rinfo.any fun r => r.2.pins.any fun e => v.hits e

def State.invalErr (s : State) (x : Packet) : Nat :=
  if x.a / 65536 ≠ 0 ∨ 2 ^ 56 ≤ (x.lo 1).toNat ∨ x.hi 1 ≠ 0 then 1
  else if x.fn ≠ 0 ∧ (s.partOfFn x.fn).map (fun p => (s.partE p).asid) ≠ some (x.a % 65536) then 4
  else if 2 ^ 56 ≤ x.b.toNat ∨ s.hitsPin (x.inval 0) then 5
  else 0

/-- An invalidation sent: the last-level TLBs drop its entries at once, walks in flight install nothing there, and it is
pending at each tile that holds a started task of the ASID. -/
def State.invalidate (s : State) (v : InvP) (j : Nat) : State :=
  let holds (t : Tile) : Bool := t.boot.isNone && t.task.any fun b => (s.partE b.part).asid == v.asid
  { s with
    invn := s.invn + 1
    invs := s.invs ++ [⟨v, j⟩]
    dies := s.dies.map fun d => (d.1, { d.2 with
      tlb2 := d.2.tlb2.filter fun e => !v.hits e
      walks := d.2.walks.map fun w => if w.asid = v.asid then { w with keep := false } else w })
    tiles := s.tiles.map fun e => if holds e.2 then (e.1, { e.2 with invals := e.2.invals ++ [v] }) else e }

def execInval (fn q : Nat) (s : State) : Out3 :=
  .next (s.runCmd fn q 0x06 2 false (fun _ => noRec) s.invalErr fun x j s => s.invalidate (x.inval s.invn) j)

/-- INVAL_DONE: an invalidation that no tile has still to acknowledge. Migratable pages in its range may then go back to the
host: their copies are purged before its first access (10 R208, 18 R346). -/
def State.invalDone (s : State) (f : InvF) : State :=
  let (gone, kept) := s.mig.partition f.inv.hits
  let s := gone.foldl (fun s e => s.purge e.range) s
  ({ s with mig := kept, invs := s.invs.filter fun x => x.inv.id != f.inv.id } : State).journalDev jDone noRec f.jref 0

def execInvalDone (index : Nat) (s : State) : Out3 :=
  match s.invs[index]? with
  | some f =>
    if s.tiles.any fun e => e.2.invals.any fun v => v.id == f.inv.id then .next s else .next (s.invalDone f)
  | none => .next s

/-! ### Fault rings (18 R344) -/

/-- FAULT_RING_FLUSH: the oldest held record of a partition, as a slot of its ring frees. -/
def State.flushFault (s : State) (p : Nat) (f : FRing) (l : List Byte) (r : List (List Byte)) : State :=
  ({ s with frings := tset s.frings p { f with held := r } } : State).putFault p l

def execFaultRingFlush (part : Nat) (s : State) : Out3 :=
  let f := tget s.frings FRing.reset part
  match f.held with
  | l :: r => if (s.party 0).viral then .next s else .next (s.flushFault part f l r)
  | [] => .next s

end Sys2Proof.Machine
end

