-- ==== Sys2Proof/Machine/Severity.lean ====
section
/-! DEFINITION. Errors and what the severity matrix does with them: attribution, counts, events, kills, partition resets, the
viral state (19 R355 to R361). -/

namespace Sys2Proof.Machine

/-! ### Attribution (19 R358) -/

/-- To what an error is attributed: a task, a partition, and the task's tile. -/
structure Attr where
  task : Option Nat
  part : Option Nat
  deriving DecidableEq, Repr

/-- The partition whose extent holds an address. -/
def State.partAt (s : State) (pa : Nat) : Option Nat :=
  (s.parts.find? fun p => p.2.valid && p.2.ext.any fun e => e.1 ≤ pa && pa < e.1 + e.2 * 65536).map (·.1)

/-- An error of a tile is its task's, or that of the partition that holds the tile; one in a packet that bears a fabric tag is
that of the partition with the tag; one of memory, a task's frame or image among it, is that of the partition that holds the
page. -/
def State.attrOf (s : State) (e : Err) : Attr :=
  if e.site.unit < 256 then
    let t := s.tile e.site.unit
    ⟨t.task.map (·.rcd), t.part⟩
  else match e.ptag with
    | some g => ⟨none, s.partTagged g⟩
    | none => if (2 ≤ e.site.cls ∧ e.site.cls ≤ 5) ∨ e.site.cls = 21 ∨ e.site.cls = 25 then ⟨none, s.partAt e.site.addr⟩ else ⟨none, none⟩

/-- The action taken: KILL needs a task, and RESETP a partition; otherwise INTR stands for it. -/
def actionFor (a : Attr) (act : Nat) : Nat :=
  if act = 3 ∧ a.task.isNone then 2 else if act = 4 ∧ a.part.isNone then 2 else act

/-- The action taken for an error: the one in force at its detection (19 R355). -/
def State.actionOf (s : State) (e : Err) : Nat :=
  actionFor (s.attrOf e) (e.act.getD (s.action e.site.cls e.site.source))

/-- The party on which an error is detected: CD for the dispatcher and the host attachment, and RD for its routers and links (19
R355, 20 R376). -/
def unitPartyOf (u : Nat) : Nat := if u < 256 then partyOf (dieOf u) else u % 256 % 6
def Err.at_ (e : Err) : Nat :=
  e.party.getD (match e.site.source with
    | 11 | 12 => 5
    | 13 | 14 => 0
    | _ => unitPartyOf e.site.unit)

/-! ### What every error leaves (19 R357, R359, R368; 20 R386; 21 R401) -/

/-- SEVM after an error of action LOG or above. -/
def nextSevm (v : W64) (cls src act : Nat) : W64 :=
  w64 (min (fld v 32 16 + 1) 65535 * 2 ^ 32 + cls % 32 * 2 ^ 22 + src % 16 * 2 ^ 18 + act % 8 * 2 ^ 15)

/-- Whether an error counts towards the dropping of a compute die. -/
def countsForDrop (e : ErrSite) : Bool :=
  (e.cls == 0 || e.cls == 2 || e.cls == 31) && (decide (e.unit < 256) || e.source == 3 || e.cls == 31) &&
    decide (1 ≤ unitPartyOf e.unit) && decide (unitPartyOf e.unit ≤ 4)

/-- What an error leaves behind: its counts, its event where its action is LOG or above, and the SEVM of its task's tiles. An
error of a checker has no address; a virtual one stands as its bits [55:8] (20 R377). -/
def State.noteError (s : State) (r : Err) : State :=
  let e := r.site
  let a := s.attrOf r
  let act := s.actionOf r
  let p := r.at_
  let k := 16 * e.cls + e.source
  let s := { s with sevcnt := tset s.sevcnt k (min (tget s.sevcnt 0 k + 1) (2 ^ 32 - 1)) }
  let s := s.dieCount p (11 + e.cls) 1
  let s := if countsForDrop e then s.modDie (unitPartyOf e.unit - 1) fun x => { x with errs := x.errs + 1 } else s
  if act = 0 then s
  else
    let s := s.dieEvent p a.part 0x26 (if e.cls = 0 then 0 else if r.va then e.addr / 256 else e.addr / 16) (e.cls % 32 + e.source % 16 * 32 + act * 512)
    match a.task.bind s.run with
    | some x => x.tiles.foldl (fun s n => s.modTile n fun t => { t with sevm := nextSevm t.sevm e.cls e.source act }) s
    | none => s

/-! ### The actions (19 R357, R361) -/

/-- TRAPC and TRAPV of a task that an error kills: those of the trap that was not taken, whose TRAPV the error bears as its
address (19 R353); zero where the error stands for no trap, as one that an engine meets. -/
def State.deadBy (s : State) (e : ErrSite) : Dead :=
  let t := s.tile e.unit
  let st := if e.cls = 21 then 1 else 2
  match (if e.cls = 20 then t.double else none) with
  | some d => ⟨st, trapcOf d.cause d.slot d.detail, d.v, e.cls, e.source⟩
  | none =>
    if ((e.cls = 0 ∨ e.cls = 2) ∧ e.slot < 4) ∨ ((e.cls = 5 ∨ e.cls = 8 ∨ e.cls = 26) ∧ e.detail % 16 ≠ 0) then
      ⟨st, trapcOf .pipe (slotOf e.slot) e.detail, w64 e.addr, e.cls, e.source⟩
    else ⟨st, 0, 0, e.cls, e.source⟩

/-- The records of a partition in BUILT, ARMED or READY. -/
def State.recsIn (s : State) (p : Nat) : List Nat :=
  (s.recs.filterMap fun c => if c.1 % 256 = 0 then some (c.1 / 256) else none).filter fun r =>
    s.recPart r == p && (s.recState r == recBuilt || s.recState r == recArmed || s.recState r == recReady)

/-- A partition's queues stopped, with an error status that the rules do not give. -/
def State.stopQueues (s : State) (fn : Nat) : State :=
  (List.range 16).foldl (fun s q =>
    let (k, s) := s.freeNat
    let x := s.queue (qKey fn q)
    s.setQueue (qKey fn q) { x with stop := true, err := k % 255 + 1 }) s

/-- A partition reset by an error. Its tasks are killed, each with the TRAPC and TRAPV of the error, and a task that the error has
lost with its own status (19 R369); its tiles are cleared once they have left them. -/
def State.resetPart (s : State) (p : Nat) (lost : Option Nat) (d : Dead) : State :=
  let s := ((s.runs.filter fun x => x.part == p).map (·.rcd)).foldl
    (fun s r => s.kill r (if lost = some r then d else { d with status := 2 })) s
  let s := (s.recsIn p).foldl (fun s r => s.endRec r ⟨3, 0, 0, 0, 0⟩) s
  let s := s.stopQueues (s.partE p).vf
  ({ s with wipe := s.wipe ++ [p] } : State).wiped p

/-- An action taken, with the lower ones that it includes. -/
def State.act (s : State) (r : Err) (a : Attr) (n : Nat) : State :=
  let e := r.site
  let s := if 2 ≤ n then s.irq ((a.part.map fun p => (s.partE p).vf).getD 0) 1 else s
  match n with
  | 3 => match a.task with
    | some r => s.kill r (s.deadBy e)
    | none => s
  | 4 => match a.part with
    | some p => s.resetPart p a.task (s.deadBy e)
    | none => s
  | 5 => s.goViral e.cls e.source n (if r.at_ = unitPartyOf e.unit then e.unit else unitParty r.at_)
  | _ => s

/-- Of some errors with their actions, the first of the highest. -/
def highest : List (Err × Attr × Nat) → Option (Err × Attr × Nat)
  | [] => none
  | x :: r =>
    match highest r with
    | some y => if x.2.2 < y.2.2 then some y else some x
    | none => some x

/-- The errors of one cycle of a tile, or of one move: each is recorded, and on each party the highest of their actions is taken
once. -/
def State.settleErrors (s : State) : State :=
  let l := s.errs
  if l.isEmpty then s
  else
    let plan := l.map fun e => (e, s.attrOf e, s.actionOf e)
    let s := l.foldl State.noteError { s with errs := [] }
    (List.range 6).foldl (fun s p =>
      match highest (plan.filter fun x => x.1.at_ == p) with
      | some (e, a, n) => s.act e a n
      | none => s) s

/-- Whether a tile is within a cycle. -/
def State.inCycle (s : State) : Bool := match s.agenda with
  | .tile n :: _ => decide (n < 256) && (s.tile n).phase != 0
  | _ => false

/-- The errors that a step leaves are acted on once the cycle in which they are detected is over (19 R357). -/
def State.settleStep (s : State) : State := if s.inCycle then s else s.settleErrors

/-! ### ERROR_DETECTED (04 R93; 19 R354, R357, R360, R369) -/

/-- The classes that a checker, an ECC code or firmware detects with no move of their own. -/
def detectable (c : Nat) : Bool := [0, 1, 2, 3, 4, 6, 21, 24, 27, 28, 29, 30, 31].contains c

/-- What an error's DETAIL chooses: its UNIT (19 R353); which word with results in flight meets it, counted over the slot, the next
word where there are no so many; and which of that word's results is the failing one. -/
def errUnit (e : ErrSite) : Nat := e.detail / 16 % 5
def errWord (e : ErrSite) : Nat := e.detail / 2 ^ 7 % 2 ^ 10
def errResult (e : ErrSite) : Nat := e.detail / 2 ^ 17

/-- Words of a slot with results still to come: issue cycle and PC. -/
def Tile.flying (t : Tile) (k : Slot) : List (Nat × Nat) :=
  ((t.pend.filter fun p => p.slot == k).map (fun p => (p.iss, p.pc)) ++
    (if k = .v then t.vjobs.map fun j => (j.iss, j.pc) else []) ++
    (if k = .m then t.eng.cmd.toList.map fun c => (c.iss, c.pc) else [])).eraseDups

/-- Whether the engine's command is the word of slot k that issued at a cycle. -/
def Tile.isCmd (t : Tile) (k : Slot) (iss : Nat) : Bool := k == .m && t.eng.cmd.any fun c => c.iss == iss

/-- The write cycle of the next group of a CRUN, and the groups' first samples by write cycle (07 R173). -/
def Eng.nextGroup (e : Eng) (r : Crun) : List Nat :=
  if r.done < r.count then [r.start + groupTime (groupSize r.count r.done) e.nf (fmtBytes r.fmt) + 4] else []
def Eng.groupAt (e : Eng) (r : Crun) (iss at_ : Nat) : Option Nat :=
  let w := fmtBytes r.fmt
  ((List.range ((r.count + 3) / 4)).map (4 * ·)).find? fun s =>
    groupStart iss r.count e.nf w s + groupTime (groupSize r.count s) e.nf w + 4 == at_

/-- The cycles at which a word's results are still to be written, as far as its beats, steps and groups have been read, and those
of the beat, step or group that is read next. -/
def Tile.resultsOf (t : Tile) (k : Slot) (iss : Nat) : List Nat :=
  (t.pend.filter fun p => p.slot == k && p.iss == iss).map (·.at_) ++
    (if k = .v then (t.vjobs.filter fun j => j.iss == iss).map fun j => j.writeAt j.beat else []) ++
    if t.isCmd k iss then t.eng.upds.map (·.at_) ++ (t.eng.nest.toList.map fun n => n.start + n.time + 6) ++
        t.eng.crun.toList.flatMap t.eng.nextGroup
      else []

/-- TRAPV of a checker's mismatch in the result of a word that is written at a cycle: the step of a nest, or the first sample of a
group of CRUN; zero otherwise (19 R353, 06 R161, 07 R179). -/
def Tile.failStep (t : Tile) (k : Slot) (iss at_ : Nat) : W64 :=
  if t.isCmd k iss then
    match t.eng.upds.find? fun u => u.at_ == at_ with
    | some u => w64 u.num
    | none =>
      match t.eng.nest, t.eng.crun with
      | some n, _ => if at_ = n.start + n.time + 6 then w64 n.num else 0
      | none, some r => w64 ((t.eng.groupAt r iss at_).getD 0)
      | none, none => 0
  else 0

/-- A word broken off by an error (04 R93): its results from a cycle on are not written, no later beat, step or group of it is
read, and it gives no token (03 R59). DEDUCED (log 57): results of one cycle count as one. -/
def Tile.failWord (t : Tile) (k : Slot) (iss at_ : Nat) : Tile :=
  let lost (p : PendW) : Bool := p.slot == k && p.iss == iss && decide (at_ ≤ p.at_)
  let regs := (t.pend.filter lost).filterMap fun p => match p.tgt with
    | .reg _ n bank _ => some (n.val + if bank then 64 else 0, p.at_)
    | .grd _ n bank _ => some (32 + n.val + if bank then 64 else 0, p.at_)
    | .xreg n _ => some (40 + n.val, p.at_)
    | _ => none
  { t with
    pend := t.pend.filter fun p => !lost p
    board := t.board.filter fun b => !(b.slot == k && regs.contains (b.code, b.at_))
    reserved := t.reserved.filter fun r => !(r.slot == k && r.iss == iss && decide (at_ ≤ r.at_))
    vjobs := t.vjobs.filter fun j => !(k == .v && j.iss == iss)
    tpush := t.tpush.filter fun p => !(p.slot == k && p.iss == iss)
    eng := if t.isCmd k iss then { t.eng with
        cmd := none, nest := none, crun := none, susp := t.eng.susp && !t.eng.cmd.any (·.kind.nests)
        upds := t.eng.upds.filter fun u => u.at_ < at_ }
      else if k = .m then { t.eng with save := t.eng.save.filter fun s => s.iss != iss }
      else t.eng }

/-- What an uncorrectable word of the scratchpad fails where an engine reads it, the choice being free: a copy command, with
ECODE 2; a put that is being read, or a get that is being served; a contribution, whose member sets FAIL and aborts as it does
when no CACK comes (19 R354, R360). -/
inductive EngRead where
  | copy (seq : Nat)
  | put (c : Tm)
  | get (index : Nat) (x : Net)
  | contrib (ent : Nat)
  deriving DecidableEq, Repr

def Tile.engReads (t : Tile) : List EngRead :=
  ((t.chain.act.filter fun c => c.code == 0).map fun c => .copy c.seq) ++
    (t.tmq.filterMap fun c =>
      if c.lvl ≠ 0 ∨ c.get then none
      else match c.coll with
        | some (e, _, _) => some (.contrib e)
        | none => some (.put c)) ++
    t.inbox.zipIdx.filterMap fun p => match p.1.2.body with
      | .net x => if x.kind = 1 then some (.get p.2 x) else none
      | _ => none

/-- PUTX's code for a put or get that an uncorrectable word fails: that of a loss (log 57). -/
def badWord : Nat := 5

def State.engineFails (s : State) (n choice : Nat) : State :=
  let l := (s.tile n).engReads
  match l[choice % max 1 l.length]? with
  | none => s
  | some (.copy seq) => s.modTile n fun t => t.copyFail seq 2
  | some (.put c) => s.tmEnd n c.id badWord { Net.reset with dtile := tgtTile c.tgt, dpkg := s.tgtPkg c.tgt }
  | some (.get i x) =>
    let s := (s.dropInbox n i).refuseEvent n x badWord
    if x.spkg = s.own then s.answerPut n x badWord else s
  | some (.contrib e) =>
    ((s.modTile n fun t => t.setCent e { t.cent e with fail := true }).report 17 10 n 1 0 0).abortMember n e

/-- Whether a slot's word meets the error: a checker's mismatch, or an SRAM word that the slot reads. -/
def metBySlot (e : ErrSite) : Bool := decide (e.unit < 256) && decide (e.slot < 4) && (e.cls == 0 || e.cls == 2)

/-- An error met by a word in flight, which fails from the chosen result on, or by the slot's next word. Where the slot has
neither, the error is reported alone. -/
def State.meet (s : State) (e : ErrSite) : State :=
  let n := e.unit
  let t := s.tile n
  let k := slotOf e.slot
  let site := { e with detail := if e.cls = 0 then errUnit e * 16 else 1 }
  let act := s.action e.cls e.source
  if t.task.isNone || t.killed then s.report e.cls e.source n e.slot e.addr site.detail
  else match (t.flying k)[errWord e]? with
    | some (iss, pc) =>
      let l := t.resultsOf k iss
      let at_ := l.getD (errResult e % max 1 l.length) t.cyc
      let v := if e.cls = 0 then t.failStep k iss at_ else w64 e.addr
      let u := t.failWord k iss at_
      s.setTile n { u with flaws := u.flaws ++ [⟨site, some (pc, v), act⟩] }
    | none =>
      if t.goesOn k then s.setTile n { t with flaws := t.flaws ++ [⟨site, none, act⟩] }
      else s.report e.cls e.source n e.slot e.addr site.detail

def State.detect (s : State) (e : ErrSite) : State :=
  if metBySlot e then s.meet e
  else
    let s := if (e.cls = 4 ∨ (e.cls = 2 ∧ 256 ≤ e.unit)) ∧ backed e.addr then s.taint e.addr 1 else s
    let s := if e.cls = 2 ∧ e.unit < 256 then s.engineFails e.unit e.detail else s
    s.report e.cls e.source e.unit e.slot e.addr e.detail

/-- Whether an error can be one that is detected here: a known class and source at a tile or a party. -/
def siteOk (e : ErrSite) : Bool :=
  detectable e.cls && decide (e.source < 16) && decide (e.unit < 262)

def execErrorDetected (e : ErrSite) (s : State) : Out3 := if siteOk e then .next (s.detect e) else .next s

end Sys2Proof.Machine
end

