-- ==== Sys2Proof/Machine/After.lean ====
section
/-! DEFINITION. How a program is placed from outside. -/

namespace Sys2Proof.Machine

/-- A word stored at a slot's PC in tile 0, to be issued by the very next step. -/
def State.placeWord (s : State) (k : Slot) (w : W64) : State :=
  let t := s.tile 0
  let x := t.slot k
  let t := t.setSlot k { x with running := true, due := some t.cyc, pre := Prefixes.none, stub := false }
  let t := { t with
    istore := writeLe t.istore x.pc.toNat 8 w.toNat
    oldNow := [], ahead := [], phase := 1 + Slot.num k, bundle := .free, fence := none, killed := false, hold := none, inh := false
    trapT := none, drn := none, flaws := [], wdog := none }
  { s.setTile 0 t with agenda := [.tile 0] }

end Sys2Proof.Machine
end

