-- ==== Sys2Proof/Machine/Recovery.lean ====
section
/-! DEFINITION. The viral state's spread, compute dies held, reset and dropped, snapshots, and the resets of the package
(19 R361, R362, R365 to R368, R374, R375; 20 R380). -/

namespace Sys2Proof.Machine

/-! ### The sideband and the freezing of rings (19 R361, 20 R380) -/

/-- VIRAL_SIDEBAND: the sideband that the first party raised reaches another. -/
def execViralSideband (party : Nat) (s : State) : Out3 :=
  let p := party % 6
  if s.parties.any (fun q => q.2.viral) && !(s.party p).viral then .next (s.viralMove p true) else .next s

/-- A freeze packet that has come down to a tile. -/
def isFreeze (p : Nat × Pkt) : Bool := match p.2.body with
  | .freeze _ _ _ _ => true
  | _ => false

/-- Whether what came over the freeze packet's path before it has all taken effect: puts, contributions, gets and answers, each with
the event that it leaves (20 R381, R383). -/
def Tile.putsDone (t : Tile) : Bool :=
  ((t.inbox.takeWhile fun p => !isFreeze p).all fun p => p.1 != portEnd || match p.2.body with
    | .net x => decide (7 < x.kind) && x.kind != 10
    | _ => true) && t.async.all fun w => w.lane == 0 || (w.lane - 1) % 81 != portEnd

/-- FREEZE_PACKET_ARRIVE: the tile's ring freezes at the end of the cycle in which the packet arrives, after its events and after
the commit of every put that came before it. -/
def State.freezeTile (s : State) (n : Nat) (bysb : Bool) (gen : BitVec 2) (row : List (BitVec 10)) : State :=
  let t := s.tile n
  (s.freezeTileRing n (t.cyc - 1) (freezeRecord 0x30 (t.cyc - 1) false bysb gen row)).modTile n fun t =>
    { t with inbox := t.inbox.filter fun p => !isFreeze p }

def execFreezePacketArrive (tile : Nat) (s : State) : Out3 :=
  let n := tile % 256
  if !(s.tile n).putsDone then .next s
  else match (s.tile n).phase, (s.tile n).inbox.find? isFreeze with
  | 0, some (_, p) =>
    match p.body with
    | .freeze _ bysb gen row => .next (s.freezeTile n bysb gen row)
    | _ => .next s
  | _, _ => .next s

/-- The party of a ring. -/
def ringParty (r : Nat) : Nat := if r < 256 then partyOf (dieOf r) else (r - 256) % 6

/-- A ring frozen as it stands, with the events that have occurred and no FREEZE record. -/
def State.stopRing (s : State) (ring : Nat) : State :=
  let s := if ring < 256 then s.flushEvents ring ((s.tile ring).cyc - 1) else s
  { s with rings := tset s.rings ring { tget s.rings Ring.reset ring with frozen := true } }

/-- FREEZE_TIMEOUT. -/
def execFreezeTimeout (ring : Nat) (s : State) : Out3 :=
  if ring < 262 ∧ (s.party (ringParty ring)).viral ∧ !(tget s.rings Ring.reset ring).frozen then .next (s.stopRing ring)
  else .next s

/-! ### Holds (05 R118, 19 R365) -/

/-- A tile's hold ended, its slots resuming as ERET resumes them, with the release as e. While INH = 1 slot C's handler alone
goes on, and the others stand as the trap left them. -/
def Tile.unhold (t : Tile) : Tile :=
  match t.hold with
  | none => t
  | some c =>
    let e := t.cyc - 1
    let t := { t with hold := none }
    if t.inh then t.resumeSlot .c e c else allSlots.foldl (fun t k => t.resumeSlot k e c) t

def stageTiles (d : Nat) : List Nat := (List.range 64).map fun i => 64 * d + i

/-- DEBUG_HOLD: a debugger holds a compute die in service. The timers of contributions to its tiles are suspended. -/
def State.holdDie (s : State) (d : Nat) : State :=
  let s := (stageTiles d).foldl (fun s n => s.modTile n fun t => { t with hold := some (t.hold.getD t.cyc) })
    (s.modDie d fun x => { x with stat := 1 })
  s.suspendSent fun g => s.tgtPkg g == s.own && dieOf (tgtTile g) == d

def execDebugHold (die : Nat) (s : State) : Out3 :=
  let d := die % 4
  if ((s.die d).stat = 0 ∨ ((s.die d).stat = 4 ∧ d = 0)) ∧ !(s.party (partyOf d)).viral then .next (s.holdDie d) else .next s

/-- DEBUG_RELEASE: the debugger releases what it holds of a die: the die, or the tiles that HALT holds. -/
def State.releaseDie (s : State) (d : Nat) : State :=
  (stageTiles d).foldl (fun s n => if (s.tile n).hold.isSome then s.modTile n Tile.unhold else s)
    (s.modDie d fun x => { x with stat := if x.stat = 1 then s.served d else x.stat })

def execDebugRelease (die : Nat) (s : State) : Out3 := .next (s.releaseDie (die % 4))

/-! ### Warm reset and drop of a compute die (19 R367, R368, R375) -/

/-- A tile of a die that is reset while it is held: the hold ends without resuming, and a drain of its task begins. -/
def Tile.endHold (t : Tile) : Tile :=
  if t.hold.isNone then t
  else if t.task.isSome && t.boot.isNone && t.drn.isNone && !t.killed then t.beginDrain 11
  else { t with hold := none }

/-- The tasks that hold a tile of a die. -/
def State.runsOn (s : State) (d : Nat) : List Nat := (s.runs.filter fun x => x.tiles.any fun n => dieOf n == d).map (·.rcd)

/-- The entries of resets that ended, one for each ACCEPTED entry (21 R397). -/
def State.dieEntries (s : State) (state detail : Nat) (refs : List Nat) : State :=
  refs.foldl (fun s j => s.journalDev state noRec j detail) s

/-- Resets of a die whose ACCEPTED entries still wait. -/
def DieSt.resets (x : DieSt) : List Nat := match x.quies with
  | some (_, _, l) => l
  | none => []

/-- Step 1 of a reset or a drop: no task is bound to the die, and its tasks are asked to leave. A die that has gone through it is only
told apart; a drop ends the resets that it overtakes as failed. DESIGN CHOICE (log 64): their DETAIL is zero. -/
def State.quiesce (s : State) (d : Nat) (drop : Bool) (refs : List Nat) : State :=
  let gone := s.dieGone d
  let old := (s.die d).resets
  let s := if drop then s.dieEntries jFailed 0 old else s
  let s := s.modDie d fun x => { x with
    stat := if drop && gone then 3 else 2
    quies := if drop then (if gone then none else some (true, false, [])) else some (false, gone, old ++ refs)
    errs := 0 }
  if gone then s
  else
    let s := (s.runsOn d).foldl (fun s r => s.request r 11 false []) s
    { s with tiles := s.tiles.map fun e => if dieOf e.1 = d then (e.1, e.2.endHold) else e }

def dieErr (x : Packet) : Nat := if x.a < 4 then 0 else 5

/-- DIERESET. One that no function's queue orders, from number 64 on, is Plaquevan's own order, of the die that q names (19 R367). -/
def execDiereset (fn q : Nat) (s : State) : Out3 :=
  if 64 ≤ fn then .next (if (s.party 0).viral then s else s.quiesce (q % 4) false [])
  else .next (s.runCmd fn q 0x25 1 true (fun _ => noRec) dieErr fun x j s => s.quiesce x.a false [j])

def execDiedrop (fn q : Nat) (s : State) : Out3 :=
  .next (s.runCmd fn q 0x26 1 true (fun _ => noRec) dieErr fun x _ s => s.quiesce x.a true [])

/-- Steps 2 and 3 done: the L2 holds no line, and the die's walks are over. -/
def DieSt.emptied (x : DieSt) : DieSt := { x with l2 := [], tlb2 := [], walks := [], found := [] }

/-- The packets that wait at a tile whose die goes, answered by its base die (19 R367). -/
def State.answerInbox (s : State) (n : Nat) : State :=
  let l := (s.tile n).inbox
  let s := s.modTile n fun t => { t with inbox := l.filter isFreeze }
  l.foldl (fun s p => match p.2.body with
    | .net x => s.errorReply x
    | _ => s) s

/-- A tile of a die that goes: the reset is its acknowledgement of every invalidation (19 R367). -/
def Tile.resetAcks (t : Tile) : Tile := { (t.ackInvals (t.invals.map (·.id))) with qpts := [] }

/-- No task is left: the tiles of the die take nothing more, and the L2's dirty lines are written back. -/
def State.leaveDie (s : State) (d : Nat) : State :=
  let dirty := ((s.die d).l2.filter (·.dirty)).map (·.line)
  let s := { s with tiles := s.tiles.map fun e => if dieOf e.1 = d then (e.1, e.2.resetAcks) else e }
  let s := (stageTiles d).foldl State.answerInbox s
  (s.modDie d DieSt.emptied).writeLines d dirty

/-- DIE_QUIESCE_TIMEOUT: tasks not saved in time are killed; once none is left, the tiles are left, and a drop ends. Until then the
die's tiles still take their packets; from then on its base die answers for them. -/
def State.quiesced (s : State) (d : Nat) (drop : Bool) (refs : List Nat) : State :=
  let l := s.runsOn d
  if l.isEmpty then
    (s.leaveDie d).modDie d fun x => { x with
      stat := if drop then 3 else 2, quies := if drop then none else some (false, true, refs) }
  else l.foldl (fun s r => s.kill r ⟨2, 0, 0, 0, 0⟩) s

def execDieQuiesceTimeout (die : Nat) (s : State) : Out3 :=
  let d := die % 4
  match (s.die d).quies with
  | some (drop, false, l) => .next (s.quiesced d drop l)
  | _ => .next s

/-- A tile out of the reset of its die: it counts its cycles anew (01 R13), and nothing is left in its slots and pipelines. -/
def Tile.fromZero (t : Tile) : Tile :=
  let t := allSlots.foldl (fun t k => t.modSlot k fun x => { x with
    base := 0, due := none, pre := .none, running := false, stall := none, joined := false, mark := 0 }) t
  { t with
    cyc := 0, phase := 0, pend := [], board := [], reserved := [], eoc := [], tpush := [], vjobs := [], vFree := 0, eng := .reset
    iclrs := [], tally := [], evs := [], inh := false, trapT := none, heldC := none, hEnded := false, hold := none, shaped := false
    shaper := .reset }

/-- A tile's count begun anew, with its ring's of the events of a cycle; the events of the cycle last ended are written first. -/
def State.restartTile (s : State) (n : Nat) : State :=
  let s := (s.flushEvents n ((s.tile n).cyc - 1)).modTile n Tile.fromZero
  { s with rings := tset s.rings n { tget s.rings Ring.reset n with stamp := 0, count := 0 } }

/-- A tile of the die restarted, and cleared for the partition that owns it, or with no resident area. -/
def State.readmitTile (s : State) (n : Nat) : State :=
  let s := s.restartTile n
  match (s.tile n).owner with
  | some o =>
    if ((s.partE o.part).tilesOf).contains n then s.clearTile o.part n (s.partE o.part)
    else s.modTile n fun t => { (t.clear []) with owner := some o }
  | none => s.modTile n fun t => t.clear []

/-- Steps 4 and 5: a retrain that holds admits the die again, in the bring-up service D0 alone; one that fails drops it. -/
def State.retrained (s : State) (d : Nat) (refs : List Nat) (ok : Bool) : State :=
  if ok then
    let s := (stageTiles d).foldl State.readmitTile s
    (s.modDie d fun x => { x.emptied with stat := s.served d, quies := none }).dieEntries jDone 0 refs
  else
    let s := s.modDie d fun x => { x.emptied with stat := 3, quies := none }
    (s.report 31 15 (unitParty (partyOf d)) 0 0 0).dieEntries jFailed (31 * 2 ^ 8 + 15 * 2 ^ 16) refs

def execDieRetrainDone (die : Nat) (ok : Bool) (s : State) : Out3 :=
  let d := die % 4
  match (s.die d).quies with
  | some (false, true, l) => if (s.runsOn d).isEmpty then .next (s.retrained d l ok) else .next s
  | _ => .next s

/-- DIE_DROP_THRESHOLD: Plaquevan drops a die whose errors have reached 16. -/
def execDieDropThreshold (die : Nat) (s : State) : Out3 :=
  let d := die % 4
  let x := s.die d
  if 16 ≤ x.errs ∧ x.stat ≠ 2 ∧ x.stat ≠ 3 then .next (s.quiesce d true []) else .next s

/-! ### Snapshots (19 R374) -/

/-- The class that a snapshot command names: TC6 by default. -/
def Packet.snapTc (x : Packet) : Nat := if x.hi 1 = 0 then 6 else (x.hi 1).toNat

/-- Whether a buddy is another package of this one's group. -/
def State.buddyOk (s : State) (p : Nat) : Bool := s.pval && p != s.own && pkgGroup p == pkgGroup s.own && s.fab.names p

def State.snapErr (s : State) (x : Packet) : Nat :=
  if x.snapTc < 2 ∨ 7 < x.snapTc then 5 else if s.snap.isSome ∨ !s.buddyOk x.a then 5 else 0

/-- SNAPSHOT. -/
def execSnapshot (fn q : Nat) (s : State) : Out3 :=
  .next (s.runCmd fn q 0x27 2 true (fun _ => noRec) s.snapErr fun x j s =>
    { s with snap := some ⟨x.a, x.b, x.lo 1, x.snapTc, false, [], j⟩ })

def maskParts (m : W64) : List Nat := (List.range 64).filter fun p => bitAt m p

/-- The records of a partition that are not FREE. -/
def State.recsOf (s : State) (p : Nat) : List Nat :=
  (s.recs.filterMap fun c => if c.1 % 256 = 0 then some (c.1 / 256) else none).filter fun r =>
    s.recPart r == p && s.recState r != recFree

/-- Bytes of a memory that lie in extents. -/
def inExts (l : List (Nat × Nat)) (m : Mem) : Mem := m.filter fun c => l.any fun e => e.1 ≤ c.1 && c.1 < e.1 + e.2 * 65536

/-- The 256 bytes of a partition-table entry (18 R335). -/
def PartE.bytes (e : PartE) : List Byte :=
  leBytes 1 (if e.valid then 1 else 0) ++ leBytes 1 e.vf ++ leBytes 2 e.asid ++ leBytes 2 e.ptag ++ leBytes 1 e.tcmask.toNat ++
    leBytes 1 0 ++ (e.tiles.toList.flatMap fun m => leBytes 8 m.toNat) ++ leBytes 8 e.root ++ leBytes 8 e.resimg ++
    leBytes 8 e.fring.toNat ++ padTo 128 (e.ext.flatMap fun x => leBytes 8 (x.1 / 65536 % 2 ^ 36 + x.2 * 2 ^ 40)) ++ leBytes 64 0

/-- The bytes of a snapshot: every extent, then entries and records. DESIGN CHOICE (log 54): their order. -/
def Kept.stream (k : Kept) : List Byte :=
  (k.parts.flatMap fun e => e.2.ext.flatMap fun x => readRange k.mem x.1 (x.2 * 65536)) ++ (k.parts.flatMap fun e => e.2.bytes) ++
    (k.recs.map fun c => c.1 / 256).eraseDups.flatMap fun r => readRange k.recs (256 * r) 256

/-- SHA-512 of each chunk of 256 MiB. -/
def chunkHashes : Nat → List Byte → List (List Byte)
  | 0, _ => []
  | n + 1, l => sha512 (l.take (2 ^ 28)) :: chunkHashes n (l.drop (2 ^ 28))

def Kept.hashes (k : Kept) : List (List Byte) := chunkHashes (ceilDiv k.stream.length (2 ^ 28)) k.stream

/-- A snapshot with its manifest, and whether a manifest's signature and every hash of it hold. -/
def Kept.seal (k : Kept) : Kept := { k with hash := k.hashes, sig := Config.sign (k.hashes.flatMap id) }
def Kept.holds (k : Kept) : Bool := k.hash == k.hashes && k.sig == Config.sign (k.hash.flatMap id)

/-- What a snapshot of some partitions holds as it begins; nothing of a stack that is lost (12 R250). -/
def State.keep (s : State) (x : Snap) : Kept :=
  let ps := maskParts x.mask
  let rs := ps.flatMap s.recsOf
  { buddy := x.buddy, base := x.base, mask := x.mask
    parts := s.parts.filter fun e => ps.contains e.1
    recs := s.recs.filter fun c => rs.contains (c.1 / 256)
    rinfo := s.rinfo.filter fun e => rs.contains e.1
    saved := s.saved.filter fun e => rs.contains (e.1 / 256)
    mem := (inExts ((s.parts.filter fun e => ps.contains e.1).flatMap fun e => e.2.ext) s.dmem).filter fun c => !s.lostAt c.1
    hash := [], sig := [] }

/-- How many packets of 4,096 bytes a snapshot takes. -/
def State.snapCount (s : State) (k : Kept) : Nat :=
  (k.parts.foldl (fun n e => e.2.ext.foldl (fun n x => n + 16 * x.2) n) 0) +
    ceilDiv (256 * k.parts.length + 256 * (maskParts k.mask |>.foldl (fun n p => n + (s.recsOf p).length) 0)) 4096

/-- Packet i of a snapshot handed to RD: its 4,096 bytes of the extents, entries and records. Where it says they go is in no layout,
and what fills up the last packet is free (log 54). -/
def State.snapSend (s : State) (x : Snap) (i : Nat) : State :=
  let l := (((s.taken.map Kept.stream).getD []).drop (4096 * i)).take 4096
  let (fill, s) := s.freeBytes (ceilDiv (4096 - l.length) 8)
  let l := (l ++ fill).take 4096
  { s with fab := { s.fab with rdq := s.fab.rdq ++ [{ Net.reset with kind := 9, tc := x.tc, dpkg := x.buddy, spkg := s.own, data := l }] } }

/-- Whether a snapshot may begin: nothing of its partitions runs, and none of their queues holds an unread command. -/
def State.snapReady (s : State) (x : Snap) : Bool :=
  let ps := maskParts x.mask
  (s.runs.all fun r => !ps.contains r.part) &&
    ps.all fun p => !(s.partE p).valid || (List.range 16).all fun q =>
      let u := s.queue (qKey (s.partE p).vf q)
      u.head == u.tail

/-- SNAPSHOT_BEGIN. -/
def State.snapStart (s : State) (x : Snap) : State :=
  let k := s.keep x
  let n := s.snapCount k
  let s := { s with snap := some { x with begun := true, wait := (List.range n).map fun i => (i, 0) }, taken := some k }
  (List.range n).foldl (fun s i => s.snapSend x i) s

/-- Whether the package takes a snapshot: not in the viral state, and not while RD is cut off from the fabric (19 R374, 12 R250). -/
def State.maySnap (s : State) : Bool := s.viral.isNone && !s.cutOff

def execSnapshotBegin (s : State) : Out3 :=
  match s.snap with
  | some x => if !x.begun && s.snapReady x && s.maySnap then .next (s.snapStart x) else .next s
  | none => .next s

/-- Bytes cut into packets of 4,096. -/
def packetsOf : Nat → List Byte → List (List Byte)
  | 0, _ => []
  | n + 1, l => l.take 4096 :: packetsOf n (l.drop 4096)

/-- A manifest handed to RD for the buddy, as FMGR packets: the hashes and the signature. -/
def State.sendManifest (s : State) (x : Snap) (k : Kept) : State :=
  let l := k.hash.flatMap id ++ padTo 512 k.sig
  { s with fab := { s.fab with rdq := s.fab.rdq ++ (packetsOf (ceilDiv l.length 4096) l).map fun d =>
      { Net.reset with kind := 9, tc := x.tc, dpkg := x.buddy, spkg := s.own, data := d } } }

/-- The end of a snapshot: with its manifest, signed by Plaquevan, or failed. -/
def State.snapDone (s : State) (x : Snap) : State :=
  let old := s.kept.filter fun k => !(k.buddy == x.buddy && k.base == x.base)
  let new := s.taken.toList.map Kept.seal
  (new.foldl (fun s k => s.sendManifest x k) ({ s with snap := none, taken := none, kept := old ++ new } : State)).journalDev jDone
    noRec x.jref 0

def State.snapFail (s : State) (x : Snap) : State :=
  (({ s with snap := none, taken := none } : State).report 16 11 (unitParty 5) 0 0 0).journalDev jFailed noRec x.jref
    (16 * 2 ^ 8 + 11 * 2 ^ 16)

/-- SNAPSHOT_RESEND: a packet whose acknowledgement is late. -/
def execSnapshotResend (index : Nat) (s : State) : Out3 :=
  match s.snap with
  | none => .next s
  | some x =>
    match x.wait[index]? with
    | none => .next s
    | some (i, n) =>
      if n < 3 then .next (({ s with snap := some { x with wait := x.wait.set index (i, n + 1) } } : State).snapSend x i)
      else .next (s.snapFail x)

/-- SNAPSHOT_ACK_RECEIVE: by whichever port the buddy's answer has come (14 R310). Which packet an acknowledgement is of is in no
layout: free. -/
def State.snapAck (s : State) (x : Snap) : State :=
  let (k, s) := s.freeNat
  let w := x.wait.eraseIdx (k % x.wait.length)
  if w.isEmpty then s.snapDone x else { s with snap := some { x with wait := w } }

def execSnapshotAckReceive (port : Nat) (s : State) : Out3 :=
  match s.snap with
  | some x => if x.begun && (s.peerOf port).isSome && (s.port port).up && s.maySnap then .next (s.snapAck x) else .next s
  | none => .next s

/-- SNAPSHOT_PACKET_RECEIVE: 4,096 bytes of another package's snapshot, written where they name a place of the reserve region,
which lies outside every partition, and acknowledged. Bytes and place are free. -/
def State.snapTake (s : State) (q : Nat) : State :=
  let (a, s) := s.freeNat
  let (l, s) := (List.range 512).foldl (fun (r : List Byte × State) _ =>
    let (w, s) := r.2.freeWord
    (r.1 ++ leBytes 8 w.toNat, s)) ([], s)
  let b := (a / 4096 * 4096, 4096)
  let held := s.parts.any fun p => p.2.valid && p.2.ext.any fun e => rangesMeet b (extBytes e)
  let s := if backed b.1 && backed (b.1 + 4095) && !held && !s.lostAt b.1 && !rangesMeet b keptRange then s.homeWrite b.1 l else s
  { s with fab := { s.fab with rdq := s.fab.rdq ++ [{ Net.reset with kind := 9, dpkg := q, spkg := s.own }] } }

/-- SNAPSHOT_PACKET_RECEIVE: from a package of the group, directly or through another, so that the port does not tell which: free. -/
def execSnapshotPacketReceive (port : Nat) (s : State) : Out3 :=
  if (s.peerOf port).isSome && (s.port port).up && !s.cutOff then
    let (k, s) := s.freeNat
    .next (s.snapTake (512 * pkgGroup s.own + k % 384))
  else .next s

/-! ### Restoring a snapshot (19 R374) -/

/-- Whether the partitions of a mask are empty. -/
def State.partsEmpty (s : State) (m : W64) : Bool :=
  (maskParts m).all fun p => !(s.partE p).valid && (s.recsOf p).isEmpty && !(s.psets.any fun x => x.1 == p) &&
    !(s.rest.any fun r => bitAt r.mask p) && !s.runs.any fun x => x.part == p

def State.restErr (s : State) (x : Packet) : Nat :=
  if x.snapTc < 2 ∨ 7 < x.snapTc then 5 else if s.snap.isSome ∨ s.rest.isSome ∨ !s.buddyOk x.a ∨ !s.partsEmpty x.b then 5 else 0

/-- The records of a snapshot that take their place in the pool. -/
def State.repool (s : State) (rs : List Nat) : State :=
  rs.foldl (fun s r => if s.recState r = recReady then { s with pool := s.pool ++ [⟨r, s.recPrio r, 0⟩] } else s) s

/-- The records of a snapshot that belong to partitions of a mask. -/
def Kept.recsIn (k : Kept) (m : W64) : List Nat :=
  ((k.recs.map fun c => c.1 / 256).eraseDups).filter fun r => r < 65536 && bitAt m ((readLe k.recs (256 * r + 3) 1) % 64)

/-- Whether a snapshot's entries fit beside those that are held and beside one another, and keep the limits of 18 R335, and whether
the places of its records are free. -/
def State.keptFits (s : State) (k : Kept) (m : W64) : Bool :=
  let ents := k.parts.filter fun e => bitAt m e.1 && e.2.valid
  (m &&& ~~~k.mask) == 0 &&
    (ents.all fun e => (s.holders.all fun p => !e.2.clash p.2) && (ents.all fun f => e.1 == f.1 || !e.2.clash f.2) &&
      e.2.ext.all s.extOk && e.2.placed) &&
    (k.recsIn m).all fun r => s.recState r == recFree

def State.putRecs (s : State) (k : Kept) (rs : List Nat) : State :=
  let ri := k.rinfo.filter fun e => rs.contains e.1
  let sv := k.saved.filter fun e => rs.contains (e.1 / 256)
  { s with
    recs := rs.foldl (fun t r => writeRange t (256 * r) (readBytes k.recs (256 * r) 256)) s.recs
    rinfo := ri.foldl (fun t e => tset t e.1 e.2) s.rinfo
    saved := sv.foldl (fun t e => tset t e.1 e.2) s.saved }

def State.putMem (s : State) (l : Mem) : State :=
  { s with dmem := l.foldl (fun d c => if s.lostAt c.1 then d else writeByte d c.1 c.2) s.dmem }

/-- A snapshot copied back: entries, extents with their poison cleared, records. Its tiles are cleared as granted tiles. -/
def State.putBack (s : State) (r : Rest) : State :=
  let held := r.ents.filter fun e => e.2.valid
  let s := (held.flatMap fun e => grantRanges e.2 PartE.reset).foldl State.zeroRange s
  let s := s.putMem (inExts (held.flatMap fun e => e.2.ext) r.kept.mem)
  let rs := r.kept.recsIn r.mask
  let s := (r.ents.foldl (fun s e => s.setPart e.1 e.2) s).putRecs r.kept rs
  (held.foldl (fun s e => e.2.tilesOf.foldl (fun s n => s.clearTile e.1 n e.2) s) s).repool rs

/-- Whether a restore may take effect: every grant of its entries may be cleared, as a PARTSET's (18 R336, R350), and the places of
its records are free. -/
def State.mayRestore (s : State) (r : Rest) : Bool :=
  (r.ents.all fun e => s.mayGrant e.1 e.2) && (r.kept.recsIn r.mask).all fun i => s.recState i == recFree

/-- A restore done. -/
def State.restored (s : State) (r : Rest) : State := (({ s with rest := none } : State).putBack r).journalDev jDone noRec r.jref 0

/-- PARTSET_DONE: a held entry takes effect once what it grants may pass. A restore that is held for the same reason takes effect
whole, for any of its partitions (18 R336). -/
def execPartsetDone (part : Nat) (s : State) : Out3 :=
  match s.psets.find? fun x => x.1 == part with
  | some (p, e, j) => if s.mayGrant p e then .next (s.granted p j e) else .next s
  | none =>
    match s.rest.filter fun r => bitAt r.mask part with
    | some r => if s.mayRestore r then .next (s.restored r) else .next s
    | none => .next s

/-- The snapshot that a buddy holds at a base: one that this package sent, as it sent it or altered there since, or another's; the
last two are free. -/
def State.farCopy (s : State) (buddy : Nat) (base : W64) : Kept × State :=
  let (altered, s) := s.freeBool
  match if altered then none else s.kept.find? fun k => k.buddy == buddy && k.base == base with
  | some k => (k, s)
  | none => (Config.farSnapshot s.free, { s with free := s.free + 1 })

/-- SNAPREST. A copy whose signature or a chunk's hash does not hold restores nothing, nor does one that a package cut off from the
fabric cannot fetch (12 R250). One whose grants are still to be cleared is held until then (18 R336). -/
def State.snapRestore (s : State) (x : Packet) (j : Nat) : State :=
  let (k, s) := s.farCopy x.a (x.lo 1)
  let r : Rest := ⟨k, x.b, j⟩
  if s.cutOff || !k.holds || !s.keptFits k x.b then s.journalDev jFailed noRec j 0
  else if s.mayRestore r then s.restored r
  else { s with rest := some r }

def execSnaprest (fn q : Nat) (s : State) : Out3 :=
  .next (s.runCmd fn q 0x28 2 true (fun _ => noRec) s.restErr fun x j s => s.snapRestore x j)

/-! ### Resets of the package (19 R362, R370, R372; 20 R384, R385) -/

/-- COLD_RESET: the state after reset, but for the non-volatile store, what lies outside the package, and what was used of the
free values. -/
def State.cold (s : State) : State :=
  { State.reset with
    free := s.free, hmem := s.hmem, kept := s.kept
    nv := { s.nv with resets := s.nv.resets + 1, jhead := 0 } }

def execColdReset (s : State) : Out3 := .next s.cold

/-- The warm reset of the package: the Cartouches, the summary and the journal are kept. Bytes of device memory are undefined
to every partition; they stand as they stood, and no partition has an entry that names them. DEDUCED (log 28): CLKMASK is
cleared, as 19 R362 says of this reset, though 12 R250 has a MASK bit cleared by a cold reset only. -/
def State.warm (s : State) : State :=
  { State.reset with
    free := s.free, hmem := s.hmem, kept := s.kept, dmem := s.dmem, poison := s.poison, caps := s.caps, sees := s.sees
    jseq := s.jseq, jown := s.jown
    nv := { s.nv with resets := s.nv.resets + 1, jhead := s.jseq } }

/-- PKGRESET. One that is ordered before the seal of a Cartouche is held until then (20 R388). One that no function's queue orders, from
number 64 on, is Plaquevan's own order (19 R362). -/
def execPkgreset (fn q : Nat) (s : State) : Out3 :=
  if s.viral.any fun v => !v.done then .next s
  else if 64 ≤ fn then .next s.warm
  else match (s.packet fn q).filter fun x => x.cmd == 0x29 with
    | none => .next s
    | some x => .next (s.settleCmd x noRec (x.formErr 1 1 true) fun _ s => s.warm)

end Sys2Proof.Machine
end

