-- ==== Sys2Proof/Machine/Cartouche.lean ====
section
/-! DEFINITION. The Cartouche: its assembly and seal, the summary, its views, and the commands that read it and the journal
(19 R372; 20 R384 to R394). -/

namespace Sys2Proof.Machine

def capBase (k : Nat) : Nat := 0xBF0000000 + k * 0x2000000

/-! ### Header, sections, trailer (20 R385 to R387) -/

structure CapHdr where
  capid  : Nat
  pkg    : Nat
  status : Nat
  cause  : Nat
  origin : Nat
  viewid : Nat
  cyc    : Nat
  jhead  : Nat
  resets : Nat
  raw    : List Byte
  deriving DecidableEq, Repr

/-- A section: the fields of its directory entry but for its place, and its bytes. -/
structure Sect where
  kind  : Nat
  stat  : Nat
  owner : Nat
  count : Nat
  lost  : Nat
  total : Nat
  body  : List Byte
  deriving DecidableEq, Repr

def pad64 (n : Nat) : Nat := (n + 63) / 64 * 64
def padUp (l : List Byte) : List Byte := l ++ List.replicate (pad64 l.length - l.length) 0

def CapHdr.bytes (h : CapHdr) (length nsec : Nat) : List Byte :=
  leBytes 4 0x43415254 ++ leBytes 2 1 ++ leBytes 2 256 ++ leBytes 8 h.capid ++ leBytes 8 length ++ leBytes 4 h.pkg ++
    leBytes 2 h.status ++ leBytes 2 nsec ++ leBytes 4 h.cause ++ leBytes 2 h.origin ++ leBytes 2 h.viewid ++ leBytes 8 h.cyc ++
    leBytes 8 h.jhead ++ leBytes 8 h.resets ++ padTo 64 Config.keyHash ++ padTo 64 h.raw ++ List.replicate 64 0

def Sect.entry (x : Sect) (off : Nat) : List Byte :=
  leBytes 1 x.kind ++ leBytes 1 x.stat ++ leBytes 2 x.owner ++ leBytes 4 x.count ++ leBytes 8 off ++ leBytes 4 x.body.length ++
    leBytes 4 (min x.lost (2 ^ 32 - 1)) ++ leBytes 8 x.total

/-- The directory entries of sections that follow one another from an offset on. -/
def directory : List Sect → Nat → List Byte
  | [], _ => []
  | x :: r, off => x.entry off ++ directory r (off + pad64 x.body.length)

/-- Bytes with their trailer. -/
def sealed (l : List Byte) : List Byte := l ++ sha512 l ++ padTo 512 (Config.sign l)

def capBytes (h : CapHdr) (l : List Sect) : List Byte :=
  let start := pad64 (256 + 32 * l.length)
  let size := start + (l.foldl (fun n x => n + pad64 x.body.length) 0) + 576
  sealed (padUp (h.bytes size l.length ++ directory l start) ++ l.flatMap fun x => padUp x.body)

/-! ### The sections of a package (20 R386) -/

def recType (e : BitVec 128) : Nat := e.toNat / 2 ^ 122

def recBytes (l : List (BitVec 128)) : List Byte := l.flatMap fun e => leBytes 16 e.toNat

/-- How a ring came to stand: not written since reset, as a die not yet admitted leaves it; by the sideband; by a packet; or
without a FREEZE record, be it empty. -/
def State.ringStat (s : State) (i : Nat) (r : Ring) : Nat :=
  if i < 256 ∧ !s.full ∧ dieOf i ≠ 0 then 4
  else if r.total = 0 then (if r.frozen then 2 else 4)
  else match r.ents.reverse.find? fun e => recType e == 0x30 with
    | some e => if (r.ents.getLastD 0 |> recType) / 2 ≠ 0x18 then 2 else if e.toNat / 2 ^ 62 % 2 = 1 then 1 else 0
    | none => 2

/-- A section that was not copied, or cannot be read. -/
def unread (kind owner : Nat) : Sect := ⟨kind, 3, owner, 0, 0, 0, []⟩

/-- CORRUPT, which stands for an entry that fails its ECC (20 R376, R386). -/
def corruptRec : BitVec 128 := mkEvent 0x3E 0 0 0 0 0 0

/-- A ring's entries as they are copied, those of a mask having failed their ECC. -/
def State.copied (s : State) (i mask : Nat) : List (BitVec 128) :=
  (tget s.rings Ring.reset i).ents.zipIdx.map fun e => if mask / 2 ^ e.2 % 2 = 1 then corruptRec else e.1

/-- The section of a ring. -/
def State.ringSect (s : State) (i mask : Nat) : Sect :=
  let r := tget s.rings Ring.reset i
  let kind := if i < 256 then 1 else 2
  let owner := if i < 256 then i else 0x8000 + (i - 256)
  ⟨kind, s.ringStat i r, owner, r.ents.length, r.lost, r.total, recBytes (s.copied i mask)⟩

/-- The bytes of one journal entry. -/
def State.jentry (s : State) (j : Nat) : List Byte := readBytes s.dmem (journalBase + j % 65536 * 64) 64

def State.journalSect (s : State) (jhead : Nat) : Sect :=
  let n := min 4096 jhead
  ⟨3, 0, 0, n, 0, 0, (List.range n).flatMap fun i => s.jentry (jhead - n + 1 + i)⟩

/-- The matrix as bytes, and the counts of the errors detected. -/
def State.sevBytes (s : State) : List Byte :=
  ((List.range 256).map fun i => BitVec.ofNat 8 (s.action (i / 8) (2 * (i % 8)) + 16 * s.action (i / 8) (2 * (i % 8) + 1))) ++
    (List.range 512).flatMap fun k => leBytes 4 (tget s.sevcnt 0 k)

def sevSect (l : List Byte) : Sect := ⟨4, 0, 0, 512, 0, 0, l⟩

/-! ### Assembly (20 R388) -/

/-- The CAPID of a slot; 0 where it holds none. -/
def State.capOf (s : State) (k : Nat) : Nat := tget s.caps 0 k

/-- The slot whose CAPID is oldest, an empty one before any. -/
def State.oldest (s : State) : Nat :=
  (List.range 8).foldl (fun b k => if s.capOf k < s.capOf b then k else b) 0

/-- Whether Plaquevan assembles: its own party has frozen, and nothing is sealed yet. -/
def State.assembling (s : State) : Bool := (s.party 0).viral && s.viral.any fun v => !v.done

/-- What is known of a section: copied, found unreadable, or not copied. Marks above 1,000 tell of unreadable ones. -/
def State.sectOf (s : State) (a : Asm) (v : Viral) (i : Nat) : Sect :=
  let have_ := a.done.contains i
  if i < 262 then (if have_ then s.ringSect i (tget a.bad 0 i) else unread (if i < 256 then 1 else 2) (if i < 256 then i else 0x8000 + (i - 256)))
  else if i = 262 then (if have_ then s.journalSect v.jhead else unread 3 0)
  else if have_ then sevSect a.sev else unread 4 0

def State.capHdr (s : State) (v : Viral) (l : List Sect) (trunc : Bool) : CapHdr where
  capid := s.nv.capid + 1
  pkg := s.own % 2 ^ 26 + if s.pval then 2 ^ 31 else 0
  status := 1 + (if l.any fun x => x.stat == 2 || x.stat == 3 then 2 else 0) + if trunc then 4 else 0
  cause := v.cls + v.src * 2 ^ 8 + v.act * 2 ^ 16 + v.party * 2 ^ 24
  origin := v.origin
  viewid := 0
  cyc := v.cyc
  jhead := v.jhead
  resets := s.nv.resets
  raw := []

/-! ### The summary (20 R389) -/

/-- Room for one FREEZE and for one FREEZES record of each ring, zero where a ring has none. -/
def State.freezeRecs (s : State) (a : Asm) : List Byte :=
  (List.range 262).flatMap fun i =>
    let l := s.copied i (tget a.bad 0 i)
    let one (ty : Nat) : List Byte := leBytes 16 (((l.find? fun e => recType e == ty).getD 0).toNat)
    one 0x30 ++ if i < 256 then [] else one 0x31

/-- Directory entries of the die rings and of the origin ring, as the Cartouche holds them. -/
def someEntries (l : List Sect) (origin : Nat) : List Byte :=
  let d := directory l (pad64 (256 + 32 * l.length))
  let o := if origin < 0x8000 then origin % 256 else 256 + origin % 8
  (d.drop (32 * 256)).take (32 * 6) ++ (d.drop (32 * o)).take 32

def lastRecs (l : List (BitVec 128)) : List Byte := padTo 4096 (recBytes (l.drop (l.length - 256)))

/-- The summary's parts in order, but for the trailer. -/
def summaryOf (hdr ents freezes last sev : List Byte) : List Byte := sealed (padUp (hdr ++ ents ++ freezes ++ last ++ padTo 2304 sev))

def ringOf (origin : Nat) : Nat := if origin < 0x8000 then origin % 256 else 256 + origin % 8

def State.summary (s : State) (a : Asm) (h : CapHdr) (l : List Sect) (size : Nat) : List Byte :=
  let o := ringOf h.origin
  summaryOf (h.bytes size l.length) (someEntries l h.origin) (s.freezeRecs a) (lastRecs (s.copied o (tget a.bad 0 o))) a.sev

/-- The partition that an entry of the journal shows, plus one: that of its queue's function, or of the record that it named; 0 for
none. -/
def State.entryOwner (s : State) (j : Nat) : Nat :=
  let q := fromLe (((s.jentry j).drop 8).take 2)
  if q = 0xFFFF then tget s.jown 0 (j % 65536)
  else match s.partOfFn (q / 256 % 64) with
    | some p => p + 1
    | none => 0

/-- What the views of a Cartouche sealed now need (20 R391, R394). DESIGN CHOICE (log 64): a partition exists for them as it did at
the seal. -/
def State.capMeta (s : State) (jhead : Nat) : CapMeta :=
  let n := min 4096 jhead
  ⟨BitVec.ofNat 64 ((s.parts.filter fun p => p.2.valid && decide (p.1 < 64)).foldl (fun m p => m + 2 ^ p.1) 0),
    (List.range n).map fun i => s.entryOwner (jhead - n + 1 + i)⟩

/-- The Cartouche sealed, with its summary. Where H0's base die is gone, only the summary is written. -/
def State.seal (s : State) (a : Asm) (v : Viral) (trunc : Bool) : State :=
  let l := (List.range 264).map (s.sectOf a v)
  let h := s.capHdr v l trunc
  let bytes := capBytes h l
  let summ := s.summary a h l bytes.length
  let m := s.capMeta v.jhead
  let s := if bitAt s.clkmask 1 then s
    else { s with dmem := writeRange s.dmem (capBase a.slot) bytes, caps := tset s.caps a.slot h.capid, sees := tset s.sees a.slot m
                  views := s.views.filter fun x => x.1 / 65536 != a.slot }
  { s with asm := none, viral := some { v with done := true }, nv := { s.nv with capid := h.capid, summ := summ, sees := m }
           views := s.views.filter fun x => x.1 / 65536 != 8 }

/-- A section copied into the assembly. A ring of a die in reset or dropped may be unreadable, and which entries fail their ECC is
free (20 R376, R394). -/
def State.copySect (s : State) (a : Asm) (i : Nat) : Asm × State :=
  let gone := decide (i < 256) && decide ((s.die (dieOf i)).stat = 2 ∨ (s.die (dieOf i)).stat = 3)
  let (readable, s) := s.freeBool
  let (k, s) := s.freeNat
  let a := if i < 262 then { a with bad := tset a.bad i k } else a
  let a := if gone && !readable then { a with done := a.done ++ [i + 1000] } else { a with done := a.done ++ [i] }
  (if i = 263 then { a with sev := s.sevBytes } else a, s)

def Asm.has (a : Asm) (i : Nat) : Bool := a.done.contains i || a.done.contains (i + 1000)

def State.assemble (s : State) (v : Viral) (i : Nat) : State :=
  let a := s.asm.getD ⟨s.oldest, [], [], []⟩
  if a.has i then s
  else
    let (a, s) := s.copySect a i
    if (List.range 264).all a.has then s.seal a v false else { s with asm := some a }

/-- CARTOUCHE_ASSEMBLE: one section copied, a ring's once it has frozen; the last one seals the Cartouche. part numbers the
sections in directory order. -/
def execCartoucheAssemble (part : Nat) (s : State) : Out3 :=
  match s.viral with
  | some v =>
    if s.assembling && decide (part < 264) && (decide (262 ≤ part) || (tget s.rings Ring.reset part).frozen) then
      .next (s.assemble v part)
    else .next s
  | none => .next s

/-- SEAL_DEADLINE: the Cartouche is signed as it stands. -/
def execSealDeadline (s : State) : Out3 :=
  match s.viral with
  | some v => if s.assembling then .next (s.seal (s.asm.getD ⟨s.oldest, [], [], []⟩) v true) else .next s
  | none => .next s

/-! ### Views (20 R390 to R393) -/

/-- Bits of a record as R377 lays them out. -/
def recPval (n : Nat) : Bool := n / 2 ^ 111 % 2 == 1
def recPartOf (n : Nat) : Nat := n / 2 ^ 114 % 64

/-- Whether a record is of kinds 0 to 2, which a view changes. -/
def recHidden (n : Nat) : Bool := decide (n / 2 ^ 126 ≤ 2)

/-- A record in the tenant view of a partition: its own stand where it existed. -/
def tenantRec (m : CapMeta) (p n : Nat) : Nat :=
  if !recHidden n || (recPval n && recPartOf n == p && bitAt m.live p) then n
  else n / 2 ^ 126 * 2 ^ 126 + 15 * 2 ^ 122 + n / 2 ^ 120 % 4 * 2 ^ 120 + 8 * 2 ^ 110 + n / 2 ^ 78 % 2 ^ 32 * 2 ^ 78

/-- Whether INFO[7:0] of an event type holds bits of an address (20 R379). -/
def infoAddr (ty : Nat) : Bool := ty == 0x10 || ty == 0x12 || ty == 0x18

/-- A record in the operator view: its address hashed under K. -/
def operatorRec (key : List Byte) (n : Nat) : Nat :=
  if !recHidden n then n
  else
    let addr := n / 2 ^ 30 % 2 ^ 48
    let hash := fromLe ((hmac512 key (leBytes 1 (recPartOf n) ++ leBytes 6 addr)).take 6)
    let info := n % 2 ^ 30
    let info := if infoAddr (n / 2 ^ 122) then info / 256 * 256 else info
    let flag := n / 2 ^ 110 % 16 / 8 * 8 + 4 + n / 2 ^ 110 % 4
    n / 2 ^ 114 * 2 ^ 114 + flag * 2 ^ 110 + n / 2 ^ 78 % 2 ^ 32 * 2 ^ 78 + hash * 2 ^ 30 + info

/-- Records changed one by one. -/
def mapRecs (f : Nat → Nat) (l : List Byte) : List Byte :=
  (List.range (l.length / 16)).flatMap fun i => leBytes 16 (f (fromLe ((l.drop (16 * i)).take 16)))

/-- A section in the tenant view of a partition. -/
def tenantSect (m : CapMeta) (p : Nat) (x : Sect) : Sect :=
  if x.kind = 3 then
    let l := (List.range (x.body.length / 64)).filter fun i => m.owners[i]? == some (p + 1)
    { x with count := l.length, body := l.flatMap fun i => (x.body.drop (64 * i)).take 64 }
  else if x.kind = 4 then { x with body := x.body.take 256 ++ List.replicate (x.body.length - 256) 0 }
  else { x with body := mapRecs (tenantRec m p) x.body }

def operatorSect (key : List Byte) (x : Sect) : Sect :=
  if x.kind ≤ 2 then { x with body := mapRecs (operatorRec key) x.body } else x

/-- What a slot holds: the stored bytes of a Cartouche, or of the summary as slot 8. -/
def State.stored (s : State) (k : Nat) : List Byte :=
  if k = 8 then s.nv.summ
  else if s.capOf k = 0 then []
  else readBytes s.dmem (capBase k) (fromLe (readBytes s.dmem (capBase k + 16) 8))

def capAt (l : List Byte) (o n : Nat) : Nat := fromLe ((l.drop o).take n)

/-- A stored header read back, as a view names itself in it. -/
def hdrFrom (l : List Byte) (view p : Nat) (raw : List Byte) : CapHdr :=
  ⟨capAt l 8 8, capAt l 24 4, capAt l 28 2, capAt l 32 4, capAt l 36 2, view + 256 * p, capAt l 40 8, capAt l 48 8, capAt l 56 8, raw⟩

/-- The sections of a stored Cartouche. -/
def sectsFrom (l : List Byte) : List Sect :=
  (List.range (capAt l 30 2)).map fun i =>
    let o := 256 + 32 * i
    ⟨capAt l o 1, capAt l (o + 1) 1, capAt l (o + 2) 2, capAt l (o + 4) 4, capAt l (o + 20) 4, capAt l (o + 24) 8,
      (l.drop (capAt l (o + 8) 8)).take (capAt l (o + 16) 4)⟩

/-- A stored image's own HASH. -/
def rawHash (l : List Byte) : List Byte := (l.drop (l.length - 576)).take 64

/-- A view of a slot: 0 tenant, 1 operator. The summary's view changes its records and its severity section alike. -/
def State.view (s : State) (k view p : Nat) : List Byte :=
  let l := s.stored k
  let h := hdrFrom l view p (rawHash l)
  let key := Config.viewKey s.nv.resets
  let m := if k = 8 then s.nv.sees else tget s.sees CapMeta.reset k
  let change (x : Sect) : Sect := if view = 0 then tenantSect m p x else operatorSect key x
  if k = 8 then
    let last := (change ⟨1, 0, 0, 0, 0, 0, (l.drop 4768).take 4096⟩).body
    let sev := (change (sevSect ((l.drop 8864).take 2304))).body
    summaryOf (h.bytes (capAt l 16 8) (capAt l 30 2)) ((l.drop 256).take 224) ((l.drop 480).take 4288) last sev
  else capBytes h ((sectsFrom l).map change)

/-- The number of a view in `State.views`. -/
def viewNo (k view p : Nat) : Nat := k * 65536 + view * 256 + p

/-- What every read of a view returns in this boot: the bytes of its first read, or, before that, the view of what the slot holds
(20 R391). -/
def State.viewBytes (s : State) (k view p : Nat) : List Byte := (tfind s.views (viewNo k view p)).getD (s.view k view p)

/-- A view signed at its first read and kept for the reads after it. -/
def State.openView (s : State) (k view p : Nat) : State :=
  { s with views := tset s.views (viewNo k view p) (s.viewBytes k view p) }

/-! ### CAPS.LIST and CAPS.READ (20 R390; 21 R397) -/

/-- The partitions with an attributed event among the records of an image. -/
def pmask (l : List Byte) : Nat :=
  let recs := (List.range (l.length / 16)).map fun i => fromLe ((l.drop (16 * i)).take 16)
  (List.range 64).foldl (fun m p => if recs.any fun n => recPval n && recPartOf n == p then m + 2 ^ p else m) 0

def State.slotMask_ (s : State) (k : Nat) : Nat :=
  let l := s.stored k
  if k = 8 then pmask ((l.drop 4768).take 4096) else pmask (((sectsFrom l).filter fun x => x.kind ≤ 2).flatMap fun x => x.body)

/-- STATE of a slot. -/
def State.slotState (s : State) (k : Nat) : Nat :=
  let l := s.stored k
  if s.assembling && (s.asm.getD ⟨s.oldest, [], [], []⟩).slot == k then 3 else if l.isEmpty then 0 else if capAt l 28 2 / 4 % 2 = 1 then 2 else 1

/-- Whether a function is given a slot. -/
def State.givenSlot (s : State) (fn k : Nat) : Bool :=
  fn == 0 || match s.partOfFn fn with
    | some p => s.slotMask_ k / 2 ^ p % 2 == 1
    | none => false

/-- A CAPS.LIST entry; a slot that the function is not given shows as empty. -/
def State.capsEntry (s : State) (fn k : Nat) : List Byte :=
  let l := s.stored k
  let st := if s.givenSlot fn k then s.slotState k else 0
  if st = 0 then leBytes 1 k ++ List.replicate 31 0
  else if st = 3 then leBytes 1 k ++ leBytes 1 3 ++ List.replicate 30 0
  else leBytes 1 k ++ leBytes 1 st ++ leBytes 2 0 ++ leBytes 4 (capAt l 32 4) ++ leBytes 8 (capAt l 8 8) ++
    leBytes 8 (capAt l 16 8) ++ leBytes 8 (s.slotMask_ k)

/-- Bytes written to a buffer of the host for a function, whose requester id the writes bear; the host's IOMMU may refuse them (18
R338, R351). -/
def State.toHost (s : State) (fn : Nat) (addr : W64) (l : List Byte) : State :=
  if s.hostTakes fn (hostBase + addr.toNat) then { s with hmem := writeBytes s.hmem addr.toNat l }
  else s.report 26 14 (unitParty 0) 0 0 0

def execCapsList (fn q : Nat) (s : State) : Out3 :=
  .next (s.runCmd fn q 0x08 1 false (fun _ => noRec) (fun _ => 0) fun x _ s =>
    s.toHost x.fn x.b ((List.range 9).flatMap (s.capsEntry x.fn)))

def Packet.capSlot (x : Packet) : Nat := x.a % 16
def Packet.capView (x : Packet) : Nat := x.a / 16 % 4
def Packet.capPart (x : Packet) : Nat := x.a / 256 % 64

def State.capsErr (s : State) (x : Packet) : Nat :=
  let k := x.capSlot
  if x.a / 64 % 4 ≠ 0 ∨ x.a / 2 ^ 14 ≠ 0 ∨ 1 < x.capView ∨ 8 < k then 1
  else if x.fn ≠ 0 ∧ (x.capView ≠ 0 ∨ s.partOfFn x.fn ≠ some x.capPart ∨ !s.givenSlot x.fn k) then 4
  else if s.slotState k = 0 ∨ s.slotState k = 3 then 1
  else if (s.viewBytes k x.capView x.capPart).length < (x.lo 1).toNat + (x.hi 1).toNat then 1
  else 0

def execCapsRead (fn q : Nat) (s : State) : Out3 :=
  if (s.party 0).viral && !((s.command fn q 0x09).any fun x => s.slotState x.capSlot == 3) then .next s
  else .next (s.runCmd fn q 0x09 2 false (fun _ => noRec) s.capsErr fun x _ s =>
    (s.openView x.capSlot x.capView x.capPart).toHost x.fn x.b
      (((s.viewBytes x.capSlot x.capView x.capPart).drop (x.lo 1).toNat).take (x.hi 1).toNat))

/-! ### JREAD (19 R372; 21 R397) -/

/-- Whether a function is shown a journal entry: one of its own queues, or one that the device wrote of its partition's records. -/
def State.seesEntry (s : State) (fn j : Nat) : Bool :=
  let q := fromLe (((s.jentry j).drop 8).take 2)
  if q = 0xFFFF then (match s.partOfFn fn with
    | some p => tget s.jown 0 (j % 65536) == p + 1
    | none => false)
  else q / 256 % 64 == fn

/-- The newest entries that a function is shown, of those still kept. -/
def State.shown (s : State) (fn n : Nat) : List (List Byte) :=
  let l := (List.range (min 65536 s.jseq)).map fun i => s.jseq - i
  ((if fn = 0 then l else l.filter (s.seesEntry fn)).take n).map s.jentry

def execJread (fn q : Nat) (s : State) : Out3 :=
  .next (s.runCmd fn q 0x07 1 false (fun _ => noRec) (fun _ => 0) fun x _ s => s.toHost x.fn x.b ((s.shown x.fn x.a).flatMap id))

end Sys2Proof.Machine
end

