-- ==== Sys2Proof/Machine/Tasks.lean ====
section
/-! DEFINITION. The dispatcher: which record fits, ageing and reservations, refusal, dispatch, START (13 R268 to R273). -/

namespace Sys2Proof.Machine

/-! ### Quads (13 R268, R273) -/

def stagesOf (m : Nat) : List Nat := (List.range 4).filter fun d => m / 2 ^ d % 2 == 1

/-- The tiles of a quad on one stage, and those of a set of quads by rank. -/
def quadTiles (d q : Nat) : List Nat := (List.range 4).map fun t => 64 * d + 4 * q + t
def rankTiles (stages : Nat) (qs : List Nat) : List Nat :=
  (stagesOf stages).flatMap fun d => qs.flatMap fun q => quadTiles d q

/-- The quads whose four tiles on every stage of a mask are a partition's. -/
def PartE.quads (p : PartE) (stages : Nat) : List Nat :=
  (List.range 16).filter fun q => (rankTiles stages [q]).all p.holds

/-- Whether a stage can be named at all: its die is neither dropped nor behind a removed party, and admitted (13 R270,
21 R399). -/
def State.stageServes (s : State) (d : Nat) : Bool :=
  (s.die d).stat != 3 && !bitAt s.clkmask (partyOf d) && (d == 0 || s.full)

/-- Whether a tile may be bound: free, and its stage dispatched. -/
def State.tileFree (s : State) (n : Nat) : Bool :=
  (s.tile n).task.isNone && !(s.tile n).killed && (s.die (dieOf n)).stat != 2 && s.stageServes (dieOf n)

/-! ### Fitting (13 R268, R269) -/

def State.resvOf (s : State) (p : Nat) : Option Resv := s.resv.find? fun x => x.part == p

/-- The quads that a record would be bound to now. -/
def State.fit (s : State) (r : Nat) : Option (List Nat) :=
  let p := s.recPart r
  let st := s.recStages r
  let free := ((s.partE p).quads st).filter fun q => (rankTiles st [q]).all s.tileFree
  match s.resvOf p with
  | some v =>
    if v.rcd = r then (if v.quads.all free.contains then some v.quads else none)
    else
      let l := if s.recStages v.rcd &&& st = 0 then free else free.filter fun q => !v.quads.contains q
      if s.recQuads r ≤ l.length then some (l.take (s.recQuads r)) else none
  | none => if s.recQuads r ≤ free.length then some (free.take (s.recQuads r)) else none

/-- Whether the shape of a record can ever be bound (13 R270). -/
def State.shapeOk (s : State) (r : Nat) : Bool :=
  (stagesOf (s.recStages r)).all s.stageServes && decide (s.recQuads r ≤ ((s.partE (s.recPart r)).quads (s.recStages r)).length)

/-! ### The image and the pins (02 R36; 13 R270, R287; 18 R349) -/

/-- An image's header. -/
structure Hdr where
  bases  : List Nat
  code   : Nat
  drains : Nat
  total  : Nat
  deriving DecidableEq, Repr

/-- A header read, where it is well formed (02 R36, R37): dr, the offset that the record gives the drain table, is the header's
too; every stream begins on a 64-byte boundary at 0x8000 or above and the streams follow one another in the order C, A, V, M.
DESIGN CHOICE (log 58): 13 R270 names 02 R36 and R287 alone; the model also refuses what R37 calls no image, streams out of
place, and a code section that is shorter than its bank block or longer than the store. It accepts sections that lie in the header
or overlap, a DATLEN that is no multiple of 64, and an empty last stream at 0x4_0000, whose slot then begins at address 0.
DESIGN CHOICE (log 67): nor does it refuse an SLEN of 0 or a stream that reaches past the end of the code section, beyond which the
store keeps what it held. -/
def hdrOf (l : List Byte) (dr : Nat) : Option Hdr :=
  let at_ (o k : Nat) : Nat := fromLe ((l.drop o).take k)
  let base (i : Nat) : Nat := at_ (8 + 4 * i) 4
  let stop (i : Nat) : Nat := base i + 8 * at_ (24 + 2 * i) 2
  let streams := (List.range 4).all fun i =>
    base i % 64 == 0 && decide (0x8000 ≤ base i) && decide (stop i ≤ if i = 3 then 0x40000 else base (i + 1))
  if at_ 0 4 = 0x4C455342 ∧ at_ 4 2 = 1 ∧ at_ 6 2 = 64 ∧ at_ 42 2 ≤ 12 ∧ at_ 56 8 = 0 ∧ at_ 40 2 ≤ 64 ∧ streams ∧ at_ 36 4 = dr ∧
      at_ 32 4 + 256 ≤ dr ∧ dr ≤ at_ 32 4 + 256 + 0x38000 then
    some ⟨(List.range 4).map fun i => at_ (8 + 4 * i) 4, at_ 32 4, at_ 40 2,
      max (dr + 16 * at_ 40 2) (max (at_ 44 4 + 256) (at_ 48 4 + at_ 52 4))⟩
  else none

/-- A drain-table entry, where 13 R287 does not refuse it. -/
def drainOf (l : List Byte) : Option DrainEnt :=
  let at_ (o k : Nat) : Nat := fromLe ((l.drop o).take k)
  let ok (a : Nat) : Bool := decide (a < 2 ^ 18) && a % 8 == 0 && decide (0x8000 ≤ a)
  if ok (at_ 0 4) && ok (at_ 4 4) && ok (at_ 8 4) && decide (at_ 0 4 ≤ at_ 4 4) && decide (at_ 12 1 < 4) && at_ 13 3 == 0 then
    some ⟨at_ 0 4, at_ 4 4, at_ 8 4, at_ 12 1⟩
  else none

/-- What a record's image and pins give at its first dispatch; none where the record is refused. -/
structure Prep where
  pins  : List TlbE
  hdr   : Hdr
  drain : List DrainEnt
  deriving DecidableEq, Repr

def State.taskTiles (s : State) (r : Nat) : Nat := 4 * s.recQuads r * (stagesOf (s.recStages r)).length

/-- The pins of every operand page. -/
def State.pinOpnds (s : State) (asid : Nat) : List Opnd → List TlbE → Except WalkNote (List TlbE)
  | [], pins => .ok pins
  | o :: l, pins =>
    match pinRange s asid o.isOut true (pagesOf o.gad o.len).2 (pagesOf o.gad o.len).1 pins with
    | .ok pins => s.pinOpnds asid l pins
    | .error w => .error w

def State.imagePrep (s : State) (r : Nat) (pins : List TlbE) : Option (Hdr × List DrainEnt) :=
  let img := s.recAt r 8 8
  let dr := 64 * s.recAt r 6 2
  match hdrOf (s.pinned pins img 64) dr with
  | some h =>
    match (List.range h.drains).mapM fun i => drainOf (s.pinned pins (img + dr + 16 * i) 16) with
    | some l => some (h, l)
    | none => none
  | none => none

/-- The header and the drain table of a task that comes back: a restore reads them and checks nothing, since a record is
refused at its first dispatch decision alone (13 R270, log 58). -/
def State.imageRaw (s : State) (r : Nat) (pins : List TlbE) : Hdr × List DrainEnt :=
  let img := s.recAt r 8 8
  let at_ (o k : Nat) : Nat := fromLe (s.pinned pins (img + o) k)
  let ent (o : Nat) : DrainEnt := ⟨at_ o 4 % 2 ^ 18, at_ (o + 4) 4 % 2 ^ 18, at_ (o + 8) 4 % 2 ^ 18, at_ (o + 12) 1 % 4⟩
  let h : Hdr := ⟨(List.range 4).map fun i => at_ (8 + 4 * i) 4, at_ 32 4, min (at_ 40 2) 64, 0⟩
  (h, (List.range h.drains).map fun i => ent (64 * s.recAt r 6 2 + 16 * i))

/-- Whether a record's image stands as it should, given its pins: an error of its own has no walk's note. -/
def State.imageOk (s : State) (r : Nat) (pins : List TlbE) : Except WalkNote (Hdr × List DrainEnt) :=
  match s.imagePrep r pins with
  | some x => .ok x
  | none => .error none

/-- A record's pages pinned and its image checked; where it is refused, what a walk met. -/
def State.prep (s : State) (r : Nat) : Except WalkNote Prep :=
  let asid := (s.partE (s.recPart r)).asid
  let img := s.recAt r 8 8
  let pin (w : Bool) (va len : Nat) (pins : List TlbE) : Except WalkNote (List TlbE) :=
    pinRange s asid w false (pagesOf va len).2 (pagesOf va len).1 pins
  match pin false img 64 [] with
  | .error w => .error w
  | .ok pins =>
    match hdrOf (s.pinned pins img 64) (64 * s.recAt r 6 2) with
    | none => .error none
    | some h =>
      match ((pin false img h.total pins).bind (pin true (s.recAt r 16 8) (s.taskTiles r * 0x400000))).bind
          (pin true (s.recAt r 24 8) 32) with
      | .error w => .error w
      | .ok pins =>
        match s.pinOpnds asid (s.opnds r) pins with
        | .error w => .error w
        | .ok pins => (s.imageOk r pins).map fun x => ⟨pins, x.1, x.2⟩

/-! ### Dispatch (13 R271, R272) -/

/-- Operand bytes to be staged, page by page, from physical addresses. -/
def stageParts (pins : List TlbE) : Nat → Nat → Nat → Nat → List Async
  | 0, _, _, _ => []
  | k + 1, sad, va, n =>
    if n = 0 then []
    else
      let m := min n (65536 - va % 65536)
      (match pinPa pins va with
        | some pa => [(⟨0, 0, .stage sad pa m, .nothing⟩ : Async)]
        | none => []) ++ stageParts pins k (sad + m) (va + m) (n - m)

def stageAll (pins : List TlbE) (ops : List Opnd) : List Async :=
  (ops.filter Opnd.isIn).flatMap fun o => stageParts pins (o.len / 65536 + 2) o.sad o.gad o.len

/-- The formats of a bank block, with those that operands name. DESIGN CHOICE (log 67): the code 15 of a bank block, which an MTSR
may not write (04 R82), is taken as it stands, and such a bank's elements are of 8 bits. -/
def bankFmts (blk : List Byte) (ops : List Opnd) : Vector (BitVec 4) 12 :=
  ops.foldl (fun v o => if o.fmt = 15 then v else v.set (Fin.ofNat 12 (o.sad / 0x40000)) (BitVec.ofNat 4 o.fmt))
    (Vector.ofFn fun i => BitVec.ofNat 4 (fromLe ((blk.drop (16 * i.val)).take 8)))

/-- The scale tables of a bank block, their reserved bits zero. DESIGN CHOICE (log 67): a GSZ of 11 and a TBASE that is misaligned or
too high, which an MTSR may not write (04 R83), are taken as they stand. -/
def bankScls (blk : List Byte) : Vector W64 12 :=
  Vector.ofFn fun i => w64 (fromLe ((blk.drop (16 * i.val + 8)).take 8)) &&& 0x33FFFFF#64

/-- A tile bound: it holds the task, and step 2 of 13 R271 is still to come. -/
def Tile.bind_ (t : Tile) (b : Bind) (boot : Boot) : Tile := { t with task := some b, boot := some boot }

/-- A record dispatched on a set of quads: step 1 of 13 R271. -/
def State.dispatch (s : State) (r : Nat) (qs : List Nat) (p : Prep) : State :=
  let st := s.recStages r
  let tiles := rankTiles st qs
  let x := s.rinf r
  let s := if (s.die 0).stat = 4 then s.modDie 0 fun x => { x with stat := s.served 0 } else s
  let s := { (s.setRecState r recRunning) with
    pool := s.pool.filter fun e => e.rcd != r
    resv := s.resv.filter fun e => e.rcd != r
    runs := s.runs ++ [(⟨r, s.recPart r, tiles, none, false, [], none⟩ : Run)] }
  let s := s.setRinf r { x with ndisp := min (x.ndisp + 1) 65535, pins := p.pins }
  let s := s.journalDev jStarted r x.jref 0
  tiles.zipIdx.foldl (fun s e => s.modTile e.1 fun t =>
    t.bind_ ⟨r, s.recPart r, e.2, tiles.length - 1, st, qs.length - 1⟩ ⟨r, p.hdr.bases, x.saved, p.hdr.code, p.drain, false⟩) s

/-- A bound tile loaded: its code, drain table, counters, engine and banks set, its staging begun. -/
def Tile.load (t : Tile) (b : Boot) (code blk : List Byte) (ops : List Opnd) (stage : List Async) : Tile :=
  { t with
    istore := writeRange t.istore 0x8000 code, istOld := [], oldNow := []
    drnTab := b.drains, ctrs := [], bcbs := [], eng := .reset
    bfmt := bankFmts blk ops, bscl := bankScls blk, srseed := seedReg (BitVec.ofNat 32 (fromLe ((blk.drop 192).take 4)))
    boot := some { b with loaded := true }
    async := t.async ++ stage }

/-- Steps 2 to 4 of 13 R271 on one tile: the load, its die's acquire, and the staging of every in and inout operand, at a
restore too. A poisoned sector of the code section is consumed as class 5 (19 R354). -/
def State.loadTile (s : State) (n : Nat) (b : Boot) : State :=
  let pins := (s.rinf b.rcd).pins
  let img := s.recAt b.rcd 8 8
  let blk := s.pinned pins (img + b.code) 256
  let code := s.pinned pins (img + b.code + 256) (min (64 * s.recAt b.rcd 6 2 - (b.code + 256)) 0x38000)
  let ops := s.opnds b.rcd
  let s := match s.tainted pins (img + b.code) (64 * s.recAt b.rcd 6 2 - b.code) with
    | some pa =>
      let (cls, source) := if b.restore then (21, 13) else s.lossOf pa
      s.report cls source n 0 pa 0
    | none => s
  (s.modTile n fun t => t.load b code blk ops (stageAll pins ops)).inval (dieOf n)

/-! ### Reservations (13 R269) -/

/-- The ways of choosing k elements, in order. -/
def choose {α : Type} : Nat → List α → List (List α)
  | 0, _ => [[]]
  | _ + 1, [] => []
  | k + 1, x :: l => (choose k l).map (x :: ·) ++ choose (k + 1) l

/-- Whether a tile is held by a pinned task. -/
def State.pinnedTile (s : State) (n : Nat) : Bool :=
  match s.runOf n with
  | some x => s.recPin x.rcd
  | none => false

def State.heldTiles (s : State) (st : Nat) (qs : List Nat) : Nat :=
  ((rankTiles st qs).filter fun n => (s.runOf n).isSome).length

/-- The sets of quads that a reservation may be made on: none with a pinned tile, the fewest tiles held, then the lowest highest
quad (13 R269). -/
def State.bestSets (s : State) (r : Nat) : List (List Nat) :=
  let st := s.recStages r
  let cand := choose (s.recQuads r) (((s.partE (s.recPart r)).quads st).filter fun q =>
    (rankTiles st [q]).all fun n => !s.pinnedTile n)
  let least := cand.foldl (fun m q => min m (s.heldTiles st q)) (s.heldTiles st (cand.headD []))
  let best := cand.filter fun q => s.heldTiles st q == least
  let top (q : List Nat) : Nat := q.foldl max 0
  let low := best.foldl (fun m q => min m (top q)) 16
  best.filter fun q => top q == low

/-- A reservation made, where there is a candidate. Ties that the rule leaves are broken freely. -/
def State.reserve (s : State) (r : Nat) : State :=
  match s.bestSets r with
  | [] => s
  | q :: l =>
    let (k, s) := s.freeNat
    { s with resv := s.resv ++ [⟨s.recPart r, r, (q :: l).getD (k % (l.length + 1)) []⟩] }

/-- One pass counted for a record that was examined and did not fit. -/
def State.age (s : State) (r : Nat) : State :=
  match s.pool.find? fun e => e.rcd == r with
  | none => s
  | some e =>
    let put (e' : PoolE) : State := { s with pool := s.pool.map fun x => if x.rcd = r then e' else x }
    if e.passes + 1 < 64 then put { e with passes := e.passes + 1 }
    else if e.prio < 7 then put { e with passes := 0, prio := e.prio + 1 }
    else
      let s := put { e with passes := 0 }
      if (s.resvOf (s.recPart r)).isSome then s else s.reserve r

/-! ### The decision (13 R268 to R270) -/

/-- The pool in the order of a decision, without the partitions that a snapshot or a reset holds (19 R357, R374). -/
def State.poolOrder (s : State) : List Nat :=
  let held (r : Nat) : Bool := s.wipe.contains (s.recPart r) || match s.snap with
    | some x => x.begun && bitAt x.mask (s.recPart r)
    | none => false
  let l := [7, 6, 5, 4, 3, 2, 1, 0].flatMap fun p => s.pool.filter fun e => e.prio == p
  (l.map (·.rcd)).filter fun r => !held r

/-- The first record of a list that a decision refuses (none) or binds to quads, with those before it that do not fit. -/
def State.examine (s : State) : List Nat → List Nat → Option (Nat × Option (List Nat) × List Nat)
  | [], _ => none
  | r :: l, skipped =>
    if !s.shapeOk r then some (r, none, skipped)
    else match s.fit r with
      | some qs => some (r, some qs, skipped)
      | none => s.examine l (skipped ++ [r])

/-- The preparation that serves a dispatch: made at the first one, and found again from the pins at a later one. -/
def State.prepFor (s : State) (r : Nat) : Except WalkNote Prep :=
  if (s.rinf r).saved then
    let x := s.imageRaw r (s.rinf r).pins
    .ok ⟨(s.rinf r).pins, x.1, x.2⟩
  else s.prep r

/-- The poisoned place of a record's header or drain table, which a decision reads. -/
def State.imageTaint (s : State) (r : Nat) (p : Prep) : Option Nat :=
  let img := s.recAt r 8 8
  (s.tainted p.pins img 64).or (s.tainted p.pins (img + 64 * s.recAt r 6 2) (16 * p.hdr.drains))

/-- A decision made: a record dispatched, with those passed over aged, or a record refused. A reservation that the ageing makes
keeps its quads (13 R269): the record is then bound to those that still fit it, if any. DEDUCED (log 57): a poisoned sector of
its header or drain table is reported as class 5 and refuses the record. -/
def State.decide_ (s : State) : State :=
  match s.examine s.poolOrder [] with
  | none => s
  | some (r, none, _) => s.poisonRec r ⟨4, 0, 0, 0, 0⟩
  | some (r, some _, skipped) =>
    match s.prepFor r with
    | .error w => (s.walkNote 0 (unitParty 0) (s.recPart r) w).poisonRec r ⟨4, 0, 0, 0, 0⟩
    | .ok p =>
      let s := skipped.foldl State.age s
      match s.imageTaint r p, s.fit r with
      | some pa, _ =>
        let (status, cls, source) := if (s.rinf r).saved then (1, 21, 13) else (4, s.lossOf pa)
        (s.report cls source (unitParty 0) 0 pa 0).poisonRec r ⟨status, 0, 0, cls, source⟩
      | none, some qs => s.dispatch r qs p
      | none, none => s

/-- Whether the dispatcher works: not between the end of training and the full service, nor when CD is viral. -/
def State.dispatches (s : State) : Bool := (!s.trained || s.full) && !(s.party 0).viral

/-- DISPATCH_DECISION. -/
def execDispatchDecision (s : State) : Out3 := if s.dispatches then .next s.decide_ else .next s

/-- A reservation's 10 ms are over: the unpinned tasks that hold tiles of its set are asked to leave. -/
def State.pressResv (s : State) (v : Resv) : State :=
  let tiles := rankTiles (s.recStages v.rcd) v.quads
  ((s.runs.filter fun x => !s.recPin x.rcd && x.tiles.any tiles.contains).map (·.rcd)).foldl
    (fun s r => s.request r 11 false []) s

/-- RESERVATION_TIMEOUT. -/
def execReservationTimeout (part : Nat) (s : State) : Out3 :=
  match s.resvOf part with
  | some v => .next (s.pressResv v)
  | none => .next s

/-! ### START (05 R111, 13 R271, R292) -/

/-- In the bring-up service a bank format other than RAW8, F32 and BF16 raises ILL at the START that would set it, from an operand
or from the image's bank block as the load has left it (21 R399, log 53). -/
def State.startFmtBad (s : State) (n r : Nat) : Bool :=
  (s.opnds r).any (fun o => o.fmt != 15 && s.lacks o.fmt) || (s.tile n).bfmt.toList.any fun f => s.lacks f.toNat

/-- A fresh START, with its DISP event. -/
def State.startFresh (s : State) (n : Nat) (b : Boot) (rank : Nat) : State :=
  let s := (s.startTile n b).tileEvent n 4 0x20 b.rcd rank
  if s.startFmtBad n b.rcd then s.takeTrap n .c .ill 4 none (b.base.headD 0) else s

/-- START: a bound tile is loaded; then, once its staging has ended, it begins its task, anew or from its frame. A put that
arrives before the load is counted and its count then lost (15 R330). A frame with a poisoned sector that the restore reads
loses the task (19 R369). -/
def execStart (tile : Nat) (s : State) : Out3 :=
  let n := tile % 256
  let t := s.tile n
  match t.boot, t.task with
  | some b, some k =>
    if !b.loaded then .next (s.loadTile n b)
    else if t.async.any fun w => match w.w with
      | .stage _ _ _ => true
      | _ => false then .next s
    else if b.restore then
      match s.frameTaint b k.rank, s.restoreTile n b k.rank with
      | some pa, _ => .next (s.report 21 13 n 0 pa 0)
      | none, some s => .next (s.tileEvent n 4 0x20 b.rcd (k.rank + 256))
      | none, none => .next (s.kill b.rcd ⟨2, 0, 0, 0, 0⟩)
    else .next (s.startFresh n b k.rank)
  | _, _ => .next s

end Sys2Proof.Machine
end

