-- ==== Sys2Proof/Machine/Dispatch.lean ====
section
/-! DEFINITION. The meaning of every instruction, one arm each. -/

namespace Sys2Proof.Machine

def exec (i : Instr) (s : State) : Host.Outcome State Fault Refusal :=
  match i with
  | .add d a b => Sys2Proof.Machine.execAdd d a b s
  | .sub d a b => Sys2Proof.Machine.execSub d a b s
  | .mul d a b => Sys2Proof.Machine.execMul d a b s
  | .mulh d a b => Sys2Proof.Machine.execMulh d a b s
  | .mulhs d a b => Sys2Proof.Machine.execMulhs d a b s
  | .div d a b => Sys2Proof.Machine.execDiv d a b s
  | .divs d a b => Sys2Proof.Machine.execDivs d a b s
  | .rem d a b => Sys2Proof.Machine.execRem d a b s
  | .rems d a b => Sys2Proof.Machine.execRems d a b s
  | .min d a b => Sys2Proof.Machine.execMin d a b s
  | .mins d a b => Sys2Proof.Machine.execMins d a b s
  | .max d a b => Sys2Proof.Machine.execMax d a b s
  | .maxs d a b => Sys2Proof.Machine.execMaxs d a b s
  | .sel d g a b => Sys2Proof.Machine.execSel d g a b s
  | .movk d imm => Sys2Proof.Machine.execMovk d imm s
  | .movkh d imm => Sys2Proof.Machine.execMovkh d imm s
  | .xmov d a => Sys2Proof.Machine.execXmov d a s
  | .rgn d base stride count fmt list => Sys2Proof.Machine.execRgn d base stride count fmt list s
  | .and d a b => Sys2Proof.Machine.execAnd d a b s
  | .or d a b => Sys2Proof.Machine.execOr d a b s
  | .xor d a b => Sys2Proof.Machine.execXor d a b s
  | .andn d a b => Sys2Proof.Machine.execAndn d a b s
  | .shl d a b => Sys2Proof.Machine.execShl d a b s
  | .shr d a b => Sys2Proof.Machine.execShr d a b s
  | .sra d a b => Sys2Proof.Machine.execSra d a b s
  | .rot d a b => Sys2Proof.Machine.execRot d a b s
  | .clz d a => Sys2Proof.Machine.execClz d a s
  | .ctz d a => Sys2Proof.Machine.execCtz d a s
  | .popc d a => Sys2Proof.Machine.execPopc d a s
  | .extr d a pos lenm1 => Sys2Proof.Machine.execExtr d a pos lenm1 s
  | .ins d a pos lenm1 => Sys2Proof.Machine.execIns d a pos lenm1 s
  | .clmul d a b => Sys2Proof.Machine.execClmul d a b s
  | .clmulh d a b => Sys2Proof.Machine.execClmulh d a b s
  | .gand d g1 g2 => Sys2Proof.Machine.execGand d g1 g2 s
  | .gor d g1 g2 => Sys2Proof.Machine.execGor d g1 g2 s
  | .gnot d g1 => Sys2Proof.Machine.execGnot d g1 s
  | .cmpEq d a b => Sys2Proof.Machine.execCmpEq d a b s
  | .cmpNe d a b => Sys2Proof.Machine.execCmpNe d a b s
  | .cmpLt d a b => Sys2Proof.Machine.execCmpLt d a b s
  | .cmpLts d a b => Sys2Proof.Machine.execCmpLts d a b s
  | .cmpLe d a b => Sys2Proof.Machine.execCmpLe d a b s
  | .cmpLes d a b => Sys2Proof.Machine.execCmpLes d a b s
  | .nop => Sys2Proof.Machine.execNop s
  | .br disp => Sys2Proof.Machine.execBr disp s
  | .bri a => Sys2Proof.Machine.execBri a s
  | .call d disp => Sys2Proof.Machine.execCall d disp s
  | .ret a => Sys2Proof.Machine.execRet a s
  | .loop a endw => Sys2Proof.Machine.execLoop a endw s
  | .taskend => Sys2Proof.Machine.execTaskend s
  | .pfxK k => Sys2Proof.Machine.execPfxK k s
  | .pfxSm m1 m2 m3 => Sys2Proof.Machine.execPfxSm m1 m2 m3 s
  | .start tile => Sys2Proof.Machine.execStart tile s
  | .trap a => Sys2Proof.Machine.execTrap a s
  | .eret => Sys2Proof.Machine.execEret s
  | .mfsr d num => Sys2Proof.Machine.execMfsr d num s
  | .mtsr num a => Sys2Proof.Machine.execMtsr num a s
  | .mtsrSrseed a => Sys2Proof.Machine.execMtsrSrseed a s
  | .mtsrBfmt n a => Sys2Proof.Machine.execMtsrBfmt n a s
  | .mtsrBscl n a => Sys2Proof.Machine.execMtsrBscl n a s
  | .mtsrCntsel n a => Sys2Proof.Machine.execMtsrCntsel n a s
  | .halt => Sys2Proof.Machine.execHalt s
  | .iclr => Sys2Proof.Machine.execIclr s
  | .vadd d a b md => Sys2Proof.Machine.execVadd d a b md s
  | .vsub d a b md => Sys2Proof.Machine.execVsub d a b md s
  | .vmul d a b md => Sys2Proof.Machine.execVmul d a b md s
  | .vfma d a b c md => Sys2Proof.Machine.execVfma d a b c md s
  | .vfms d a b c md => Sys2Proof.Machine.execVfms d a b c md s
  | .vfnma d a b c md => Sys2Proof.Machine.execVfnma d a b c md s
  | .vmin d a b md => Sys2Proof.Machine.execVmin d a b md s
  | .vmax d a b md => Sys2Proof.Machine.execVmax d a b md s
  | .vabs d a md => Sys2Proof.Machine.execVabs d a md s
  | .vneg d a md => Sys2Proof.Machine.execVneg d a md s
  | .vand d a b => Sys2Proof.Machine.execVand d a b s
  | .vor d a b => Sys2Proof.Machine.execVor d a b s
  | .vxor d a b => Sys2Proof.Machine.execVxor d a b s
  | .vshl d a b => Sys2Proof.Machine.execVshl d a b s
  | .vshr d a b => Sys2Proof.Machine.execVshr d a b s
  | .vsra d a b => Sys2Proof.Machine.execVsra d a b s
  | .vcmpEq d a b => Sys2Proof.Machine.execVcmpEq d a b s
  | .vcmpNe d a b => Sys2Proof.Machine.execVcmpNe d a b s
  | .vcmpLt d a b => Sys2Proof.Machine.execVcmpLt d a b s
  | .vcmpLts d a b => Sys2Proof.Machine.execVcmpLts d a b s
  | .vcmpLe d a b => Sys2Proof.Machine.execVcmpLe d a b s
  | .vcmpLes d a b => Sys2Proof.Machine.execVcmpLes d a b s
  | .vsel d m a b => Sys2Proof.Machine.execVsel d m a b s
  | .vcvt d a md => Sys2Proof.Machine.execVcvt d a md s
  | .vqnt d a rnd => Sys2Proof.Machine.execVqnt d a rnd s
  | .vdqnt d a t md => Sys2Proof.Machine.execVdqnt d a t md s
  | .vrcpe d a => Sys2Proof.Machine.execVrcpe d a s
  | .vrsqe d a => Sys2Proof.Machine.execVrsqe d a s
  | .vrcps d a b rnd => Sys2Proof.Machine.execVrcps d a b rnd s
  | .vrsqs d a b rnd => Sys2Proof.Machine.execVrsqs d a b rnd s
  | .vexp2e d a => Sys2Proof.Machine.execVexp2e d a s
  | .vlog2e d a => Sys2Proof.Machine.execVlog2e d a s
  | .vsum d a md => Sys2Proof.Machine.execVsum d a md s
  | .vdot d a b md => Sys2Proof.Machine.execVdot d a b md s
  | .vmaxr d a => Sys2Proof.Machine.execVmaxr d a s
  | .vminr d a => Sys2Proof.Machine.execVminr d a s
  | .viota d a b => Sys2Proof.Machine.execViota d a b s
  | .vfill d a => Sys2Proof.Machine.execVfill d a s
  | .vcopy d a => Sys2Proof.Machine.execVcopy d a s
  | .vpart d0 d1 d2 d3 o => Sys2Proof.Machine.execVpart d0 d1 d2 d3 o s
  | .vgath d a l => Sys2Proof.Machine.execVgath d a l s
  | .vscat d a l => Sys2Proof.Machine.execVscat d a l s
  | .mln lvl a => Sys2Proof.Machine.execMln lvl a s
  | .mopa src a b => Sys2Proof.Machine.execMopa src a b s
  | .mopb src a b => Sys2Proof.Machine.execMopb src a b s
  | .macc acc init => Sys2Proof.Machine.execMacc acc init s
  | .mlda reg a b => Sys2Proof.Machine.execMlda reg a b s
  | .mldb reg a b => Sys2Proof.Machine.execMldb reg a b s
  | .mgo a => Sys2Proof.Machine.execMgo a s
  | .mwait => Sys2Proof.Machine.execMwait s
  | .mdrain a b acc zero md => Sys2Proof.Machine.execMdrain a b acc zero md s
  | .mbya reg acc zero fmt md => Sys2Proof.Machine.execMbya reg acc zero fmt md s
  | .mxp d e a b p => Sys2Proof.Machine.execMxp d e a b p s
  | .msave a => Sys2Proof.Machine.execMsave a s
  | .mrest a => Sys2Proof.Machine.execMrest a s
  | .mstat d b => Sys2Proof.Machine.execMstat d b s
  | .cset a => Sys2Proof.Machine.execCset a s
  | .cldc a => Sys2Proof.Machine.execCldc a s
  | .crun a => Sys2Proof.Machine.execCrun a s
  | .cleaf d a => Sys2Proof.Machine.execCleaf d a s
  | .cidx d => Sys2Proof.Machine.execCidx d s
  | .cstatContour d b => Sys2Proof.Machine.execCstatContour d b s
  | .ldB o => Sys2Proof.Machine.execLdB o s
  | .ldH o => Sys2Proof.Machine.execLdH o s
  | .ldW o => Sys2Proof.Machine.execLdW o s
  | .ldD o => Sys2Proof.Machine.execLdD o s
  | .ldsB o => Sys2Proof.Machine.execLdsB o s
  | .ldsH o => Sys2Proof.Machine.execLdsH o s
  | .ldsW o => Sys2Proof.Machine.execLdsW o s
  | .stB o => Sys2Proof.Machine.execStB o s
  | .stH o => Sys2Proof.Machine.execStH o s
  | .stW o => Sys2Proof.Machine.execStW o s
  | .stD o => Sys2Proof.Machine.execStD o s
  | .pf o => Sys2Proof.Machine.execPf o s
  | .qmark => Sys2Proof.Machine.execQmark s
  | .fenceSlot => Sys2Proof.Machine.execFenceSlot s
  | .fenceTile => Sys2Proof.Machine.execFenceTile s
  | .fenceDie => Sys2Proof.Machine.execFenceDie s
  | .fencePkg => Sys2Proof.Machine.execFencePkg s
  | .fenceSys => Sys2Proof.Machine.execFenceSys s
  | .fenceRetire tile => Sys2Proof.Machine.execFenceRetire tile s
  | .acqSlot => Sys2Proof.Machine.execAcqSlot s
  | .acqTile => Sys2Proof.Machine.execAcqTile s
  | .acqDie => Sys2Proof.Machine.execAcqDie s
  | .acqPkg => Sys2Proof.Machine.execAcqPkg s
  | .acqSys => Sys2Proof.Machine.execAcqSys s
  | .relSlot => Sys2Proof.Machine.execRelSlot s
  | .relTile => Sys2Proof.Machine.execRelTile s
  | .relDie => Sys2Proof.Machine.execRelDie s
  | .relPkg => Sys2Proof.Machine.execRelPkg s
  | .relSys => Sys2Proof.Machine.execRelSys s
  | .aadd o => Sys2Proof.Machine.execAadd o s
  | .amin o => Sys2Proof.Machine.execAmin o s
  | .amins o => Sys2Proof.Machine.execAmins o s
  | .amax o => Sys2Proof.Machine.execAmax o s
  | .amaxs o => Sys2Proof.Machine.execAmaxs o s
  | .aand o => Sys2Proof.Machine.execAand o s
  | .aor o => Sys2Proof.Machine.execAor o s
  | .axor o => Sys2Proof.Machine.execAxor o s
  | .aswp o => Sys2Proof.Machine.execAswp o s
  | .acas o => Sys2Proof.Machine.execAcas o s
  | .aaddF32 o => Sys2Proof.Machine.execAaddF32 o s
  | .aaddBf16 o => Sys2Proof.Machine.execAaddBf16 o s
  | .aaddNr o => Sys2Proof.Machine.execAaddNr o s
  | .aminNr o => Sys2Proof.Machine.execAminNr o s
  | .aminsNr o => Sys2Proof.Machine.execAminsNr o s
  | .amaxNr o => Sys2Proof.Machine.execAmaxNr o s
  | .amaxsNr o => Sys2Proof.Machine.execAmaxsNr o s
  | .aandNr o => Sys2Proof.Machine.execAandNr o s
  | .aorNr o => Sys2Proof.Machine.execAorNr o s
  | .axorNr o => Sys2Proof.Machine.execAxorNr o s
  | .aswpNr o => Sys2Proof.Machine.execAswpNr o s
  | .acasNr o => Sys2Proof.Machine.execAcasNr o s
  | .aaddF32Nr o => Sys2Proof.Machine.execAaddF32Nr o s
  | .aaddBf16Nr o => Sys2Proof.Machine.execAaddBf16Nr o s
  | .cpygs sd ga shape pitch mf => Sys2Proof.Machine.execCpygs sd ga shape pitch mf s
  | .cpysg sd ga shape pitch mf => Sys2Proof.Machine.execCpysg sd ga shape pitch mf s
  | .chainTail a => Sys2Proof.Machine.execChainTail a s
  | .chainWait d a clr => Sys2Proof.Machine.execChainWait d a clr s
  | .put tgt adr ctl mf => Sys2Proof.Machine.execPut tgt adr ctl mf s
  | .get tgt adr ctl mf => Sys2Proof.Machine.execGet tgt adr ctl mf s
  | .arradd d a b => Sys2Proof.Machine.execArradd d a b s
  | .arrset a b => Sys2Proof.Machine.execArrset a b s
  | .arrw d a b subt => Sys2Proof.Machine.execArrw d a b subt s
  | .bcbPost d a b => Sys2Proof.Machine.execBcbPost d a b s
  | .bcbWait d a b clr => Sys2Proof.Machine.execBcbWait d a b clr s
  | .ctbl a b => Sys2Proof.Machine.execCtbl a b s
  | .cready a => Sys2Proof.Machine.execCready a s
  | .cevw d a b => Sys2Proof.Machine.execCevw d a b s
  | .cabort a => Sys2Proof.Machine.execCabort a s
  | .cstatColl d a clr => Sys2Proof.Machine.execCstatColl d a clr s
  | .bara d b => Sys2Proof.Machine.execBara d b s
  | .barw b p => Sys2Proof.Machine.execBarw b p s
  | .bars d b => Sys2Proof.Machine.execBars d b s
  | .barcfg b n => Sys2Proof.Machine.execBarcfg b n s
  | .mlock m => Sys2Proof.Machine.execMlock m s
  | .mtry d m => Sys2Proof.Machine.execMtry d m s
  | .munlk m => Sys2Proof.Machine.execMunlk m s
  | .semp m => Sys2Proof.Machine.execSemp m s
  | .semv m n => Sys2Proof.Machine.execSemv m n s
  | .semtry d m => Sys2Proof.Machine.execSemtry d m s
  | .tokcnt d src dst => Sys2Proof.Machine.execTokcnt d src dst s
  | .yield a => Sys2Proof.Machine.execYield a s
  | .qpt => Sys2Proof.Machine.execQpt s
  | .dsend a b => Sys2Proof.Machine.execDsend a b s
  | .lrpatch d a b fld => Sys2Proof.Machine.execLrpatch d a b fld s
  | .lrarm d a => Sys2Proof.Machine.execLrarm d a s
  | .deq tile store => Sys2Proof.Machine.execDeq tile store s
  | .entryTranslate tile store index => Sys2Proof.Machine.execEntryTranslate tile store index s
  | .pageWalk die asid va => Sys2Proof.Machine.execPageWalk die asid va s
  | .hop die path keep => Sys2Proof.Machine.execHop die path keep s
  | .rdcEvict die line => Sys2Proof.Machine.execRdcEvict die line s
  | .send src dst path => Sys2Proof.Machine.execSend src dst path s
  | .packetArrive src dst => Sys2Proof.Machine.execPacketArrive src dst s
  | .deliver party index => Sys2Proof.Machine.execDeliver party index s
  | .deliveryReport party src => Sys2Proof.Machine.execDeliveryReport party src s
  | .reportReceive party index => Sys2Proof.Machine.execReportReceive party index s
  | .perform die index => Sys2Proof.Machine.execPerform die index s
  | .returnVal tile => Sys2Proof.Machine.execReturnVal tile s
  | .commit tile count => Sys2Proof.Machine.execCommit tile count s
  | .hostCompletion index => Sys2Proof.Machine.execHostCompletion index s
  | .hostWrite addr bytes => Sys2Proof.Machine.execHostWrite addr bytes s
  | .copyBegin tile => Sys2Proof.Machine.execCopyBegin tile s
  | .copySector tile cmd index => Sys2Proof.Machine.execCopySector tile cmd index s
  | .copySeqCommit tile => Sys2Proof.Machine.execCopySeqCommit tile s
  | .chainEntryRead tile => Sys2Proof.Machine.execChainEntryRead tile s
  | .putBegin tile => Sys2Proof.Machine.execPutBegin tile s
  | .putArrive tile index => Sys2Proof.Machine.execPutArrive tile index s
  | .getrqArrive tile index => Sys2Proof.Machine.execGetrqArrive tile index s
  | .getrsArrive tile index => Sys2Proof.Machine.execGetrsArrive tile index s
  | .packArrive tile index => Sys2Proof.Machine.execPackArrive tile index s
  | .routerTimeout index => Sys2Proof.Machine.execRouterTimeout index s
  | .flitReceive port => Sys2Proof.Machine.execFlitReceive port s
  | .ackTimer port => Sys2Proof.Machine.execAckTimer port s
  | .retryReceive port => Sys2Proof.Machine.execRetryReceive port s
  | .retryRepeat port => Sys2Proof.Machine.execRetryRepeat port s
  | .laneShed port lane => Sys2Proof.Machine.execLaneShed port lane s
  | .rshreqReceive port => Sys2Proof.Machine.execRshreqReceive port s
  | .rshackReceive port => Sys2Proof.Machine.execRshackReceive port s
  | .rshreqRepeat port => Sys2Proof.Machine.execRshreqRepeat port s
  | .linkTimeout port => Sys2Proof.Machine.execLinkTimeout port s
  | .retrain port lanes => Sys2Proof.Machine.execRetrain port lanes s
  | .packetForward index port => Sys2Proof.Machine.execPacketForward index port s
  | .escapeEntry index => Sys2Proof.Machine.execEscapeEntry index s
  | .treeInstall version links => Sys2Proof.Machine.execTreeInstall version links s
  | .treeRetire version => Sys2Proof.Machine.execTreeRetire version s
  | .livenessSend port => Sys2Proof.Machine.execLivenessSend port s
  | .livenessReceive port => Sys2Proof.Machine.execLivenessReceive port s
  | .groupTimeout group => Sys2Proof.Machine.execGroupTimeout group s
  | .holdTimeout party index => Sys2Proof.Machine.execHoldTimeout party index s
  | .interdieLinkError p q => Sys2Proof.Machine.execInterdieLinkError p q s
  | .resurveyResume => Sys2Proof.Machine.execResurveyResume s
  | .contribBegin tile => Sys2Proof.Machine.execContribBegin tile s
  | .contribReceive tile index => Sys2Proof.Machine.execContribReceive tile index s
  | .cackReceive tile index => Sys2Proof.Machine.execCackReceive tile index s
  | .contribResend tile entry => Sys2Proof.Machine.execContribResend tile entry s
  | .finReceive tile index => Sys2Proof.Machine.execFinReceive tile index s
  | .brelReceive tile index => Sys2Proof.Machine.execBrelReceive tile index s
  | .allfinRelease tile entry => Sys2Proof.Machine.execAllfinRelease tile entry s
  | .abortReceive tile index => Sys2Proof.Machine.execAbortReceive tile index s
  | .dispatchDecision => Sys2Proof.Machine.execDispatchDecision s
  | .reservationTimeout part => Sys2Proof.Machine.execReservationTimeout part s
  | .taskEnd run => Sys2Proof.Machine.execTaskEnd run s
  | .preemptArrive tile => Sys2Proof.Machine.execPreemptArrive tile s
  | .preemptInhTimeout tile => Sys2Proof.Machine.execPreemptInhTimeout tile s
  | .stubTimeout tile slot => Sys2Proof.Machine.execStubTimeout tile slot s
  | .frameComplete tile => Sys2Proof.Machine.execFrameComplete tile s
  | .qptWatchdog tile => Sys2Proof.Machine.execQptWatchdog tile s
  | .stallWatchdog tile slot => Sys2Proof.Machine.execStallWatchdog tile slot s
  | .invalDone index => Sys2Proof.Machine.execInvalDone index s
  | .faultRingFlush part => Sys2Proof.Machine.execFaultRingFlush part s
  | .errorDetected e => Sys2Proof.Machine.execErrorDetected e s
  | .viralSideband party => Sys2Proof.Machine.execViralSideband party s
  | .freezePacketArrive tile => Sys2Proof.Machine.execFreezePacketArrive tile s
  | .freezeTimeout ring => Sys2Proof.Machine.execFreezeTimeout ring s
  | .cartoucheAssemble part => Sys2Proof.Machine.execCartoucheAssemble part s
  | .sealDeadline => Sys2Proof.Machine.execSealDeadline s
  | .debugHold die => Sys2Proof.Machine.execDebugHold die s
  | .debugRelease die => Sys2Proof.Machine.execDebugRelease die s
  | .dieQuiesceTimeout die => Sys2Proof.Machine.execDieQuiesceTimeout die s
  | .dieRetrainDone die ok => Sys2Proof.Machine.execDieRetrainDone die ok s
  | .dieDropThreshold die => Sys2Proof.Machine.execDieDropThreshold die s
  | .snapshotBegin => Sys2Proof.Machine.execSnapshotBegin s
  | .snapshotResend index => Sys2Proof.Machine.execSnapshotResend index s
  | .trainingComplete => Sys2Proof.Machine.execTrainingComplete s
  | .fullServiceBegin => Sys2Proof.Machine.execFullServiceBegin s
  | .coldReset => Sys2Proof.Machine.execColdReset s
  | .qtailWrite fn q value => Sys2Proof.Machine.execQtailWrite fn q value s
  | .queueRestart fn q => Sys2Proof.Machine.execQueueRestart fn q s
  | .hostRegWrite fn reg value => Sys2Proof.Machine.execHostRegWrite fn reg value s
  | .cmdNop fn q => Sys2Proof.Machine.execCmdNop fn q s
  | .build fn q => Sys2Proof.Machine.execBuild fn q s
  | .arm fn q => Sys2Proof.Machine.execArm fn q s
  | .release fn q => Sys2Proof.Machine.execRelease fn q s
  | .preempt fn q => Sys2Proof.Machine.execPreempt fn q s
  | .resolve fn q => Sys2Proof.Machine.execResolve fn q s
  | .inval fn q => Sys2Proof.Machine.execInval fn q s
  | .jread fn q => Sys2Proof.Machine.execJread fn q s
  | .capsList fn q => Sys2Proof.Machine.execCapsList fn q s
  | .capsRead fn q => Sys2Proof.Machine.execCapsRead fn q s
  | .partset fn q => Sys2Proof.Machine.execPartset fn q s
  | .partsetDone part => Sys2Proof.Machine.execPartsetDone part s
  | .sevset fn q => Sys2Proof.Machine.execSevset fn q s
  | .tmoset fn q => Sys2Proof.Machine.execTmoset fn q s
  | .wdset fn q => Sys2Proof.Machine.execWdset fn q s
  | .power fn q => Sys2Proof.Machine.execPower fn q s
  | .diereset fn q => Sys2Proof.Machine.execDiereset fn q s
  | .diedrop fn q => Sys2Proof.Machine.execDiedrop fn q s
  | .snapshot fn q => Sys2Proof.Machine.execSnapshot fn q s
  | .snaprest fn q => Sys2Proof.Machine.execSnaprest fn q s
  | .pkgreset fn q => Sys2Proof.Machine.execPkgreset fn q s
  | .fabsetPctl fn q => Sys2Proof.Machine.execFabsetPctl fn q s
  | .fabsetRcfg fn q => Sys2Proof.Machine.execFabsetRcfg fn q s
  | .fabsetTcw fn q => Sys2Proof.Machine.execFabsetTcw fn q s
  | .packageNumberAssign group member => Sys2Proof.Machine.execPackageNumberAssign group member s
  | .debuggerAttach part on => Sys2Proof.Machine.execDebuggerAttach part on s
  | .viralNoticeReceive port => Sys2Proof.Machine.execViralNoticeReceive port s
  | .snapshotPacketReceive port => Sys2Proof.Machine.execSnapshotPacketReceive port s
  | .snapshotAckReceive port => Sys2Proof.Machine.execSnapshotAckReceive port s
  | .removalOfAParty party => Sys2Proof.Machine.execRemovalOfAParty party s

end Sys2Proof.Machine
end

