-- ==== Sys2Proof/Machine/Rows.lean ====
section
/-! DEFINITION. Which rows of the opcode table are moves and events of the package, and which are words of a slot. -/

namespace Sys2Proof

/-- The rows that step on their own: START, the retirement of a FENCE, and every row from DEQ on. -/
def Instr.isMove : Instr → Bool
  | .start _ | .fenceRetire _ | .deq _ _ | .entryTranslate _ _ _ | .pageWalk _ _ _ | .hop _ _ _ | .rdcEvict _ _
  | .send _ _ _ | .packetArrive _ _ | .deliver _ _ | .deliveryReport _ _ | .reportReceive _ _ | .perform _ _
  | .returnVal _ | .commit _ _ | .hostCompletion _ | .hostWrite _ _ | .copyBegin _ | .copySector _ _ _
  | .copySeqCommit _ | .chainEntryRead _ | .putBegin _ | .putArrive _ _ | .getrqArrive _ _ | .getrsArrive _ _
  | .packArrive _ _ | .routerTimeout _ | .flitReceive _ | .ackTimer _ | .retryReceive _ | .retryRepeat _
  | .laneShed _ _ | .rshreqReceive _ | .rshackReceive _ | .rshreqRepeat _ | .linkTimeout _ | .retrain _ _
  | .packetForward _ _ | .escapeEntry _ | .treeInstall _ _ | .treeRetire _ | .livenessSend _
  | .livenessReceive _ | .groupTimeout _ | .holdTimeout _ _ | .interdieLinkError _ _ | .resurveyResume
  | .contribBegin _ | .contribReceive _ _ | .cackReceive _ _ | .contribResend _ _ | .finReceive _ _
  | .brelReceive _ _ | .allfinRelease _ _ | .abortReceive _ _ | .dispatchDecision | .reservationTimeout _
  | .taskEnd _ | .preemptArrive _ | .preemptInhTimeout _ | .stubTimeout _ _ | .frameComplete _ | .qptWatchdog _
  | .stallWatchdog _ _ | .invalDone _ | .faultRingFlush _ | .errorDetected _ | .viralSideband _
  | .freezePacketArrive _ | .freezeTimeout _ | .cartoucheAssemble _ | .sealDeadline | .debugHold _
  | .debugRelease _ | .dieQuiesceTimeout _ | .dieRetrainDone _ _ | .dieDropThreshold _ | .snapshotBegin
  | .snapshotResend _ | .trainingComplete | .fullServiceBegin | .coldReset | .qtailWrite _ _ _
  | .queueRestart _ _ | .hostRegWrite _ _ _ | .cmdNop _ _ | .build _ _ | .arm _ _ | .release _ _ | .preempt _ _
  | .resolve _ _ | .inval _ _ | .jread _ _ | .capsList _ _ | .capsRead _ _ | .partset _ _ | .partsetDone _
  | .sevset _ _ | .tmoset _ _ | .wdset _ _ | .power _ _ | .diereset _ _ | .diedrop _ _ | .snapshot _ _
  | .snaprest _ _ | .pkgreset _ _ | .fabsetPctl _ _ | .fabsetRcfg _ _ | .fabsetTcw _ _
  | .packageNumberAssign _ _ | .debuggerAttach _ _ | .viralNoticeReceive _ | .snapshotPacketReceive _
  | .snapshotAckReceive _ | .removalOfAParty _ => true
  | _ => false

end Sys2Proof
end

