-- ==== Sys2Proof/Machine/Issue.lean ====
section
/-! DEFINITION. How a tile issues words: its phases, eligibility, prefixes, guards and sync bundles (03 R42, R50 to
R60), and which move steps next (10 R186). -/

namespace Sys2Proof.Machine

/-! ### Units at the PC (03 R50, R52) -/

def isPrefix (w : W64) : Bool := fld w 30 10 == 0x0BF || fld w 30 10 == 0x0BE

/-- IDLE of the word that ends the unit at an address, as fetched in the cycle in progress. -/
def Tile.unitIdle (t : Tile) : Nat → Nat → Nat
  | 0, a => fld (t.fetch a) 54 10
  | n + 1, a => if isPrefix (t.fetch a) then t.unitIdle n (a + 8) else fld (t.fetch a) 54 10

/-- The cycle at which a slot's next unit is eligible (03 R52). -/
def Tile.eligibleAt (t : Tile) (k : Slot) : Nat :=
  let x := t.slot k
  match x.due with
  | some q => q
  | none => x.base + t.unitIdle 2 x.pc.toNat

/-- Whether a slot issues words in the cycle in progress (03 R59, 05 R110, R116, R118). -/
def Tile.active (t : Tile) (k : Slot) : Bool :=
  !t.killed && t.hold.isNone &&
    if t.drn.isSome then (t.slot k).stub && (t.slot k).running
    else if t.inh && t.trapT != some t.cyc then k == .c && !t.hEnded
    else (t.slot k).running

/-- The guard of a field as a word of slot k reads it (03 R42). -/
def Tile.guard (t : Tile) (k : Slot) (g : GuardF) : Bool := t.readG k g.idx != g.inv

def Tile.guards (t : Tile) (k : Slot) (c : Ctl) : Bool := t.guard k c.ga && t.guard k c.gb

/-! ### Decoding at the PC (03 R50, R51) -/

/-- DETAIL of the ILL that a decoding step raises (05 R114); ILLSLOT has none. -/
def errTrap : DecErr → Cause × Nat
  | .unassigned => (.ill, 1)
  | .illSlot => (.illslot, 0)
  | .badField => (.ill, 3)

/-- Whether the prefixes read suit the word (03 R45, R50 rule 4). -/
def prefixOk (p : Prefixes) (w : W64) : Bool :=
  let f := Fields.ofWord w
  (p.k.isSome == f.holds 50) &&
    match p.sm with
    | some (a, b, c) => f.takesMods a b c
    | none => true

/-- The word after the prefixes of a unit, or the trap that decoding raises: cause, DETAIL, and whether it is raised at
the prefix itself. -/
def Tile.decodeAt (t : Tile) (k : Slot) : Except (Cause × Nat × Bool) (Ctl × Instr) :=
  let x := t.slot k
  let w := t.fetch x.wordPc
  match decode k w with
  | .error e => .error ((errTrap e).1, (errTrap e).2, isPrefix w)
  | .ok (c, i) => if isPrefix w || prefixOk x.pre w then .ok (c, i) else .error (.ill, 3, false)

/-- The word that a slot is about to issue. -/
def State.setCur (s : State) (n : Nat) (k : Slot) (c : Ctl) (mayGo gather probe : Bool) : State :=
  let x := (s.tile n).slot k
  { s with cur := ⟨n, k, c, x.pre.k, x.pre.sm, mayGo, gather, probe, false⟩ }

/-! ### Sync bundles (03 R54) -/

/-- A slot's prefixes read ahead, without effect. -/
def Tile.walkPrefixes (t : Tile) (k : Slot) : Nat → Tile
  | 0 => t
  | n + 1 =>
    let x := t.slot k
    match decode k (t.fetch x.wordPc) with
    | .ok (_, .pfxK v) =>
      if x.pre.k.isSome then t
      else (t.setSlot k { x with pre := { x.pre with words := x.pre.words + 1, k := some v } }).walkPrefixes k n
    | .ok (_, .pfxSm a b c) =>
      if x.pre.sm.isSome then t
      else (t.setSlot k { x with pre := { x.pre with words := x.pre.words + 1, sm := some (a, b, c) } }).walkPrefixes k n
    | _ => t

/-- What a running slot offers to a bundle: the control fields and the instruction of its SYNC word, once eligible. -/
def Tile.offer (t : Tile) (k : Slot) : Option (Ctl × Instr) :=
  if t.active k && decide (t.eligibleAt k ≤ t.cyc) && !(k == .a && t.fence.isSome) then
    match (t.walkPrefixes k 2).decodeAt k with
    | .ok (c, i) => if c.sync then some (c, i) else none
    | .error _ => none
  else none

/-- Whether the unit at a slot's PC has SQ in its F0. -/
def Tile.pushes (t : Tile) (k : Slot) : Bool :=
  let t := t.walkPrefixes k 2
  fld (t.fetch (t.slot k).wordPc) 24 6 == 49

/-- Slot A's word, if it is eligible in the cycle in progress: its fields, and the tile with its prefixes read. A word that
waits for a bundle counts only beside a member of slot C. -/
def Tile.nextA (t : Tile) : Option (Tile × Ctl × Instr) :=
  if t.active .a && decide (t.eligibleAt .a ≤ t.cyc) && t.fence.isNone then
    let u := t.walkPrefixes .a 2
    match u.decodeAt .a with
    | .ok (c, i) => if u.guards .a c && (!c.sync || (t.offer .c).isSome) then some (u, c, i) else none
    | .error _ => none
  else none

/-- An entry translated at once, where its address has a translation, with the leaf that a walk found for it. -/
def State.transNow (s : State) (n : Nat) (e : QEnt) : Option (QEnt × Option TlbE) :=
  let t := s.tile n
  let asid := s.asidOf t
  let v := e.va.toNat
  let use (x : TlbE) (walked : Option TlbE) : Option (QEnt × Option TlbE) := match permit e.kind.use x v with
    | .inl pa => some ({ e with tr := .ok pa }, walked)
    | .inr _ => none
  if fld e.va 56 8 ≠ 0 then none
  else match tlbFind t.tlb asid v with
    | some x => use x none
    | none => match s.walk asid v with
      | .leaf x => use x (some x)
      | .fault _ _ => none

/-- What slot A's word of the cycle in progress places that C's word could fill in the same cycle (log 42): its entries,
translated in that cycle, where the machine so chooses. -/
def State.lookAhead (s : State) (n : Nat) : State :=
  let t := s.tile n
  let s := s.setTile n { t with ahead := [] }
  if !(t.active .c && t.pushes .c) then s
  else match t.nextA with
    | none => s
    | some (u, c, i) =>
      match exec i ((s.setTile n u).setCur n .a c true false false) with
      | .next r =>
        let l := ((r.tile n).ents.filter fun e => decide (t.ids ≤ e.id) && decide (0 < e.need)).filterMap (r.transNow n)
        let (later, s) := s.freeBool
        if later then s else s.modTile n fun t => { t with ahead := l }
      | .fault _ | .refused _ => s

/-- An entry just placed that is translated in the cycle in progress; where the first-level TLB holds no leaf for it, that is a
miss, and the leaf walked for it is held, if it still stands, once its page has been handed over (10 R196, R208; 18 R342; 21
R400). -/
def State.settleEnt (s : State) (n : Nat) (e : QEnt × Option TlbE) : State :=
  let t := s.tile n
  let asid := s.asidOf t
  let va := e.1.va.toNat
  if (t.ent e.1.id).isNone then s
  else
    let s := match e.2 with
      | some x =>
        if (tlbFind t.tlb asid va).isSome then s
        else
          let s := s.modTile n fun t => t.count 7 0 1
          if decide (s.walk asid va = WalkEnd.leaf x) then (s.handOver x).modTile n fun t => { t with tlb := tlbHold t.tlb 192 x } else s
      | none => s
    s.modTile n fun t => t.setTrans e.1.id e.1.tr

/-- Entries just placed that are translated in the cycle in progress. -/
def State.settleAhead (s : State) (n : Nat) : State :=
  (s.tile n).ahead.foldl (fun s e => s.settleEnt n e) (s.modTile n fun t => { t with ahead := [] })

/-- Whether a member's word has no other stall condition (03 R53, R54), and the state in which the next member is asked: the
word has then issued, so that two members do not both count on one token, place or semaphore. An annulled word has no
such condition of its own (03 R42), and a FENCE that has not retired holds slot A's word (11 R225). -/
def State.memberReady (s : State) (n : Nat) (k : Slot) (c : Ctl) (i : Instr) : Bool × State :=
  let t := (s.tile n).walkPrefixes k 2
  if k = .a ∧ t.fence.isSome then (false, s)
  else if !t.guards k c then (true, s)
  else
    let s := s.setTile n t
    match exec i (s.setCur n k c true false true), exec i (s.setCur n k c true false false) with
    | .next r, .next s' => (r.cur.ready, s')
    | _, _ => (false, s)

/-- Whether every member may issue, asked in slot order. -/
def State.membersReady (s : State) (n : Nat) : List (Slot × Ctl × Instr) → Bool
  | [] => true
  | (k, c, i) :: r =>
    let (ok, s') := s.memberReady n k c i
    ok && s'.membersReady n r

/-- Whether the word that slot k has just tried, from t to u, raised its trap. -/
def Tile.trapped (u t : Tile) (k : Slot) : Bool :=
  u.trapT != t.trapT || ((t.slot k).stub && (u.slot k).drained == some 2) || u.killed != t.killed

/-- Whether a member's word, no stall holding it, raises a trap instead of issuing (03 R51, R59). -/
def State.memberTraps (s : State) (n : Nat) (k : Slot) (c : Ctl) (i : Instr) : Bool :=
  let t := (s.tile n).walkPrefixes k 2
  t.guards k c && match exec i ((s.setTile n t).setCur n k c true false false) with
    | .next r => (r.tile n).trapped t k
    | .fault _ | .refused _ => false

/-- A copy fault waits for slot C's next word (11 R239). -/
def Tile.chainTrap (t : Tile) (k : Slot) : Option ChainStop :=
  if k = .c ∧ !t.inh ∧ t.drn.isNone then t.chain.stop.filter fun f => !f.taken else none

/-- Whether an error met by a word of slot k takes effect in the cycle in progress: at once for a word in flight, and with its
attempt for the next word. One that a kill, or the slot's end, leaves without a word is recorded at once (19 R357). -/
def Tile.flawMet (t : Tile) (k : Slot) (f : Flaw) : Bool :=
  f.site.slot == Slot.num k && (t.killed || (t.hold.isNone &&
    (f.word.isSome || !t.goesOn k || (t.active k && decide (t.eligibleAt k ≤ t.cyc)))))

/-- The first error that a word of slot k meets in the cycle in progress. -/
def Tile.flawed (t : Tile) (k : Slot) : Option Flaw := t.flaws.find? (t.flawMet k)

/-- Whether slot k takes a trap in the cycle in progress before its word is tried: a copy fault, an error of hardware, or WDOG. -/
def Tile.struck (t : Tile) (k : Slot) : Bool :=
  (t.chainTrap k).isSome || (t.flawed k).isSome || t.wdog == some k

/-- The members that may issue (03 R54): a member that traps issues no SYNC word, so that no other member's then issues
either, and the trap is taken. -/
def State.mayIssue (s : State) (n : Nat) (offers : List (Slot × Ctl × Instr)) : List Slot :=
  let traps := offers.filter fun (k, c, i) => s.memberTraps n k c i
  if offers.any (fun o => (s.tile n).struck o.1) || !s.membersReady n offers then []
  else (if traps.isEmpty then offers else traps).map (·.1)

/-- Whether a slot is a running one (03 R54): it has not issued TASKEND and no debugger holds it, whether it runs, stands as a trap
left it, or is stopped by a drain. -/
def Tile.inBundle (t : Tile) (k : Slot) : Bool :=
  (t.slot k).running || t.drn.any fun d => !d.ended.contains k

/-- The running slots of a tile. -/
def Tile.runners (t : Tile) : List Slot := allSlots.filter t.inBundle

/-- Whether slot C runs the handler after its task's TASKEND. DEDUCED (log 55): no running slot waits for its SYNC words, but they wait
for every running slot's (03 R54). -/
def Tile.guest (t : Tile) (k : Slot) : Bool := t.goesOn k && !t.inBundle k

/-- Whether a SYNC word of a slot issues as a plain one, in a tile whose bundle is free. -/
def Tile.alone (t : Tile) (k : Slot) : Bool := t.bundle == .free && (!t.guest k || t.runners.isEmpty)

/-- What a bundle of certain slots does in the cycle in progress. -/
def State.bundleFor (s : State) (n : Nat) (run : List Slot) : Bundle :=
  let t := s.tile n
  if run.length ≤ 1 then .free
  else if !(run.any fun k => (t.offer k).isSome) then .gather
  else
    let offers := run.filterMap fun k => (t.offer k).map fun o => (k, o)
    match offers with
    | (k, c, _) :: _ =>
      if offers.length < run.length then .gather
      else if offers.any fun o => o.2.1.idle != c.idle then .bad k
      else .act (s.mayIssue n offers)
    | [] => .gather

/-- What the tile's bundle does in the cycle in progress: that of the running slots, with a SYNC word of C's handler where it can
issue with theirs. -/
def State.bundleOf (s : State) (n : Nat) : Bundle :=
  let t := s.tile n
  let own := s.bundleFor n t.runners
  if t.guest .c then
    match s.bundleFor n (.c :: t.runners) with
    | .act l => if l.contains .c then .act l else own
    | .bad k => .bad k
    | _ => own
  else own

/-! ### One slot in one cycle -/

def State.bump (s : State) (n : Nat) : State := s.modTile n fun t => { t with phase := t.phase + 1 }

/-- An annulled word (03 R42): it issues without effect. What it queued for before its guards changed is withdrawn; an arrival
stands. -/
def Tile.annul (t : Tile) (k : Slot) : Tile := (((t.withdraw k).advance k .seq).count 2 (Slot.num k) 1).count 3 (Slot.num k) 1

/-- SYNCB, written as the lowest member of a bundle issues (20 R379). -/
def State.syncEvent (s : State) (n : Nat) (k : Slot) (pc : Nat) (members : List Slot) : State :=
  if (s.tile n).trapT = some (s.tile n).cyc ∨ members.head? ≠ some k then s
  else s.modTile n fun t => t.event (Slot.num k) 0x03 pc (members.foldl (fun m k => m + 2 ^ Slot.num k) 0)

/-- The attempt to issue the word of slot k, whose prefixes have been read. A word whose bundle is incomplete makes its own
checks (03 R51) and waits; once every member is eligible, members of differing IDLE raise ILL in the lowest one. -/
def State.issueWord (s : State) (n : Nat) (k : Slot) : Out3 :=
  let t := s.tile n
  let x := t.slot k
  let pc := x.pc.toNat
  match t.decodeAt k with
  | .error (cause, detail, atPrefix) => .next (s.takeTrap n k cause detail none (if atPrefix then x.wordPc else pc))
  | .ok (c, i) =>
    let run := t.runners
    let wait (s : State) : Out3 := .next (s.modTile n fun t => t.stallOn k .bundle)
    let go (may gather : Bool) : Out3 :=
      if t.guards k c then exec i (s.setCur n k c may gather false)
      else if may then .next (s.setTile n (t.annul k)) else wait s
    if !c.sync then go true false
    else match t.bundle with
      | .free => if t.alone k then go true false else go false true
      | .gather => go false true
      | .bad j =>
        match go false true with
        | .next r =>
          if j = k && !(r.tile n).trapped t k then .next (s.takeTrap n k .ill 4 none pc) else .next r
        | r => r
      | .act members =>
        if members.contains k then
          match go true false with
          | .next r =>
            if members = run ∨ members = .c :: run then .next (r.syncEvent n k x.wordPc members)
            else if (r.tile n).trapped t k then .next r
            else go false false
          | r => r
        else go false false

/-- The DETAIL of WDOG for a wait (13 R296). -/
def waitCode : Wait → Nat
  | .token => 1
  | .queue => 2
  | .bundle => 3
  | .barrier => 4
  | .mutex => 5
  | .semaphore => 6
  | .event => 7
  | .busy => 8
  | .answer => 9
  | .completion => 10

/-- An error of hardware met by a word of a slot (04 R93, 19 R353, R360). TRAPV of the next word is zero for a checker's and the
address for a word that could not be corrected. Beside the trap of another slot in the same cycle, on a tile that has been
killed, and in a slot that has no further word it is recorded alone (03 R59, 19 R357). -/
def State.meetFlaw (s : State) (n : Nat) (k : Slot) (f : Flaw) : State :=
  let t := s.tile n
  let e := f.site
  let (pc, v) := f.word.getD ((t.slot k).pc.toNat, if e.cls = 0 then 0 else w64 e.addr)
  let s := s.setTile n { t with flaws := t.flaws.erase f }
  if t.trapT = some t.cyc ∨ t.killed ∨ (f.word.isNone ∧ !t.goesOn k) then
    { s with errs := s.errs ++ [{ site := { e with unit := n, addr := v.toNat }, act := some f.act }] }
  else s.pipeTrap n k e.cls e.source e.detail v pc f.act

/-- Slot k in the cycle in progress: nothing before its unit is eligible; a prefix is read and the slot looked at again;
otherwise its word is tried. The word after a FENCE waits in slot A for its retirement (11 R225). -/
def State.slotStep (s : State) (n : Nat) (k : Slot) : Out3 :=
  let t := s.tile n
  let x := t.slot k
  if t.chainTrap k ≠ none ∧ (t.sc.running = false ∨ t.eligibleAt .c ≤ t.cyc) ∧ !t.killed ∧ t.hold.isNone then
    match t.chain.stop with
    | some f =>
      let r := pageTrap 2 f.kind f.va
      let s := s.setTile n { t with chain := { t.chain with stop := some { f with taken := true } } }
      .next ((s.takeTrap n .c r.cause r.detail r.v x.pc.toNat).bump n)
    | none => .next (s.bump n)
  else if (t.flawed k).isSome then
    match t.flawed k with
    | some f => .next ((s.meetFlaw n k f).bump n)
    | none => .next (s.bump n)
  else if t.wdog = some k ∧ t.active k then
    let s := s.setTile n { t with wdog := none }
    match x.stall with
    | some (w, _) => .next ((s.takeTrap n k .wdog (waitCode w) none x.pc.toNat).bump n)
    | none => .next (s.bump n)
  else if !t.active k || decide (t.cyc < t.eligibleAt k) then .next (s.bump n)
  else if k = .a ∧ t.fence.isSome then .next ((s.modTile n fun t => t.stallOn k .completion).bump n)
  else
    match s.issueWord n k with
    | .next s' =>
      let s' := if k = .a then s'.settleAhead n else s'
      if ((s'.tile n).slot k).pre.words = x.pre.words + 1 then .next s' else .next (s'.bump n)
    | r => r

/-- Whether SLEW shapes the power of the engines: a FLOOR below 100 or a LIMIT (21 R402, R403). -/
def State.shapes (s : State) : Bool := fld s.slew 16 7 != 100 || fld s.slew 0 16 != 0

/-- The cycle's answer to whether the tile's engine commands are held back: its duty exceeds the allowance, or the starts of
its engine within the last microsecond use up the package's limit, or a free choice holds it back for the starts of other
tiles, whose clocks it does not share (21 R403, 01 R13, log 33). -/
def State.shape (s : State) (n : Nat) : State :=
  if s.shapes then
    let t := s.tile n
    let limit := fld s.slew 0 16
    let duty := t.shaper.overDuty (s.ramp) (fld s.slew 16 7) t.cyc
    let (b, s) := s.freeBool
    let slew := decide (limit ≠ 0) && !t.eng.busy && decide (t.shaper.idle < t.cyc ∨ t.shaper.burst = none) &&
      (decide (limit / 14 ≤ t.shaper.recent s.cyclesPerUs t.cyc) || b)
    s.modTile n fun t => { t with shaped := duty || slew }
  else s.modTile n fun t => { t with shaped := false }

/-- The beginning of a tile's cycle, with the recording of the one before. -/
def State.beginTile (s : State) (n : Nat) : State :=
  let past := (s.tile n).cyc - 1
  let s := ((s.settleColl n).modTile n fun t => t.fireAll past).flushEvents n past
  let s := (s.modTile n Tile.capture).modTile n Tile.beginCycle
  let s := s.shape n
  let (old, s) := pickOld s (s.tile n).istOld
  let s := (s.modTile n fun t => { t with oldNow := old }).lookAhead n
  let b := s.bundleOf n
  s.modTile n fun t => { t with bundle := b, phase := 1 }

/-- One part of a tile's cycle; the tile stays at the head of the agenda until its cycle ends. -/
def State.tileStep (s : State) (n : Nat) (rest : List Move) : Out3 :=
  match (s.tile n).phase with
  | 0 => .next (s.beginTile n)
  | 1 => s.slotStep n .c
  | 2 => s.slotStep n .a
  | 3 => s.slotStep n .v
  | 4 => s.slotStep n .m
  | _ => .next { s.endTile n with agenda := rest }

/-- The next move of the package: the agenda's first, or one chosen freely (10 R186). A word of a slot is no event. -/
def State.nextStep (s : State) : Out3 :=
  match s.agenda with
  | [] => .next { s with agenda := [Config.nextMove s.free], free := s.free + 1 }
  | .tile n :: r => if n < 256 then s.tileStep n r else .next { s with agenda := r }
  | .event i :: r => if i.isMove then exec i { s with agenda := r } else .next { s with agenda := r }

end Sys2Proof.Machine
end

