-- ==== Sys2Proof/Machine/Step.lean ====
section
/-! DEFINITION. One step of the package, and the placing of an instruction where the next step issues it. -/

namespace Sys2Proof.Machine

/-- A move, followed by the actions for the errors detected (19 R357). -/
def step (s : State) : Host.Outcome State Fault Refusal :=
  match s.nextStep with
  | .next t => .next t.settleStep
  | .fault r => .fault r
  | .refused r => .refused r

/-- The instruction whose bits are w stored at the PC of the slot that stands for its opcode, in tile 0 (log 45): that slot
is running, its word is eligible in the cycle in progress, and the tile is about to look at that slot. -/
def State.withFetchWord (s : State) (nbits w : Nat) : State :=
  let word : W64 := BitVec.ofNat 64 (w % 2 ^ nbits)
  s.placeWord (homeSlot (word.extractLsb' 30 10)) word

end Sys2Proof.Machine
end

