-- ==== Sys2Proof/Claim.lean ====
section
/-! DEFINITION. The words in which the statements for the provers are said: what lets a word issue, and the state in which a
word leaves the package. -/

namespace Sys2Proof.Claim

open Sys2Proof.Machine

/-! ### What a word needs, and what it leaves -/

/-- The tile of the word in hand, its slot, and the cycle in progress. -/
def tl (s : State) : Tile := s.tile s.cur.tile
def slot (s : State) : Slot := s.cur.slot
def now (s : State) : Nat := (tl s).cyc

/-- The first three values that a word has read. -/
abbrev a (v : List W64) : W64 := nth v 0
abbrev b (v : List W64) : W64 := nth v 1
abbrev c (v : List W64) : W64 := nth v 2

/-- The number of LQ fields among a word's sources. -/
def pops (srcs : List Src) : Nat := (srcs.filter fun x => x == .lq).length

/-- The operands of the word in hand can be read, and give the values v (03 R45, 05 R95). -/
def Reads (s : State) (srcs : List Src) (v : List W64) : Prop :=
  ∃ q, (tl s).lqPeek (pops srcs) (tl s).lq = .ok q ∧ (tl s).readSrcs s.cur srcs q = v

/-- The word in hand issues in this attempt as far as its operands go: it is the attempt itself and no probe, no bundle
holds it, its sources read as v, LATCHECK finds nothing, its token action is possible, and SQ takes its value. -/
def Ready (s : State) (srcs : List Src) (grds : List (Fin 8)) (sq : Bool) (outs : List (Out × Nat)) (v : List W64) : Prop :=
  s.cur.probe = false ∧ s.cur.mayGo = true ∧ s.cur.gather = false ∧ Reads s srcs v ∧
  (bitAt (tl s).tcfg 0 = true → (tl s).lateCode (slot s) srcs (grds ++ ctlGuards s.cur.ctl) outs = none) ∧
  (tl s).tokenOk (slot s) s.cur.ctl.tok = true ∧ (sq = true → (tl s).sqCheck = .ok [])

/-- The state in which a word that issues leaves the package: its token action taken, its LQ entries popped, its effect
made on its tile, its slot gone on, the word counted; retire is the retirement cycle where it is known at issue. Nothing
outside the tile changes. -/
def done (s : State) (srcs : List Src) (retire : Option Nat) (act : Tile → Tile) (flow : Flow := .seq) : State :=
  let t := (tl s).takeToken (slot s) s.cur.ctl.tok retire
  s.setTile s.cur.tile
    (((act (t.popLq (pops srcs))).advance (slot s) flow).count 2 (Slot.num (slot s)) 1)

/-- A word that writes one value to a destination at issue + lat. -/
def Gives (s : State) (i : Instr) (d : Dst) (lat : Nat) (srcs : List Src) (f : List W64 → W64) : Prop :=
  ∀ v, Ready s srcs [] (d == .sq) (dstOut d lat) v →
    exec i s = .next (done s srcs (some (now s + lat)) fun u => u.putDst (slot s) d lat (f v))

/-- A word that writes one guard at issue + 1. -/
def Sets (s : State) (i : Instr) (d : Fin 8) (srcs : List Src) (grds : List (Fin 8)) (f : List W64 → Bool) : Prop :=
  ∀ v, Ready s srcs grds false [(.g d, 1)] v →
    exec i s = .next (done s srcs (some (now s + 1)) fun u => u.schedG (slot s) d (u.cyc + 1) (f v))

/-- A word of one effect on its tile that retires at a known cycle. -/
def Does (s : State) (i : Instr) (srcs : List Src) (outs : List (Out × Nat)) (retire : Nat) (ok : List W64 → Prop)
    (act : List W64 → Tile → Tile) : Prop :=
  ∀ v, Ready s srcs [] false outs v → ok v → exec i s = .next (done s srcs (some retire) (act v))

/-- A word of one effect on its tile, whenever it may retire. -/
def Acts (s : State) (i : Instr) (srcs : List Src) (outs : List (Out × Nat)) (ok : List W64 → Prop)
    (act : List W64 → Tile → Tile) : Prop :=
  ∀ v, Ready s srcs [] false outs v → ok v → ∃ retire, exec i s = .next (done s srcs (some retire) (act v))

/-- A word that enters the trap handler in its slot: the state in which it leaves the package but for its own tile is s. -/
def Traps (s : State) (i : Instr) (srcs : List Src) (ok : List W64 → Prop) (t' : List W64 → Tile) : Prop :=
  ∀ v, Ready s srcs [] false [] v → ok v → ∃ r, exec i s = .next r ∧ r.tile s.cur.tile = t' v ∧
    (∀ n, n ≠ s.cur.tile → r.tile n = s.tile n) ∧ { r with tiles := s.tiles } = s

/-- A trap of the word in hand may be entered: none has been in this cycle, the handler does not run, and the slot runs no
drain stub (03 R59, 05 R116, 13 R288). -/
def MayTrap (s : State) : Prop :=
  (tl s).trapT ≠ some (now s) ∧ (tl s).inh = false ∧ ((tl s).slot (slot s)).stub = false

/-- A word that raises ILL with DETAIL 4 in its slot, with no other effect; TRAPV is free (05 R114, log 3). -/
def Ills (s : State) (i : Instr) (srcs : List Src) (ok : List W64 → Prop) : Prop :=
  MayTrap s → ∀ v, Ready s srcs [] false [] v → ok v → ∃ r, exec i s = .next r ∧
    r.tile s.cur.tile = (tl s).enterTrap (slot s) .ill 4 (Config.freeWord s.free) (((tl s).slot (slot s)).pc.toNat) ∧
    (∀ n, n ≠ s.cur.tile → r.tile n = s.tile n) ∧ { r with tiles := s.tiles, free := s.free } = s

/-- A word that stalls, and for what; it has no other effect (03 R53). -/
def Stalls (s : State) (i : Instr) (srcs : List Src) (outs : List (Out × Nat)) (w : Wait) (ok : List W64 → Prop) : Prop :=
  ∀ v, Ready s srcs [] false outs v → ok v → exec i s = .next (s.setTile s.cur.tile ((tl s).stallOn (slot s) w))

/-- The address of the word in hand, after its prefixes, and of its unit. -/
def wordAt (s : State) : Nat := ((tl s).slot (slot s)).wordPc
def unitAt (s : State) : Nat := ((tl s).slot (slot s)).pc.toNat

/-- A branch target that may be taken: a multiple of 8, and outside the resident area but in handler mode. -/
def MayGoTo (s : State) (target : Nat) : Prop :=
  target % 8 = 0 ∧ (0x8000 ≤ target ∨ (tl s).inHandler (slot s) = true)

/-- A taken branch to a target, with its BRANCH event. -/
def branches (s : State) (srcs : List Src) (kind target : Nat) (pops : Bool) : State :=
  done s srcs (some (now s)) (fun u => u.event (Slot.num (slot s)) 0x00 target (wordAt s + kind * 2 ^ 18)) (.jump target pops)

/-! ### Words of V and M -/

/-- A region word that its checks pass starts: its specification says what it works on, and what it may not do (05 R102 to R105,
03 R57). The pipeline must be free where the word names an element. -/
def Starts (s : State) (i : Instr) (srcs : List Src) (w : List W64 → VSpec) : Prop :=
  ∀ v, Ready s srcs [] false (w v).outs v → (w v).bad = false → (w v).lacking s = false →
    checkRegions (w v).regs (if (w v).n = 0 then [] else (w v).tabs) = none → (w v).more = none →
    (bitAt (tl s).tcfg 1 && (w v).early (tl s)) = false → ((w v).n = 0 ∨ (tl s).vFree ≤ now s) →
    exec i s = .next (done s srcs (some ((w v).ends (now s))) fun u => u.startJob ((w v).job u))

/-- An engine command that finds the engine free and is not held back by power shaping, and that meets none of its checks,
begins: it holds the engine until its retirement (06 R141, 21 R403), and its effect is made. -/
def Begins (s : State) (i : Instr) (srcs : List Src) (kind : EngKind) (check : List W64 → Option TrapReq)
    (retire : List W64 → Nat) (act : List W64 → Tile → Tile) : Prop :=
  ∀ v, Ready s srcs [] false [] v → (tl s).eng.busy = false → (tl s).shaped = false → check v = none →
    exec i s = .next (done s srcs none fun u => act v (u.beginCmd kind (retire v)))

/-! ### Words of A -/

/-- A word that places one entry in the queues of slot A, where they have room: what the entry is, its effective address, and the
data it takes from SQ (11 R220, R223). -/
def Places (s : State) (i : Instr) (srcs : List Src) (ok : List W64 → Prop) (kind : QKind) (ea : List W64 → W64) (mf : MemF)
    (need : Nat) (inL inS ret : Bool) : Prop :=
  (tl s).hasRoom inL inS ret = true → Does s i srcs [] (now s) ok fun v u => u.enq kind (ea v) mf need inL inS ret

/-- The effective address of a load or a store, and of a far atomic (11 R223, R226). -/
def ea (o : LdSt) (v : List W64) : W64 := a v + (b v <<< o.sh.val)
def eaAtom (v : List W64) : W64 := a v + b v

/-! ### Frames -/

/-- What no word changes by issuing, but for those whose rule says so: every register, guard and mode bit of every slot,
the memories of the tile, its system registers, its engine, and its synchronisation objects. -/
structure Kept (t t' : Tile) : Prop where
  regs : ∀ k, (t'.slot k).s = (t.slot k).s
  grds : ∀ k, (t'.slot k).g = (t.slot k).g
  runs : ∀ k, (t'.slot k).running = (t.slot k).running
  xs : t'.x = t.x
  bank : t'.hs = t.hs ∧ t'.hg = t.hg
  store : t'.istore = t.istore
  spad : t'.spad = t.spad
  fmts : t'.bfmt = t.bfmt ∧ t'.bscl = t.bscl
  trap : t'.inh = t.inh ∧ t'.trapc = t.trapc ∧ t'.trappc = t.trappc ∧ t'.trapv = t.trapv
  sysr : t'.tcfg = t.tcfg ∧ t'.flags = t.flags ∧ t'.srseed = t.srseed ∧ t'.sevm = t.sevm ∧ t'.drnTab = t.drnTab
  cnts : t'.cntsel = t.cntsel ∧ t'.cnt = t.cnt
  bind : t'.task = t.task ∧ t'.owner = t.owner
  eng : t'.eng = t.eng
  sync : t'.bars = t.bars ∧ t'.muts = t.muts ∧ t'.sems = t.sems ∧ t'.ctrs = t.ctrs ∧ t'.bcbs = t.bcbs ∧ t'.coll = t.coll
  chain : t'.chain = t.chain

/-- Only the tile of the word in hand has changed, and of it nothing that Kept names. -/
def Frame (s r : State) : Prop :=
  Kept (tl s) (r.tile s.cur.tile) ∧ (∀ n, n ≠ s.cur.tile → r.tile n = s.tile n) ∧ { r with tiles := s.tiles } = s

end Sys2Proof.Claim
end

