-- ==== Sys2Proof/Safety.lean ====
section
/-! DEFINITION. What a safe run is: one whose steps all give a next state. -/

namespace Sys2Proof

/-- A run of k steps from a state that meets neither a fault nor a refusal. -/
def safeFor (k : Nat) (s : Machine.State) : Prop := ∃ t, Host.Core.run core k s = .next t

end Sys2Proof
end

