-- ==== Sys2Proof/Certificates/Slice0/Obligations.lean ====
section
/-! DEFINITION. The statements for the provers: what the spec's rules say of words, moves and events, in terms of exec and
step. -/

open Sys2Proof Sys2Proof.Machine Sys2Proof.Claim

/-! ### Scalar words (05 R95 to R99) -/

/-- 05 R97: the results of ADD to MAXS, at issue + 1, 3 or 20; division by zero gives all ones or the dividend. That a word to s0
retires at issue + L too is the model's choice in log 66. -/
def Obligations.ScalarArithmeticResults : Prop :=
  ∀ (s : State) (d : Dst) (x y : Src),
    Gives s (.add d x y) d 1 [x, y] (fun v => a v + b v) ∧
    Gives s (.sub d x y) d 1 [x, y] (fun v => a v - b v) ∧
    Gives s (.mul d x y) d 3 [x, y] (fun v => a v * b v) ∧
    Gives s (.mulh d x y) d 3 [x, y] (fun v => w64 ((a v).toNat * (b v).toNat / 2 ^ 64)) ∧
    Gives s (.mulhs d x y) d 3 [x, y] (fun v => w64i ((a v).toInt * (b v).toInt / 2 ^ 64)) ∧
    Gives s (.div d x y) d 20 [x, y] (fun v => if b v = 0 then BitVec.allOnes 64 else (a v).udiv (b v)) ∧
    Gives s (.divs d x y) d 20 [x, y] (fun v => if b v = 0 then BitVec.allOnes 64 else (a v).sdiv (b v)) ∧
    Gives s (.rem d x y) d 20 [x, y] (fun v => if b v = 0 then a v else (a v).umod (b v)) ∧
    Gives s (.rems d x y) d 20 [x, y] (fun v => if b v = 0 then a v else (a v).srem (b v)) ∧
    Gives s (.min d x y) d 1 [x, y] (fun v => if (a v).ult (b v) then a v else b v) ∧
    Gives s (.mins d x y) d 1 [x, y] (fun v => if (a v).slt (b v) then a v else b v) ∧
    Gives s (.max d x y) d 1 [x, y] (fun v => if (a v).ult (b v) then b v else a v) ∧
    Gives s (.maxs d x y) d 1 [x, y] (fun v => if (a v).slt (b v) then b v else a v)

/-- 05 R97, R98, R117: SEL picks by a guard, MOVK and MOVKH build constants, XMOV copies and alone writes exchange registers,
RGN builds a descriptor without a check, MFSR reads a system register at issue and writes it at issue + 2. That a word to s0
retires at issue + L too is the model's choice in log 66. -/
def Obligations.ScalarMoveResults : Prop :=
  ∀ (s : State) (d : Dst) (x y z : Src),
    (∀ (g : Fin 8) v, Ready s [x, y] [g] (d == .sq) (dstOut d 1) v →
      exec (.sel d g x y) s = .next (done s [x, y] (some (now s + 1)) fun u =>
        u.putDst (slot s) d 1 (if (tl s).readG (slot s) g then a v else b v))) ∧
    (∀ imm, Gives s (.movk d imm) d 1 [] fun _ => BitVec.ofInt 64 imm.toInt) ∧
    (∀ (n : Fin 32) imm, Gives s (.movkh n imm) (.s n) 1 [.s n] fun v =>
      w64 (imm.toNat * 2 ^ 44 + (a v).toNat % 2 ^ 44)) ∧
    (∀ n : Fin 32, Gives s (.xmov (.s n) x) (.s n) 1 [x] a) ∧
    Gives s (.xmov .sq x) .sq 1 [x] a ∧
    (∀ n : Fin 8, Does s (.xmov (.x n) x) [x] [(.x n, 1)] (now s + 1) (fun _ => True) fun v u =>
      u.schedX (slot s) n (u.cyc + 1) (a v)) ∧
    (∀ fmt list, Gives s (.rgn d x y z fmt list) d 1 [x, y, z] fun v =>
      w64 ((a v).toNat % 2 ^ 22 + (b v).toNat % 2 ^ 16 * 2 ^ 24 + (c v).toNat % 2 ^ 16 * 2 ^ 40 + fmt.toNat * 2 ^ 56 +
        if list then 2 ^ 60 else 0)) ∧
    (∀ k w, fld w 30 10 = 0x011 → bitAt w 5 = true → ∀ r, decode k w ≠ .ok r) ∧
    (∀ num, Gives s (.mfsr d num) d 2 [] fun _ => s.readSys s.cur.tile (slot s) num.toNat)

/-- 05 R99: the results of the words of class 0x1 that write a register. That a word to s0 retires at issue + L too is the model's
choice in log 66. -/
def Obligations.ScalarLogicResults : Prop :=
  ∀ (s : State) (d : Dst) (x y : Src) (n : Fin 32) (pos len : BitVec 6),
    Gives s (.and d x y) d 1 [x, y] (fun v => a v &&& b v) ∧
    Gives s (.or d x y) d 1 [x, y] (fun v => a v ||| b v) ∧
    Gives s (.xor d x y) d 1 [x, y] (fun v => a v ^^^ b v) ∧
    Gives s (.andn d x y) d 1 [x, y] (fun v => a v &&& ~~~b v) ∧
    Gives s (.shl d x y) d 1 [x, y] (fun v => w64 ((a v).toNat * 2 ^ ((b v).toNat % 64))) ∧
    Gives s (.shr d x y) d 1 [x, y] (fun v => w64 ((a v).toNat / 2 ^ ((b v).toNat % 64))) ∧
    Gives s (.sra d x y) d 1 [x, y] (fun v => w64i ((a v).toInt / 2 ^ ((b v).toNat % 64))) ∧
    Gives s (.rot d x y) d 1 [x, y] (fun v => (a v).rotateLeft ((b v).toNat % 64)) ∧
    Gives s (.clz d x) d 1 [x] (fun v => w64 (if a v = 0 then 64 else 63 - (a v).toNat.log2)) ∧
    Gives s (.ctz d x) d 1 [x] (fun v => w64 (((List.range 64).find? fun i => (a v).getLsbD i).getD 64)) ∧
    Gives s (.popc d x) d 1 [x] (fun v => w64 ((List.range 64).countP fun i => (a v).getLsbD i)) ∧
    Gives s (.extr d x pos len) d 1 [x] (fun v => w64 ((a v).toNat / 2 ^ pos.toNat % 2 ^ (len.toNat + 1))) ∧
    Gives s (.ins n x pos len) (.s n) 1 [.s n, x] (fun v => setFld (a v) pos.toNat (len.toNat + 1) (b v).toNat) ∧
    Gives s (.clmul d x y) d 3 [x, y] (fun v => w64 (clmulNat (a v) (b v))) ∧
    Gives s (.clmulh d x y) d 3 [x, y] (fun v => w64 (clmulNat (a v) (b v) / 2 ^ 64))

/-- 05 R99: the guard words, with unsigned and signed comparisons. That a word to g0 retires at issue + 1 too is the model's choice
in log 66. -/
def Obligations.GuardWordResults : Prop :=
  ∀ (s : State) (d g h : Fin 8) (x y : Src),
    Sets s (.gand d g h) d [] [g, h] (fun _ => (tl s).readG (slot s) g && (tl s).readG (slot s) h) ∧
    Sets s (.gor d g h) d [] [g, h] (fun _ => (tl s).readG (slot s) g || (tl s).readG (slot s) h) ∧
    Sets s (.gnot d g) d [] [g] (fun _ => !(tl s).readG (slot s) g) ∧
    Sets s (.cmpEq d x y) d [x, y] [] (fun v => decide (a v = b v)) ∧
    Sets s (.cmpNe d x y) d [x, y] [] (fun v => decide (a v ≠ b v)) ∧
    Sets s (.cmpLt d x y) d [x, y] [] (fun v => (a v).ult (b v)) ∧
    Sets s (.cmpLts d x y) d [x, y] [] (fun v => (a v).slt (b v)) ∧
    Sets s (.cmpLe d x y) d [x, y] [] (fun v => (a v).ule (b v)) ∧
    Sets s (.cmpLes d x y) d [x, y] [] (fun v => (a v).sle (b v))

/-- 05 R97 to R99, R117; 03 R56: a scalar word that issues changes no register, guard, flag, system register, memory byte or
other tile as it does so: its one result is scheduled for its destination alone, and nothing is for s0, g0. -/
def Obligations.ScalarWordFrame : Prop :=
  ∀ (s : State) (d : Dst) (lat : Nat) (x : W64) (g : Fin 8) (y : Bool) (n : Fin 8) (srcs : List Src) (ret : Nat),
    let r := done s srcs (some ret) fun u => u.putDst (slot s) d lat x
    let q := done s srcs (some ret) fun u => u.schedG (slot s) g (u.cyc + 1) y
    let p := done s srcs (some ret) fun u => u.schedX (slot s) n (u.cyc + 1) x
    Frame s r ∧ Frame s q ∧ Frame s p ∧
    (r.tile s.cur.tile).pend = (tl s).pend ++ (match d with
      | .s m => if m = 0 then [] else [⟨now s + lat, slot s, now s, unitAt s, .reg (slot s) m ((tl s).banked (slot s) m) x⟩]
      | .sq => [⟨now s + lat, slot s, now s, unitAt s, .sq x⟩]) ∧
    (q.tile s.cur.tile).pend = (tl s).pend ++ (if g = 0 then [] else
      [⟨now s + 1, slot s, now s, unitAt s, .grd (slot s) g ((tl s).gbanked (slot s) g) y⟩]) ∧
    (p.tile s.cur.tile).pend = (tl s).pend ++ [⟨now s + 1, slot s, now s, unitAt s, .xreg n x⟩]

/-- 03 R55: at the beginning of cycle c + L the write that a word of cycle c has scheduled is made, to its register and to
no other register, guard or memory byte; before that cycle it is not. s0 reads zero and g0 reads one whatever happens. -/
def Obligations.ScheduledWriteLands : Prop :=
  ∀ (t : Tile) (k j : Slot) (n m : Fin 32) (g : Fin 8) (x : W64) (at_ iss pc : Nat), t.inh = false → n ≠ 0 →
    t.pend = [⟨at_, k, iss, pc, .reg k n false x⟩] →
    let u := t.applyDue
    (t.cyc < at_ → ∀ i, u.readS j i = t.readS j i) ∧
    (at_ ≤ t.cyc → u.readS k n = x ∧ ((j, m) ≠ (k, n) → u.readS j m = t.readS j m) ∧ u.pend = []) ∧
    u.readG j g = t.readG j g ∧ u.spad = t.spad ∧ u.istore = t.istore ∧ u.x = t.x ∧ u.eng = t.eng ∧
    u.readS j 0 = 0 ∧ u.readG j 0 = true

/-! ### Where a slot goes next (03 R52; 05 R107, R109) -/

/-- 03 R52, 05 R107, R109: after a word the next one lies 8 bytes on and is counted from the next cycle, inside a loop's body too
unless the word is at the end of the innermost frame; after a taken branch it is the target, counted from the third; a word at the
end of several frames leaves each whose iterations are used up, the innermost first, and goes back to the start of the first that
has some left. A drain stub neither examines nor changes the frames (13 R288). That a LOOP at the end address of the innermost frame
opens its own frame, and leaves that one as it is, is the model's reading in log 55. -/
def Obligations.NextWordOfASlot : Prop :=
  ∀ (t : Tile) (k : Slot) (target stop n : Nat) (f : Loop) (ended rest : List Loop), t.inHandler k = false →
    let x := t.slot k
    let pc := x.wordPc
    let u := (t.advance k .seq).slot k
    let usedUp := ∀ g ∈ ended, g.stop = pc ∧ g.left ≤ 1
    (x.stub = true → u.pc = BitVec.ofNat 18 (pc + 8) ∧ u.base = t.cyc + 1 ∧ u.loops = x.loops) ∧
    (x.stub = false → x.loops = ended ++ rest → usedUp → (∀ g ∈ rest.head?, g.stop ≠ pc) →
      u.pc = BitVec.ofNat 18 (pc + 8) ∧ u.base = t.cyc + 1 ∧ u.loops = rest) ∧
    (x.stub = false → x.loops = ended ++ f :: rest → usedUp → f.stop = pc → 1 < f.left →
      u.pc = BitVec.ofNat 18 f.start ∧ u.base = t.cyc + 1 ∧ u.loops = ⟨f.start, f.stop, f.left - 1⟩ :: rest) ∧
    (((t.advance k (.jump target true)).slot k).pc = BitVec.ofNat 18 target ∧
      ((t.advance k (.jump target true)).slot k).base = t.cyc + 3 ∧
      ((t.advance k (.jump target true)).slot k).loops =
        if x.stub then x.loops else x.loops.filter fun f => f.start ≤ target ∧ target ≤ f.stop) ∧
    ((t.advance k (.jump target false)).slot k).loops = x.loops ∧
    (((t.advance k (.open_ stop n)).slot k).loops = ⟨pc + 8, stop, n⟩ :: x.loops ∧
      ((t.advance k (.open_ stop n)).slot k).pc = BitVec.ofNat 18 (pc + 8))

/-- 05 R106, R107: NOP only goes on; BR and CALL branch by their displacement, BRI and RET to a register's low 18 bits; CALL writes
the link at issue + 1 and leaves no loop. That a CALL to s0 retires at issue + 1 too is the model's choice in log 66. -/
def Obligations.BranchWordsTaken : Prop :=
  ∀ (s : State) (d : Fin 32) (disp : BitVec 24) (x : Src),
    let rel := ((wordAt s : Int) + 8 * disp.toInt) % 2 ^ 18
    Does s .nop [] [] (now s) (fun _ => True) (fun _ u => u) ∧
    (MayGoTo s rel.toNat → Ready s [] [] false [] [] →
      exec (.br disp) s = .next (branches s [] 0 rel.toNat true)) ∧
    (∀ v, Ready s [x] [] false [] v → MayGoTo s ((a v).toNat % 2 ^ 18) →
      exec (.bri x) s = .next (branches s [x] 1 ((a v).toNat % 2 ^ 18) true) ∧
      exec (.ret x) s = .next (branches s [x] 3 ((a v).toNat % 2 ^ 18) true)) ∧
    (MayGoTo s rel.toNat → Ready s [] [] false [(.s d, 1)] [] →
      exec (.call d disp) s = .next (done s [] (some (now s + 1)) (fun u =>
        (u.event (Slot.num (slot s)) 0x00 rel.toNat (wordAt s + 2 * 2 ^ 18)).schedS (slot s) d (u.cyc + 1)
          (w64 (wordAt s + 8))) (.jump rel.toNat false)))

/-- 05 R107: a BRI or RET to an address in a register that is no multiple of 8 raises ALIGN with the address in TRAPV; a BR, BRI,
CALL or RET into the resident area outside handler mode raises ILL. That a target of both kinds raises ALIGN is the model's
choice in log 66. -/
def Obligations.BranchWordsTrap : Prop :=
  ∀ (s : State) (d : Fin 32) (disp : BitVec 24) (x : Src), MayTrap s →
    let rel := (((wordAt s : Int) + 8 * disp.toInt) % 2 ^ 18).toNat
    let enter (c : Cause) (detail target : Nat) : Tile := (tl s).enterTrap (slot s) c detail (w64 target) (unitAt s)
    let reg (i : Instr) : Prop :=
      Traps s i [x] (fun v => (a v).toNat % 8 ≠ 0) (fun v => enter .align 0 ((a v).toNat % 2 ^ 18)) ∧
      Traps s i [x] (fun v => (a v).toNat % 8 = 0 ∧ (a v).toNat % 2 ^ 18 < 0x8000) (fun v => enter .ill 4 ((a v).toNat % 2 ^ 18))
    reg (.bri x) ∧ reg (.ret x) ∧
    (rel % 8 = 0 → rel < 0x8000 → Traps s (.br disp) [] (fun _ => True) (fun _ => enter .ill 4 rel) ∧
      Traps s (.call d disp) [] (fun _ => True) (fun _ => enter .ill 4 rel))

/-- 05 R109, R110; 03 R47 to R50: LOOP opens a frame, or goes past its body where the count is zero; TASKEND ends the slot at
the end of the cycle, in handler mode too, where the handler is marked as ended; the prefixes are read without issue. -/
def Obligations.LoopTaskendAndPrefixes : Prop :=
  ∀ (s : State) (x : Src) (endw : BitVec 18) (kk : BitVec 44) (m1 m2 m3 : SMod),
    let t := tl s
    let sl := t.slot (slot s)
    let stop := wordAt s + 8 * endw.toNat
    (∀ v, Ready s [x] [] false [] v → t.inHandler (slot s) = false → sl.stub = false → stop < 0x40000 →
      fld (t.iword stop) 30 10 ≠ 0x0BE → fld (t.iword stop) 30 10 ≠ 0x0BF →
      ((a v).toNat % 2 ^ 32 = 0 →
        exec (.loop x endw) s = .next (done s [x] (some (now s)) id (.jump (stop + 8) false))) ∧
      ((a v).toNat % 2 ^ 32 ≠ 0 → sl.loops.length < 4 →
        exec (.loop x endw) s = .next (done s [x] (some (now s)) id (.open_ stop ((a v).toNat % 2 ^ 32))))) ∧
    (Ready s [] [] false [] [] → t.inHandler (slot s) = false →
      exec .taskend s = .next (done s [] (some (now s)) (fun u =>
        (u.modSlot (slot s) fun z => { z with stall := none, joined := false, pre := .none }).atEnd (.ended (slot s))) .stay)) ∧
    (Ready s [] [] false [] [] → t.inHandler (slot s) = true →
      exec .taskend s = .next (done s [] (some (now s)) (fun u =>
        (({ u with hEnded := true } : Tile).modSlot (slot s) fun z => { z with stall := none, joined := false, pre := .none }).atEnd
          (.ended (slot s))) .stay)) ∧
    (sl.pre.k = none → exec (.pfxK kk) s = .next (s.setTile s.cur.tile (t.setSlot (slot s)
      { sl with pre := ⟨sl.pre.words + 1, some kk, sl.pre.sm⟩ }))) ∧
    (sl.pre.sm = none → exec (.pfxSm m1 m2 m3) s = .next (s.setTile s.cur.tile (t.setSlot (slot s)
      { sl with pre := ⟨sl.pre.words + 1, sl.pre.k, some (m1, m2, m3)⟩ })))

/-! ### Traps and system registers (05 R112 to R119, 03 R59, R60) -/

/-- 05 R114, R116: entering the handler writes TRAPC, TRAPPC and TRAPV, sets INH, holds C's task stream, and sets slot C to the
handler's address, its first word counted from max(t + 3, w + 1); registers, flags, scratchpad, instruction store and every
other slot's place stay. -/
def Obligations.TrapEntry : Prop :=
  ∀ (t : Tile) (k : Slot) (cause : Cause) (detail : Nat) (v : W64) (pc : Nat),
    let u := t.enterTrap k cause detail v pc
    u.trapc = w64 (cause.code + 256 * Slot.num k + 65536 * (detail % 65536)) ∧
    u.trappc = w64 (pc % 2 ^ 18 / 8 * 8) ∧ u.trapv = v ∧ u.inh = true ∧ u.trapT = some t.cyc ∧
    u.sc.pc = 0 ∧ u.sc.base = max (t.cyc + 3) (t.lastWrite + 1) ∧
    u.heldC.map (fun h => (h.pc, h.base, h.due)) = some (t.sc.pc, t.sc.base, t.sc.due) ∧
    (∀ j, (u.slot j).s = (t.slot j).s ∧ (u.slot j).g = (t.slot j).g ∧ (u.slot j).loops = (t.slot j).loops ∧
      (u.slot j).running = (t.slot j).running ∧ (j ≠ .c → (u.slot j).pc = (t.slot j).pc)) ∧
    u.spad = t.spad ∧ u.istore = t.istore ∧ u.x = t.x ∧ u.hs = t.hs ∧ u.hg = t.hg ∧ u.flags = t.flags ∧ u.eng = t.eng ∧
    u.tcfg = t.tcfg ∧ u.srseed = t.srseed ∧ u.pend = t.pend ∧ u.ctrs = t.ctrs ∧ u.bars = t.bars

/-- 05 R116: the handler bank: while INH = 1 a word of slot C reads and writes C.s24 to C.s31 and C.g4 to C.g7 in the handler
bank, the task's stand aside, and no other slot is concerned. -/
def Obligations.HandlerBankReadsAndWrites : Prop :=
  ∀ (t : Tile) (n : Fin 32) (g : Fin 8) (k : Slot) (v : W64) (y : Bool), t.inh = true →
    (24 ≤ n.val → t.readS .c n = t.hs.get (Fin.ofNat 8 (n.val - 24)) ∧
      (t.writeS .c n (t.banked .c n) v).readS .c n = v ∧ (t.writeS .c n (t.banked .c n) v).sc.s = t.sc.s) ∧
    (4 ≤ g.val → t.readG .c g = t.hg.get (Fin.ofNat 4 (g.val - 4)) ∧
      (t.writeG .c g (t.gbanked .c g) y).readG .c g = y ∧ (t.writeG .c g (t.gbanked .c g) y).sc.g = t.sc.g) ∧
    (n.val < 24 → n ≠ 0 → t.readS .c n = t.sc.s.get n) ∧
    (k ≠ .c → n ≠ 0 → t.readS k n = (t.slot k).s.get n ∧ (t.writeS k n (t.banked k n) v).readS k n = v)

/-- 05 R117, 03 R60: ERET with INH = 1 at cycle e clears INH, sets the trapping slot to TRAPPC eligible at e + 3, takes C's task
stream up again, and keeps registers and memories; with INH = 0 it raises ILL. -/
def Obligations.EretReturns : Prop :=
  ∀ s : State,
    (Ready s [] [] false [] [] → (tl s).inh = true → ∃ r, exec .eret s = .next r ∧
      (let t := tl s
       let u := r.tile s.cur.tile
       let k := slotOf (fld t.trapc 8 2)
       u.inh = false ∧ u.trapT = none ∧ u.heldC = none ∧
       (u.slot k).pc = BitVec.ofNat 18 (fld t.trappc 0 18) ∧ (u.slot k).due = some (t.cyc + 3) ∧
       (∀ h, t.heldC = some h → k ≠ .c → u.sc.pc = h.pc) ∧
       (∀ j, j ≠ .c → j ≠ k → (u.slot j).pc = (t.slot j).pc) ∧
       (∀ j, (u.slot j).s = (t.slot j).s ∧ (u.slot j).g = (t.slot j).g) ∧
       u.hs = t.hs ∧ u.hg = t.hg ∧ u.spad = t.spad ∧ u.istore = t.istore ∧ u.flags = t.flags ∧ u.trapc = t.trapc ∧
       u.trappc = t.trappc ∧ u.trapv = t.trapv) ∧
      (∀ n, n ≠ s.cur.tile → r.tile n = s.tile n) ∧ { r with tiles := s.tiles } = s) ∧
    (MayTrap s → ∀ w, Config.freeWord s.free = w → Ready s [] [] false [] [] → ∃ r, exec .eret s = .next r ∧
      r.tile s.cur.tile = (tl s).enterTrap (slot s) .ill 4 w (unitAt s))

/-- 04 R82, and 05 R117, 04 R73, R83, 21 R400: the MTSR words whose value is accepted write their register at the end of the cycle
and nothing before. BFMTn takes FMT and reads it with zeros above, starts at 0, and no byte of its bank changes; FMT = 15 raises
ILL and leaves it unchanged. -/
def Obligations.MtsrWordsWriteAtEndOfCycle : Prop :=
  ∀ (s : State) (num : BitVec 6) (x : Src) (n : Fin 12) (m : Fin 8),
    let put (j : Nat) (v : List W64) (u : Tile) : Tile := u.atEnd (.sysreg (slot s) j (a v))
    Acts s (.mtsr num x) [x] [] (fun _ => True) (put num.toNat) ∧
    Acts s (.mtsrSrseed x) [x] [] (fun _ => True) (put 7) ∧
    Acts s (.mtsrBfmt n x) [x] [] (fun v => fld (a v) 0 4 ≠ 15 ∧
      (s.full = true ∨ fld (a v) 0 4 = RAW8 ∨ fld (a v) 0 4 = F32 ∨ fld (a v) 0 4 = BF16)) (put (16 + n.val)) ∧
    Acts s (.mtsrBscl n x) [x] [] (fun v => fld (a v) 24 2 ≠ 3 ∧ fld (a v) 0 22 % 4 = 0 ∧
      fld (a v) 0 22 < 0x300000) (put (32 + n.val)) ∧
    Acts s (.mtsrCntsel m x) [x] [] (fun v => fld (a v) 8 8 ≤ 13) (put (48 + m.val)) ∧
    Ills s (.mtsrBfmt n x) [x] (fun v => fld (a v) 0 4 = 15) ∧
    (∀ (t : Tile) (k : Slot) (v : W64),
      let u := t.endWrite (.sysreg k (16 + n.val) v)
      u.bfmt = t.bfmt.set n (v.setWidth 4) ∧ u.spad = t.spad) ∧
    (∀ j k, s.readSys j k (16 + n.val) = ((s.tile j).bfmt.get n).setWidth 64 ∧ (State.reset.tile j).bfmt.get n = 0)

/-- 05 R112 to R115, 00 R4, R5, 04 R73: what the end of the cycle does to each register that MTSR writes: TSTAT clears the flags
written as ones, but for those set in the cycle; TCFG, TRAPPC and TRAPV in handler mode, SRSEED with its generator, BFMTn,
BSCLn, CNTSELn, CNTn take their fields; a register that is read-only for the writer keeps its value. -/
def Obligations.SystemRegisterWrites : Prop :=
  ∀ (t : Tile) (h : Bool) (v : W64),
    ((t.writeSys h 0 v).flags = t.flags &&& ~~~(v.setWidth 7 &&& ~~~t.nowV)) ∧
    ((t.writeSys h 1 v).tcfg = v &&& 3) ∧
    ((t.writeSys true 4 v).trappc = v &&& 0x3FFF8#64 ∧ (t.writeSys true 5 v).trapv = v) ∧
    (t.writeSys false 4 v = t ∧ t.writeSys false 5 v = t) ∧
    (fld (t.writeSys h 7 v).srseed 0 32 = v.toNat % 2 ^ 32 ∧
      fld (t.writeSys h 7 v).srseed 32 32 = (if v.toNat % 2 ^ 32 = 0 then 0x9E3779B9 else v.toNat % 2 ^ 32)) ∧
    (∀ n : Fin 12, ((t.writeSys h (16 + n.val) v).bfmt.get n).toNat = v.toNat % 16 ∧
      (t.writeSys h (32 + n.val) v).bscl.get n = v &&& 0x33FFFFF#64) ∧
    (∀ n : Fin 8, (t.writeSys h (48 + n.val) v).cntsel.get n = v &&& 0xFFF1#64 ∧
      ((t.writeSys h (56 + n.val) v).cnt.get n).toNat = v.toNat % 2 ^ 48) ∧
    (∀ j ∈ [2, 3, 6, 8, 9, 10, 11, 12, 13], t.writeSys h j v = t)

/-- 05 R117 to R119: TRAP takes a USER trap with rd(a) in TRAPV. HALT with a debugger attached begins a hold at the end of the
cycle, and without one raises DEBUG; a HALTE event is written either way. Before issue + 3 of an ICLR a slot may fetch the old
content of a changed word; from then on no old content is left but of words changed after issue + 1, and every other fetch gives
the store as it stands. -/
def Obligations.TrapHaltAndIclr : Prop :=
  ∀ s : State,
    (∀ x, MayTrap s → Traps s (.trap x) [x] (fun _ => True) fun v => (tl s).enterTrap (slot s) .user 0 (a v) (unitAt s)) ∧
    (s.debugged (tl s) = true → Does s .halt [] [] (now s) (fun _ => True) fun _ u =>
      (u.event (Slot.num (slot s)) 0x04 ((u.slot (slot s)).wordPc) 1).atEnd .held) ∧
    (MayTrap s → s.debugged (tl s) = false → Ready s [] [] false [] [] → ∃ r, exec .halt s = .next r ∧
      r.tile s.cur.tile = ((tl s).event (Slot.num (slot s)) 0x04 (wordAt s) 0).enterTrap (slot s) .debug 0
        (Config.freeWord s.free) (unitAt s)) ∧
    (Does s .iclr [] [] (now s) (fun _ => True) fun _ u => { u with iclrs := u.iclrs ++ [u.cyc] }) ∧
    (∀ (t : Tile) (i : Nat), i ∈ t.iclrs →
      (t.cyc < i + 3 → i ∈ t.dropOld.iclrs) ∧ (i + 3 ≤ t.cyc → ∀ e ∈ t.dropOld.istOld, i + 1 < e.2.2)) ∧
    (∀ t : Tile, (∀ i ∈ t.iclrs, t.cyc < i + 3) → t.dropOld.istOld = t.istOld) ∧
    (∀ (u : State) l e, e ∈ (pickOld u l).1 → ∃ m, (e.1, e.2, m) ∈ l) ∧
    (∀ (t : Tile) (pc : Nat), (t.oldNow = [] → t.fetch pc = t.iword pc) ∧
      ∀ e, t.oldNow.find? (fun e => e.1 == pc % 0x40000) = some e → t.fetch pc = e.2)

/-! ### Slot V (05 R100 to R135) -/

/-- 05 R121 to R124, R127 to R130, R133: every element-wise region word that its checks pass starts, with its operation, its
latency, its own checks, whether it computes in the real domain whatever its sources, and whether it moves raw bits. -/
def Obligations.ElementwiseWordsStart : Prop :=
  ∀ (s : State) (d x y z : Fin 32) (md : Mode) (rnd : Rnd),
    let w (op : VOp) (m : Mode) (lat : Nat) (rule : VRule) (real moves : Bool) (l : List (Fin 32)) (_ : List W64) : VSpec :=
      elemSpec (tl s) s.cur op m lat rule real moves d l
    let p := plainMode
    let r1 : List Src := [.s d, .s x]
    let r2 : List Src := [.s d, .s x, .s y]
    let r3 : List Src := [.s d, .s x, .s y, .s z]
    Starts s (.vadd d x y md) r2 (w .add md 3 .plain false false [x, y]) ∧
    Starts s (.vsub d x y md) r2 (w .sub md 3 .plain false false [x, y]) ∧
    Starts s (.vmul d x y md) r2 (w .mul md 5 .plain false false [x, y]) ∧
    Starts s (.vfma d x y z md) r3 (w .fma md 5 .plain false false [x, y, z]) ∧
    Starts s (.vfms d x y z md) r3 (w .fms md 5 .plain false false [x, y, z]) ∧
    Starts s (.vfnma d x y z md) r3 (w .fnma md 5 .plain false false [x, y, z]) ∧
    Starts s (.vmin d x y md) r2 (w .min md 3 .plain false false [x, y]) ∧
    Starts s (.vmax d x y md) r2 (w .max md 3 .plain false false [x, y]) ∧
    Starts s (.vabs d x md) r1 (w .abs md 3 .plain false false [x]) ∧
    Starts s (.vneg d x md) r1 (w .neg md 3 .plain false false [x]) ∧
    Starts s (.vand d x y) r2 (w .and p 2 .bitwise false true [x, y]) ∧
    Starts s (.vor d x y) r2 (w .or p 2 .bitwise false true [x, y]) ∧
    Starts s (.vxor d x y) r2 (w .xor p 2 .bitwise false true [x, y]) ∧
    Starts s (.vshl d x y) r2 (w .shl p 2 .shift false false [x, y]) ∧
    Starts s (.vshr d x y) r2 (w .shr p 2 .shift false false [x, y]) ∧
    Starts s (.vsra d x y) r2 (w .sra p 2 .shift false false [x, y]) ∧
    Starts s (.vcmpEq d x y) r2 (w (.cmp .eq) p 3 .cmp false false [x, y]) ∧
    Starts s (.vcmpNe d x y) r2 (w (.cmp .ne) p 3 .cmp false false [x, y]) ∧
    Starts s (.vcmpLt d x y) r2 (w (.cmp .lt) p 3 .cmp false false [x, y]) ∧
    Starts s (.vcmpLts d x y) r2 (w (.cmp .lts) p 3 .cmp false false [x, y]) ∧
    Starts s (.vcmpLe d x y) r2 (w (.cmp .le) p 3 .cmp false false [x, y]) ∧
    Starts s (.vcmpLes d x y) r2 (w (.cmp .les) p 3 .cmp false false [x, y]) ∧
    Starts s (.vsel d x y z) r3 (w .sel p 2 .sel false true [x, y, z]) ∧
    Starts s (.vcvt d x md) r1 (w .cvt md 4 .plain false false [x]) ∧
    Starts s (.vrcpe d x) r1 (w .rcpe p 6 .plain true false [x]) ∧
    Starts s (.vrsqe d x) r1 (w .rsqe p 6 .plain true false [x]) ∧
    Starts s (.vrcps d x y rnd) r2 (w .rcps ⟨rnd, false⟩ 5 .plain false false [x, y]) ∧
    Starts s (.vrsqs d x y rnd) r2 (w .rsqs ⟨rnd, false⟩ 5 .plain false false [x, y]) ∧
    Starts s (.vexp2e d x) r1 (w .exp2e p 6 .plain true false [x]) ∧
    Starts s (.vlog2e d x) r1 (w .log2e p 6 .plain true false [x]) ∧
    Starts s (.vcopy d x) r1 (w .copy p 2 .copy false true [x])

/-- 05 R125, R126, R132 to R135: the reductions, the quantising words, VIOTA, VFILL, VPART, VGATH and VSCAT start likewise.
What rests on logs 34, 64 and 65 is the model's reading or choice. -/
def Obligations.OtherRegionWordsStart : Prop :=
  ∀ (s : State) (d x y z o : Fin 32) (md : Mode) (rnd : Rnd) (p q : Src),
    let t := tl s
    Starts s (.vsum d x md) [.s d, .s x] (fun _ => reduceSpec t s.cur .sum md 10 d x none) ∧
    Starts s (.vdot d x y md) [.s d, .s x, .s y] (fun _ => reduceSpec t s.cur .dot md 12 d x (some y)) ∧
    Starts s (.vmaxr d x) [.s d, .s x] (fun _ => reduceSpec t s.cur .maxr plainMode 8 d x none) ∧
    Starts s (.vminr d x) [.s d, .s x] (fun _ => reduceSpec t s.cur .minr plainMode 8 d x none) ∧
    Starts s (.vqnt d x rnd) [.s d, .s x] (fun _ => qntSpec t s.cur d x rnd) ∧
    Starts s (.vdqnt d x y md) [.s d, .s x, .s y] (fun _ => dqntSpec t s.cur d x y md) ∧
    Starts s (.viota d p q) [.s d, p, q] (fun v => fillSpec t 2 d (.iota (b v) (c v))) ∧
    Starts s (.vfill d p) [.s d, p] (fun v => fillSpec t 1 d (.fill (b v))) ∧
    Starts s (.vpart d x y z o) [.s d, .s x, .s y, .s z, .s o] (fun _ => partSpec t [d, x, y, z] o) ∧
    Starts s (.vgath d x y) [.s d, .s x, .s y] (fun _ => gathSpec t s.cur d x y) ∧
    Starts s (.vscat d x y) [.s d, .s x, .s y] (fun _ => scatSpec t s.cur d x y)

/-- 05 R103: a region word of one beat schedules the writes of its elements, in element order, for issue + latency, and its flags
with them, each in its place among the slot's words (03 R55); it changes no scratchpad byte, register or flag at its issue. A count
of zero changes nothing. -/
def Obligations.RegionWordWritesItsElements : Prop :=
  ∀ (t : Tile) (j : VJob), j.beat = 0 → j.iss = t.cyc → j.count ≤ 64 → j.md.rnd ≠ .sr →
    j.op ∈ ([.add, .sub, .mul, .fma, .fms, .fnma, .min, .max, .abs, .neg, .and, .or, .xor, .shl, .shr, .sra, .sel, .cvt,
      .rcpe, .rsqe, .rcps, .rsqs, .exp2e, .log2e, .copy] : List VOp) →
    let es := (List.range j.count).map fun i => (i, t.vElem j i 0)
    let ws := es.flatMap fun e => j.dst.elemWrite e.1 e.2.1
    let fl := es.foldl (fun f e => f ||| e.2.2) 0
    let u := t.startJob j
    (j.count = 0 → u = t) ∧
    (j.count ≠ 0 → u.pend =
      let l := if ws = [] then t.pend else insPend ⟨t.cyc + j.lat, .v, t.cyc, j.pc, .spad ws⟩ t.pend
      if fl = 0 then l else insPend ⟨t.cyc + j.lat, .v, t.cyc, j.pc, .vflags fl⟩ l) ∧
    u.vjobs = t.vjobs ∧ u.spad = t.spad ∧ u.flags = t.flags ∧ u.x = t.x ∧ u.eng = t.eng ∧
    (∀ k, (u.slot k).s = (t.slot k).s ∧ (u.slot k).g = (t.slot k).g ∧ (u.slot k).pc = (t.slot k).pc)

/-- 05 R121, R122, 04 R86: the integer results of one element: sums, differences and products wrap to 32 bits without .s and
saturate with it; MIN and MAX compare signed values; shifts take their count modulo 32; AND, OR and XOR combine bits. -/
def Obligations.IntegerElementResults : Prop :=
  ∀ (t : Tile) (j : VJob) (p q : VSrc) (i draw : Nat), j.srcs = [p, q] → j.real = false → j.wide = false → j.dst.fmt = I32 →
    let x := t.srcInt p i
    let y := t.srcInt q i
    let res (o : VOp) (v : Int) : Prop := j.op = o →
      (j.md.ovf = false → (t.vElem j i draw).1 = (v % 2 ^ 32).toNat) ∧
      (j.md.ovf = true → (t.vElem j i draw).1 = ((max (-2 ^ 31) (min (2 ^ 31 - 1) v)) % 2 ^ 32).toNat)
    res .add (x + y) ∧ res .sub (x - y) ∧ res .mul (x * y) ∧ res .min (min x y) ∧ res .max (max x y) ∧
    (j.op = .shl → (t.vElem j i draw).1 = (x * 2 ^ (y % 32).toNat % 2 ^ 32).toNat) ∧
    (j.op = .sra → (t.vElem j i draw).1 = (x / 2 ^ (y % 32).toNat % 2 ^ 32).toNat) ∧
    (j.op = .shr → (t.vElem j i draw).1 = (x % 2 ^ 32).toNat / 2 ^ (y % 32).toNat % 2 ^ 32) ∧
    (j.op = .and → (t.vElem j i draw).1 = (t.srcBits p i &&& t.srcBits q i) % 2 ^ 32) ∧
    (j.op = .or → (t.vElem j i draw).1 = (t.srcBits p i ||| t.srcBits q i) % 2 ^ 32) ∧
    (j.op = .xor → (t.vElem j i draw).1 = (t.srcBits p i ^^^ t.srcBits q i) % 2 ^ 32)

/-! ### Slot M (06, 07) -/

/-- 06 R150, R152, R160: MLN, MOPA, MOPB and MACC write a shadow at issue + 1 whether the engine is busy or not, and nothing but
the shadow, as the write lands; MSTAT reads MST at
issue, writes it at issue + 2 and clears the bits named at the end of the cycle, but for those that the engine sets in it; MWAIT
stalls while the engine is busy, and issues when it is free. -/
def Obligations.MatrixSetupWords : Prop :=
  ∀ (s : State) (lvl : Fin 6) (src : Fin 3) (acc : Fin 4) (init : Bool) (d : Fin 32) (x y : Src),
    let put (w : List W64 → Tgt) (v : List W64) (u : Tile) : Tile := u.sched .m (u.cyc + 1) (w v)
    let stat (v : List W64) (u : Tile) : Tile := (u.schedS .m d (u.cyc + 2) u.eng.mst).atEnd (.mstat (a v))
    Does s (.mln lvl x) [x] [] (now s + 1) (fun _ => True) (put fun v => .shLevel lvl (a v)) ∧
    Does s (.mopa src x y) [x, y] [] (now s + 1) (fun _ => True) (put fun v => .shDesc false src.val (a v) (b v)) ∧
    Does s (.mopb src x y) [x, y] [] (now s + 1) (fun _ => True) (put fun v => .shDesc true src.val (a v) (b v)) ∧
    Does s (.macc acc init) [] [] (now s + 1) (fun _ => True) (put fun _ => .shMacc acc.val init) ∧
    Acts s (.mstat d x) [x] [(.s d, 2)] (fun _ => True) stat ∧
    (d ≠ 0 → Does s (.mstat d x) [x] [(.s d, 2)] (now s + 2) (fun _ => True) stat) ∧
    ((tl s).eng.busy = false → Does s .mwait [] [] (now s) (fun _ => True) fun _ u => u) ∧
    ((tl s).eng.busy = true → Stalls s .mwait [] [] .busy fun _ => True) ∧
    (∀ (t : Tile) (at_ iss pc : Nat) (w : Tgt) (p q : W64), t.pend = [⟨at_, .m, iss, pc, w⟩] → at_ ≤ t.cyc →
      let u := t.applyDue
      (w = .shLevel lvl p → u.eng = { t.eng with slvl := t.eng.slvl.set lvl p }) ∧
      (w = .shDesc false src.val p q → u.eng = { t.eng with sadsc := ⟨p, q, src.val⟩ }) ∧
      (w = .shDesc true src.val p q → u.eng = { t.eng with sbdsc := ⟨p, q, src.val⟩ }) ∧
      (w = .shMacc acc.val init → u.eng = { t.eng with smacc := ⟨acc.val, init⟩ })) ∧
    (∀ (t : Tile) (m : W64),
      let u := t.endWrite (.mstat m)
      (∀ i, i < 6 → u.eng.flags.getLsbD i = (t.eng.flags.getLsbD i && !(m.getLsbD i && !t.nowM.getLsbD i))) ∧
      u.eng.pxm = (t.eng.pxm && !(m.getLsbD 16 && !t.nowM.getLsbD 6)) ∧
      u.eng.mode = t.eng.mode ∧ u.eng.susp = t.eng.susp ∧ u.eng.acci = t.eng.acci ∧ u.eng.acc = t.eng.acc ∧
      u.eng.ccfg = t.eng.ccfg ∧ u.spad = t.spad ∧ u.flags = t.flags)

/-- 06 R141, R151, R148: an MGO whose checks pass makes the shadows active, starts the nest at issue + 2, and holds the engine
until T + 6 cycles after the start of its last step; it waits while the engine is busy, and while power shaping holds it back,
which a SLEW of FLOOR 100 and LIMIT 0 never does (21 R403, log 33). What rests on log 33 is the model's reading or choice. -/
def Obligations.MgoStartsTheNest : Prop :=
  ∀ (s : State) (x : Src),
    let t := tl s
    let req (u : Tile) (v : List W64) : NestReq := {
      tags := u.eng.tags, mode := u.eng.mode, lvl := u.eng.slvl.toList, a := u.eng.sadsc, b := u.eng.sbdsc
      macc := u.eng.smacc, go := a v, idx := [0, 0, 0, 0, 0, 0], start := u.cyc + 2 }
    let n (u : Tile) (v : List W64) : Nest := u.nestOf (req u v)
    (Begins s (.mgo x) [x] .mgo (fun v => t.nestTrap s.full (req t v))
      (fun v => now s + 2 + (n t v).left * (n t v).time + 6)
      fun v u => { u with eng := { u.eng with
        lvl := u.eng.slvl, adsc := u.eng.sadsc, bdsc := u.eng.sbdsc, macc := u.eng.smacc, go := a v, susp := false
        nest := some (n u v) } }) ∧
    (t.eng.busy = true → Stalls s (.mgo x) [x] [] .busy fun _ => True) ∧
    (t.eng.busy = false → t.shaped = true → ∀ v, Ready s [x] [] false [] v → exec (.mgo x) s =
      .next (s.setTile s.cur.tile ((t.count 13 (Slot.num (slot s)) 1).stallOn (slot s) .busy))) ∧
    (s.shapes = false → ∀ m, ((s.shape m).tile m).shaped = false ∧ (s.shape m).free = s.free)

/-- 06 R153 to R156: MLDA and MLDB copy 32 rows of 96 bytes to an operand register with its format tag, MDRAIN and MBYA convert an
accumulator to memory or to an operand register and clear it where ZERO is set, MXP permutes the rows' elements; each at its
cycles. That MXP sets PXM at issue + 11, with its last rows, is the model's choice in log 64: 06 R156 gives PXM no cycle. -/
def Obligations.MatrixMoveWords : Prop :=
  ∀ (s : State) (reg : Bool) (acc : Fin 4) (zero : Bool) (fmt : BitVec 6) (md : Mode) (x y z w q : Src),
    let t := tl s
    let dsc (m n : W64) : Dsc := ⟨m, n, 0⟩
    let geo (u : Tile) (m n : W64) : Geo := u.geo u.eng.tags false (dsc m n)
    let at_ (u : Tile) (v : List W64) : Nat := u.cyc + 2 + stepTime [(geo u (a v) (b v), 96)]
    let check (v : List W64) : Option TrapReq :=
      (t.dscTrap (s.offers loadFmt) (dsc (a v) (b v)) fun _ => 96).or (t.rowsEarly (geo t (a v) (b v)) 96)
    let load (r : Nat) (v : List W64) (u : Tile) : Tile :=
      let bytes := (List.range 32).flatMap fun i => readRange u.spad ((geo u (a v) (b v)).row i 0).toNat 96
      (u.sched .m (at_ u v) (.opr ((bytes.zipIdx (3072 * r)).map fun p => (p.2, p.1)))).sched .m (at_ u v)
        (.tag r (geo u (a v) (b v)).fmt)
    Begins s (.mlda reg x y) [x, y] .other check (at_ t) (load reg.toNat) ∧
    Begins s (.mldb reg x y) [x, y] .other check (at_ t) (load (2 + reg.toNat)) ∧
    Begins s (.mdrain x y acc zero md) [x, y] .other
      (fun v => t.dscTrap (s.offers drainFmt) (dsc (a v) (b v)) fun f => 32 * fmtBytes f)
      (fun _ => now s + 11) (fun v u =>
        let g := geo u (a v) (b v)
        (((u.convAcc acc.val g.fmt md).2).writeRows g (u.convAcc acc.val g.fmt md).1).zeroAcc acc.val zero) ∧
    (t.eng.mode = false → s.lacks fmt.toNat = false →
      Begins s (.mbya reg acc zero fmt md) [] .other (fun _ => none) (fun _ => now s + 6) (fun _ u =>
      let out := u.convAcc acc.val fmt.toNat md
      let fl := out.1.foldl (fun f x => f ||| x.2) 0
      let w := (out.2.sched .m (out.2.cyc + 6) (.opr (((regRows (fmtBytes fmt.toNat) out.1).zipIdx
        (3072 * reg.toNat)).map fun p => (p.2, p.1)))).sched .m (out.2.cyc + 6) (.tag reg.toNat fmt.toNat)
      (if fl = 0 then w else w.sched .m (w.cyc + 6) (.mflags fl)).zeroAcc acc.val zero)) ∧
    (∀ v, Ready s [x, y, z, w, q] [] false [] v → t.eng.busy = false → t.shaped = false →
      let src := geo t (nth v 2) (nth v 3)
      let dst := geo t (nth v 0) (nth v 1)
      let ok (m n : W64) (g : Geo) : Prop := (dsc m n).badBits = false ∧ t.mixedBanks g = false ∧ g.noBank = false ∧
        s.offers moveFmt g.fmt = true ∧ g.spmapRow (32 * fmtBytes g.fmt) 0 = none ∧ g.alignBad = none
      t.eng.mode = false → ok (nth v 2) (nth v 3) src → ok (nth v 0) (nth v 1) dst → fmtBits src.fmt = fmtBits dst.fmt →
      placeTrap (nth v 4) 4 128 = none → bitAt t.tcfg 1 = false →
      exec (.mxp x y z w q) s = .next (done s [x, y, z, w, q] none fun u =>
        let u := u.beginCmd .other (now s + 11)
        let cols := u.mxpCols (nth v 4).toNat
        let o := u.writeRows (geo u (nth v 0) (nth v 1)) (u.mxpOut (geo u (nth v 2) (nth v 3)) cols)
        if cols.any (·.2) then o.sched .m (o.cyc + 11) .pxm else o))

/-- 06 R157 to R159: MSAVE stops a nest and asks for an image in its own name, MREST brings one back at issue + 16 where its
image passes its checks; a suspended nest goes on with its first step left at issue + 16, and holds the engine to its end. -/
def Obligations.EngineSaveAndRestore : Prop :=
  ∀ (s : State) (x : Src),
    let t := tl s
    (∀ v, Ready s [x] [] false [] v → t.eng.save = none → t.shaped = false → (∀ e, t.eng.cmd = some e → e.kind = .mgo) →
      placeTrap (a v) 64 29184 = none →
      exec (.msave x) s = .next (done s [x] none fun u =>
        let w := ({ u with eng := { u.eng with save := some ⟨(a v).toNat, u.cyc, (u.slot .m).pc.toNat, none, false⟩ } } : Tile).stopNest
        { w with reserved := w.reserved ++ (List.range 7296).map fun i => ⟨(a v).toNat / 4 + i, u.saveCycle + 16, .m, u.cyc⟩ })) ∧
    (let img (v : List W64) : Mem := t.spadImage (a v).toNat
     ∀ v, Ready s [x] [] false [] v → t.eng.busy = false → t.shaped = false → placeTrap (a v) 64 29184 = none →
      bitAt t.tcfg 1 = false → imageBad (img v) = false →
      let back (u : Tile) (ends : Nat) : Tile :=
        (u.beginCmd .mrest ends).sched .m (u.cyc + 16) (.mrest (u.spadImage (a v).toNat))
      (imageSusp (img v) = false → exec (.mrest x) s = .next (done s [x] none fun u => back u (now s + 16))) ∧
      (let req (u : Tile) : NestReq := imageNest (u.spadImage (a v).toNat) (now s + 16)
       imageSusp (img v) = true → t.nestTrap s.full (req t) = none →
       exec (.mrest x) s = .next (done s [x] none fun u =>
        let n := t.nestOf (req t)
        let w := back u (now s + 16 + n.left * n.time + 6)
        { w with eng := { w.eng with nest := some n } })))

/-- 07 R171 to R176: the Contour words begin where their checks pass: CSET's change of mode at issue + 2, CLDC's cells, CRUN's first
group at issue + 2, CIDX's and CLEAF's results at their cycles; CSTAT reads CCFG at issue. That a CSTAT to s0 retires at issue + 2
too is the model's choice in log 66. -/
def Obligations.ContourWords : Prop :=
  ∀ (s : State) (x y : Src) (d : Fin 32),
    let t := tl s
    (∀ v, Ready s [x] [] false [] v → t.eng.busy = false → t.shaped = false → (a v) &&& ~~~0x3FF7#64 = 0 →
      (bitAt (a v) 0 = true ∨ a v = 0) →
      (s.full = true ∨ bitAt (a v) 0 = false) →
      exec (.cset x) s = .next (done s [x] none fun u => (u.beginCmd .other (now s + 2)).sched .m (u.cyc + 2) (.cset (a v)))) ∧
    (let at_ (u : Tile) (v : List W64) : Nat := u.cyc + 4 + ((u.cellImg (a v).toNat).len + 255) / 256
     t.eng.mode = true → Begins s (.cldc x) [x] .other (fun v => t.cldcTrap (a v)) (at_ t) fun v u =>
      let cells := (u.cellImg (a v).toNat).recs.map fun n => n.place u.eng.w16 u.eng.span
      u.sched .m (at_ u v) (.cells (cells.flatMap fun e => (e.2.zipIdx (16 * e.1)).map fun p => (p.2, p.1)) (cells.map (·.1))
        (u.cellImg (a v).toNat).nt)) ∧
    (let g (u : Tile) (v : List W64) : Region := (u.regionOf false (a v)).r
     Begins s (.crun x) [x] .other (fun v => t.crunTrap (a v))
      (fun v => if (g t v).count = 0 then now s + 1 else crunEnd (now s) (g t v).count t.eng.nf (fmtBytes (g t v).fmt))
      fun v u =>
        if (g u v).count = 0 then u.sched .m (u.cyc + 1) (.samples 0)
        else { u with eng := { u.eng with
          crun := some ⟨(g u v).base, (g u v).stride, (g u v).fmt, (g u v).count, 0, u.cyc + 2⟩ } }) ∧
    (∀ v, Ready s [x] [] false [] v → t.eng.busy = false → t.shaped = false → t.eng.mode = true →
      (let g := t.regionOf false (a v)
       regionTrap g (g.r.fmt == I8 || g.r.fmt == N8 || g.r.fmt == RAW8) (t.eng.ns * t.eng.nt)) = none →
      ∃ r, exec (.cidx x) s = .next r ∧
        (let n := t.eng.ns * t.eng.nt
         let g := (t.regionOf false (a v)).r
         (r.tile s.cur.tile).eng.cmd.bind (·.retire) = some (if n = 0 then now s else now s + 4 + (n - 1) / 256) ∧
         ∀ e, e < n → ∃ w ∈ (r.tile s.cur.tile).pend, w.at_ = now s + 4 + e / 256 ∧ ∃ l, w.tgt = .spad l ∧
          ∀ y ∈ g.elemWrite e (t.eng.leafAt (e / t.eng.nt) (e % t.eng.nt)), y ∈ l) ∧
        (r.tile s.cur.tile).spad = t.spad) ∧
    (∀ v, Ready s [x, y] [] false [] v → t.eng.busy = false → t.shaped = false → t.eng.mode = true → bitAt t.tcfg 1 = false →
      (let g := t.regionOf false (a v)
       regionTrap g (g.r.fmt == F32) t.eng.ns) = none →
      (b v).toNat % 4 = 0 →
      (let n := 4 * t.eng.lw * t.eng.nt
       n = 0 ∨ ((b v).toNat < 0x300000 ∧ (b v).toNat % 0x40000 + n ≤ 0x40000)) →
      ∃ r, exec (.cleaf x y) s = .next r ∧
        (let at_ := now s + 6 + (t.eng.ns * t.eng.nt + 127) / 128
         let g := (t.regionOf false (a v)).r
         (r.tile s.cur.tile).eng.cmd.bind (·.retire) = some (if t.eng.ns = 0 then now s else at_) ∧
         ∀ e, e < t.eng.ns → ∃ w ∈ (r.tile s.cur.tile).pend, w.at_ = at_ ∧ ∃ l, w.tgt = .spad l ∧
          ∀ y ∈ g.elemWrite e (t.leafSum (b v).toNat e (t.rawElem g e)).1, y ∈ l) ∧
        (r.tile s.cur.tile).spad = t.spad) ∧
    Does s (.cstatContour d x) [x] [(.s d, 2)] (now s + 2) (fun _ => True) fun v u =>
      (u.schedS .m d (u.cyc + 2) u.eng.ccfg).atEnd (.ccfg (a v))

/-! ### Slot A: memory (11) -/

/-- 11 R220, R223: a load or store at an aligned address places its entry, a load in LAQ and LQ with its width and extension, a
store in SAQ with one datum to come; PF places an entry whatever its alignment. -/
def Obligations.LoadsAndStoresPlaceEntries : Prop :=
  ∀ (s : State) (o : LdSt),
    let r : List Src := [o.a, o.b]
    let al (w : Nat) (v : List W64) : Prop := (ea o v).toNat % w = 0
    let ld (i : Instr) (w : Nat) (sgn : Bool) : Prop := Places s i r (al w) (.load w sgn) (ea o) o.mf 0 true false true
    let st (i : Instr) (w : Nat) : Prop := Places s i r (al w) (.store w) (ea o) o.mf 1 false true false
    ld (.ldB o) 1 false ∧ ld (.ldH o) 2 false ∧ ld (.ldW o) 4 false ∧ ld (.ldD o) 8 false ∧
    ld (.ldsB o) 1 true ∧ ld (.ldsH o) 2 true ∧ ld (.ldsW o) 4 true ∧
    st (.stB o) 1 ∧ st (.stH o) 2 ∧ st (.stW o) 4 ∧ st (.stD o) 8 ∧
    Places s (.pf o) r (fun _ => True) .pf (ea o) o.mf 0 true false false

/-- 11 R226: a far atomic of 4 or 8 bytes at an aligned address enters both queues, with one datum to come, two for ACAS, and
takes an LQ entry in the returning form. -/
def Obligations.FarAtomicsPlaceEntries : Prop :=
  ∀ (s : State) (o : Atom),
    let at_ (i : Instr) (op need : Nat) (ret : Bool) : Prop :=
      Places s i [o.a, o.b] (fun v => (eaAtom v).toNat % (if o.dbl then 8 else 4) = 0) (.atom op o.dbl ret) eaAtom o.mf need
        true true ret
    at_ (.aadd o) 0 1 true ∧ at_ (.amin o) 1 1 true ∧ at_ (.amins o) 2 1 true ∧ at_ (.amax o) 3 1 true ∧
    at_ (.amaxs o) 4 1 true ∧ at_ (.aand o) 5 1 true ∧ at_ (.aor o) 6 1 true ∧ at_ (.axor o) 7 1 true ∧
    at_ (.aswp o) 8 1 true ∧ at_ (.acas o) 9 2 true ∧ at_ (.aaddF32 o) 10 1 true ∧ at_ (.aaddBf16 o) 11 1 true ∧
    at_ (.aaddNr o) 0 1 false ∧ at_ (.aminNr o) 1 1 false ∧ at_ (.aminsNr o) 2 1 false ∧ at_ (.amaxNr o) 3 1 false ∧
    at_ (.amaxsNr o) 4 1 false ∧ at_ (.aandNr o) 5 1 false ∧ at_ (.aorNr o) 6 1 false ∧ at_ (.axorNr o) 7 1 false ∧
    at_ (.aswpNr o) 8 1 false ∧ at_ (.acasNr o) 9 2 false ∧ at_ (.aaddF32Nr o) 10 1 false ∧ at_ (.aaddBf16Nr o) 11 1 false

/-- 11 R223, R226: a load, store or far atomic whose effective address is no multiple of its width raises ALIGN with the address
in TRAPV, and places no entry. -/
def Obligations.MisalignedAccessesTrap : Prop :=
  ∀ (s : State) (o : LdSt) (m : Atom), MayTrap s →
    let tr (i : Instr) (w : Nat) : Prop := Traps s i [o.a, o.b] (fun v => (ea o v).toNat % w ≠ 0) fun v =>
      (tl s).enterTrap (slot s) .align 0 (ea o v) (unitAt s)
    tr (.ldH o) 2 ∧ tr (.ldW o) 4 ∧ tr (.ldD o) 8 ∧ tr (.ldsH o) 2 ∧ tr (.ldsW o) 4 ∧ tr (.stH o) 2 ∧ tr (.stW o) 4 ∧
    tr (.stD o) 8 ∧
    (let at_ (i : Instr) : Prop := Traps s i [m.a, m.b] (fun v => (eaAtom v).toNat % (if m.dbl then 8 else 4) ≠ 0) fun v =>
      (tl s).enterTrap (slot s) .align 0 (eaAtom v) (unitAt s)
    at_ (.aadd m) ∧ at_ (.amin m) ∧ at_ (.amins m) ∧ at_ (.amax m) ∧ at_ (.amaxs m) ∧ at_ (.aand m) ∧ at_ (.aor m) ∧
    at_ (.axor m) ∧ at_ (.aswp m) ∧ at_ (.acas m) ∧ at_ (.aaddF32 m) ∧ at_ (.aaddBf16 m) ∧ at_ (.aaddNr m) ∧ at_ (.aminNr m) ∧
    at_ (.aminsNr m) ∧ at_ (.amaxNr m) ∧ at_ (.amaxsNr m) ∧ at_ (.aandNr m) ∧ at_ (.aorNr m) ∧ at_ (.axorNr m) ∧
    at_ (.aswpNr m) ∧ at_ (.acasNr m) ∧ at_ (.aaddF32Nr m) ∧ at_ (.aaddBf16Nr m))

/-- 11 R220, R223, R226: placing an entry changes no register, flag, memory byte, counter or other tile: it stands at the tail of
its queues, untranslated, with no data, and nothing before it moves. -/
def Obligations.MemoryWordFrame : Prop :=
  ∀ (s : State) (srcs : List Src) (kind : QKind) (e : W64) (mf : MemF) (need : Nat) (inL inS ret : Bool),
    let r := done s srcs (some (now s)) fun u => u.enq kind e mf need inL inS ret
    let t := tl s
    let u := r.tile s.cur.tile
    Frame s r ∧ u.pend = t.pend ∧ u.ids = t.ids + 1 ∧
    u.ents = t.ents ++ [⟨t.ids, kind, e, mf.cls.toNat, mf.hint, need, [], .pending, false⟩] ∧
    u.laq = t.laq ++ (if inL then [t.ids] else []) ∧ u.saq = t.saq ++ (if inS then [t.ids] else []) ∧
    u.lq = t.lq.drop (pops srcs) ++
      (if ret then [⟨t.ids, e, entryWidth kind, entrySigned kind, .waiting⟩] else [])

/-- 11 R225, 10 R193, R203, R204: QMARK, ACQ and REL place their marker in both queues at once; a FENCE issues at once, notes
its scope and the accesses before it, and sends its markers to the paths and parties used. What rests on logs 13 and 14 is the
model's reading or choice. -/
def Obligations.MarkersAndFencesIssue : Prop :=
  ∀ s : State,
    let mk (i : Instr) (m : Mark) : Prop := Places s i [] (fun _ => True) (.mark m) (fun _ => 0) ⟨.norm, 0⟩ 0 true true false
    let fe (i : Instr) (sc : Scope) : Prop := Ready s [] [] false [] [] → exec i s = .next ((done s [] none fun u =>
      { u with fence := some ⟨sc, u.cyc, u.ids, []⟩, ids := u.ids + 1 }).sendMarkers s.cur.tile sc)
    mk .qmark .qmark ∧ mk .acqSlot (.acq .slot) ∧ mk .acqTile (.acq .tile) ∧ mk .acqDie (.acq .die) ∧
    mk .acqPkg (.acq .pkg) ∧ mk .acqSys (.acq .sys) ∧ mk .relSlot (.rel .slot) ∧ mk .relTile (.rel .tile) ∧
    mk .relDie (.rel .die) ∧ mk .relPkg (.rel .pkg) ∧ mk .relSys (.rel .sys) ∧
    fe .fenceSlot .slot ∧ fe .fenceTile .tile ∧ fe .fenceDie .die ∧ fe .fencePkg .pkg ∧ fe .fenceSys .sys

/-- 10 R202, R203, 11 R225: a FENCE retires once every access before it has performed at its scope and its markers are
acknowledged; one of PKG or SYS scope drops every copy that its die's cache holds; until then FENCE_RETIRE
makes no more than the tokens due in its tile at the end of the earlier cycle, and with none due changes nothing.
What rests on log 14 is the model's reading or choice. -/
def Obligations.FenceRetirement : Prop :=
  ∀ (s : State) (n : Nat) (f : Fence), n < 256 → (s.tile n).fence = some f →
    ((s.tile n).inh = false → f.marks = [] → (s.tile n).performed f.id f.scope = true →
      ∃ r, exec (.fenceRetire n) s = .next r ∧ (r.tile n).fence = none ∧
        (f.scope = .pkg ∨ f.scope = .sys → (r.die (dieOf n)).rdc = [] ∧ (r.die (dieOf n)).fills = []) ∧
        r.dmem = s.dmem ∧ r.hmem = s.hmem) ∧
    ((s.tile n).inh = true ∨ f.marks ≠ [] ∨ (s.tile n).performed f.id f.scope = false →
      exec (.fenceRetire n) s = .next (s.modTile n (·.settleTokens ((s.tile n).cyc - 1))) ∧
      ((s.tile n).tpush = [] →
        let r := s.modTile n (·.settleTokens ((s.tile n).cyc - 1))
        (∀ m, r.tile m = s.tile m) ∧ { r with tiles := s.tiles } = s))

/-- 11 R230, R232, R235, R236: a copy command whose checks pass joins the chain's window unpublished; CHAIN.TAIL publishes what has
been appended, with a link where rd(a) is not zero; CHAIN.WAIT reads the status once the sequence has come. That a CHAIN.WAIT to s0
retires at issue + 1 too is the model's choice in log 66. -/
def Obligations.ChainWords : Prop :=
  ∀ (s : State) (d : Fin 32) (x y z w : Src) (mf : MemF) (clr : Bool),
    let t := tl s
    let cp (i : Instr) (toMem : Bool) : Prop := t.chain.held < 64 → Does s i [x, y, z, w] [] (now s)
      (fun v => s.lacks (sdMfmt (nth v 0)) = false ∧
        copyTrap toMem false (nth v 0) (nth v 1) (nth v 2) (nth v 3) = none) fun v u => { u with chain := u.chain.append (.cmd toMem (nth v 0) (nth v 1) (nth v 2) (nth v 3) mf.hint) }
    cp (.cpygs x y z w mf) false ∧ cp (.cpysg x y z w mf) true ∧
    (t.chain.held < 64 → Does s (.chainTail x) [x] [] (now s) (fun v => (a v).toNat % 64 = 0) fun v u =>
      if a v = 0 then u.publish else ({ u with chain := u.chain.append (.link (a v)) } : Tile).publish) ∧
    Does s (.chainWait d x clr) [x] [(.s d, 1)] (now s + 1)
      (fun v => (t.chain.seq - (a v).setWidth 32).toNat < 2 ^ 31) fun _ u =>
        let u := u.schedS .a d (u.cyc + 1) u.chain.status
        if clr then u.atEnd .clearChain else u

/-! ### Slot A: puts, counters, collectives (12, 14) -/

/-- 12 R252 to R254: a put or get whose checks pass enters the tensor-move queue with the number of slot A's next access. -/
def Obligations.PutAndGetEnterTheirQueue : Prop :=
  ∀ (s : State) (x y z : Src) (mf : MemF),
    let t := tl s
    let en (i : Instr) (get : Bool) : Prop := t.tmq.length < 64 → Does s i [x, y, z] [] (now s)
      (fun v => putTrap s.pval (s.tcmask t) (a v) (b v) (c v) = none) fun v u => { u with
        ids := u.ids + 1
        tmq := u.tmq ++ [⟨u.ids, u.cyc, get, a v, b v, c v, 0, [], false, false, false, none⟩] }
    en (.put x y z mf) false ∧ en (.get x y z mf) true

/-- 12 R257 to R260: the counter words: ARR.ADD and BCB.POST read at issue and add at the end of the cycle, ARR.SET sets, ARR.W and
BCB.WAIT issue once their counter or round has come, in the order of numbers modulo 2^32. That an ARR.ADD, ARR.W, BCB.POST or
BCB.WAIT to s0 retires at issue + 1 too is the model's choice in log 66. -/
def Obligations.CounterWords : Prop :=
  ∀ (s : State) (d : Fin 32) (x y : Src) (flag : Bool),
    let t := tl s
    let i (v : List W64) : Nat := (a v).toNat
    let ok (lim : Nat) (v : List W64) : Prop := i v < lim ∧ (b v).toNat < 2 ^ 32
    let o : List (Out × Nat) := [(.s d, 1)]
    Does s (.arradd d x y) [x, y] o (now s + 1) (ok 1024) (fun v u =>
      (u.schedS .a d (u.cyc + 1) ((u.ctr (i v)).setWidth 64)).atEnd (.arrAdd (i v) (b v).toNat)) ∧
    Does s (.arrset x y) [x, y] [] (now s) (ok 1024) (fun v u => u.atEnd (.arrSet (i v) (b v).toNat)) ∧
    Does s (.arrw d x y flag) [x, y] o (now s + 1)
      (fun v => ok 1024 v ∧ (t.ctr (i v) - (b v).setWidth 32).toNat < 2 ^ 31) (fun v u =>
        let u := u.schedS .a d (u.cyc + 1) ((t.ctr (i v)).setWidth 64)
        if flag then u.atEnd (.arrSub (i v) ((b v).setWidth 32).toNat) else u) ∧
    Does s (.bcbPost d x y) [x, y] o (now s + 1) (ok 64) (fun v u =>
      (u.schedS .a d (u.cyc + 1) (((u.bcb (i v)).round + 1).setWidth 64)).atEnd (.bcbPost (i v) (b v).toNat)) ∧
    Does s (.bcbWait d x y flag) [x, y] o (now s + 1)
      (fun v => ok 64 v ∧ ((t.bcb (i v)).round - (b v).setWidth 32).toNat < 2 ^ 31) (fun v u =>
        let u := u.schedS .a d (u.cyc + 1) (t.bcb (i v)).status
        if flag then u.atEnd (.bcbClear (i v)) else u)

/-- 12 R258 to R260: what the end of the cycle does: counters add, set and subtract modulo 2^32, and only the named one changes; a
post arms its barrier with its count lowered; an armed barrier whose count is not negative fires: its round goes up, and a positive
residual sets EXCESS. 13 R278: the arrival that completes a tile barrier's count advances its phase by one and clears the arrivals;
an earlier one only notes its slot. -/
def Obligations.CountersAndBarriersAtEndOfCycle : Prop :=
  ∀ (t : Tile) (i j n : Nat), j ≠ i →
    (t.endCount (.arrAdd i n)).ctr i = t.ctr i + BitVec.ofNat 32 n ∧ (t.endCount (.arrAdd i n)).ctr j = t.ctr j ∧
    (t.endCount (.arrSet i n)).ctr i = BitVec.ofNat 32 n ∧ (t.endCount (.arrSet i n)).ctr j = t.ctr j ∧
    (t.endCount (.arrSub i n)).ctr i = t.ctr i - BitVec.ofNat 32 n ∧
    ((t.endCount (.bcbPost i n)).bcb i).armed = true ∧
    (-2 ^ 47 ≤ (t.bcb i).count - n → (t.bcb i).count - n < 2 ^ 47 →
      ((t.endCount (.bcbPost i n)).bcb i).count = (t.bcb i).count - n) ∧
    (t.endCount (.bcbPost i n)).bcb j = t.bcb j ∧
    (let x := t.bcb i
     (x.armed = true → 0 ≤ x.count → x.fire.round = x.round + 1 ∧ x.fire.armed = false ∧
       x.fire.excess = (x.excess || decide (0 < x.count)) ∧ x.fire.count = x.count) ∧
     (x.armed = false ∨ x.count < 0 → x.fire = x)) ∧
    (∀ (x : Barrier) (k : Slot), k ∉ x.arr →
      (x.arr.length + 1 < x.cfg → (x.arrive k).phase = x.phase ∧ (x.arrive k).arr = x.arr ++ [k]) ∧
      (x.cfg ≤ x.arr.length + 1 → (x.arrive k).phase = x.phase + 1 ∧ (x.arrive k).arr = []) ∧ (x.arrive k).cfg = x.cfg)

/-- 14 R322 to R327: the collective words: CTBL takes an image that its checks pass at the end of the cycle; CREADY and CABORT
act on the entry's state at issue, an armed one being fired once, with one command for each peer, or aborted; CEVW waits for its
events, an abort ending every wait, and retires as its wait ends; CSTAT reads the status word, retires at its issue and clears
what it names at the end of the cycle. What rests on log 36 is the model's reading or choice. -/
def Obligations.CollectiveWords : Prop :=
  ∀ (s : State) (d : Fin 32) (x y : Src) (clr : Bool),
    let t := tl s
    let e (v : List W64) : Nat := (a v).toNat
    Does s (.ctbl x y) [x, y] [] (now s)
      (fun v => e v < 256 ∧ ctblTrap s.pval (s.tcmask t) t (e v) (b v) = none)
      (fun v u => u.atEnd (.ctbl (e v) (readBytes t.spad (b v).toNat 128))) ∧
    (t.tmq.length < 64 → Does s (.cready x) [x] [] (now s)
      (fun v => e v < 256 ∧ (t.cent (e v)).state ≠ 0 ∧ ((t.cent (e v)).state = 1 → (t.cent (e v)).fired = false))
      (fun v u => if (t.cent (e v)).state = 1 then u.fireColl (e v) else u)) ∧
    Does s (.cevw d x y) [x, y] [(.s d, 1)] (now s)
      (fun v => e v < 256 ∧ (b v).toNat < 8 ∧ ((t.cent (e v)).events &&& (b v).toNat = (b v).toNat ∨
        (t.cent (e v)).state = 3 ∨ (t.cent (e v)).abrx = true))
      (fun v u => u.schedS .a d (u.cyc + 1) (t.cent (e v)).status) ∧
    (∀ v, Ready s [x] [] false [] v → e v < 256 → exec (.cabort x) s = .next
      (let r := done s [x] (some (now s)) id
       if (t.cent (e v)).state = 1 then r.abortMember s.cur.tile (e v) else r)) ∧
    Does s (.cstatColl d x clr) [x] [(.s d, 1)] (now s) (fun v => e v < 256) (fun v u =>
      let u := u.schedS .a d (u.cyc + 1) (t.cent (e v)).status
      if clr then u.atEnd (.cclr (e v)) else u) ∧
    Ills s (.cready x) [x] (fun v => e v < 256 ∧
      ((t.cent (e v)).state = 0 ∨ ((t.cent (e v)).state = 1 ∧ (t.cent (e v)).fired = true))) ∧
    (64 ≤ t.tmq.length → Stalls s (.cready x) [x] [] .busy fun v =>
      e v < 256 ∧ (t.cent (e v)).state ≠ 0 ∧ ((t.cent (e v)).state = 1 → (t.cent (e v)).fired = false)) ∧
    Ills s (.cevw d x y) [x, y] (fun v => 256 ≤ e v ∨ 8 ≤ (b v).toNat) ∧
    Stalls s (.cevw d x y) [x, y] [(.s d, 1)] .event (fun v => e v < 256 ∧ (b v).toNat < 8 ∧
      (t.cent (e v)).events &&& (b v).toNat ≠ (b v).toNat ∧ (t.cent (e v)).state ≠ 3 ∧ (t.cent (e v)).abrx = false) ∧
    (∀ (t : Tile) (n : Nat),
      let u := t.fireColl n
      ((t.cent n).state = 1 → (u.cent n).fired = true ∧ (u.cent n).state = 1) ∧
      ((t.cent n).npeer ≠ 0 → (t.cent n).nwords ≠ 0 → u.tmq.length = t.tmq.length + (t.cent n).npeer) ∧
      (t.endWrite (.cclr n)).cent n = { t.cent n with dups := 0, ovr := false, nxerr := false })

/-! ### Synchronisation and tasks (13) -/

/-- 13 R278: BAR.A arrives and reads the phase; BAR.W issues once the phase is ahead of its number; BAR.S, once it has arrived,
issues when the phase it found has ended; BAR.CFG sets a barrier's count at the end of the cycle. What rests on log 17 is the
model's reading or choice. That a BAR.A or BAR.S to s0 retires at issue + 1 too is the model's choice in log 66. -/
def Obligations.BarrierWords : Prop :=
  ∀ (s : State) (d : Fin 32) (x y : Src),
    let t := tl s
    let k := slot s
    let i (v : List W64) : Nat := (a v).toNat
    let sl := t.slot k
    Does s (.bara d x) [x] [(.s d, 1)] (now s + 1)
      (fun v => i v < 256 ∧ (sl.joined = false → k ∉ (t.bar (i v)).arr) ∧
        (sl.joined = true → sl.mark ≠ (t.bar (i v)).phase.toNat))
      (fun v u => (u.schedS k d (u.cyc + 1) ((t.barAhead (i v)).phase.setWidth 64)).atEnd (.barArrive k (i v))) ∧
    Does s (.barw x y) [x, y] [] (now s) (fun v => i v < 256 ∧
      1 ≤ ((t.bar (i v)).phase - (b v).setWidth 16).toNat ∧ ((t.bar (i v)).phase - (b v).setWidth 16).toNat < 2 ^ 15)
      (fun _ u => u) ∧
    Does s (.bars d x) [x] [(.s d, 1)] (now s + 1)
      (fun v => i v < 256 ∧ sl.joined = true ∧ sl.mark ≠ (t.bar (i v)).phase.toNat)
      (fun v u => u.schedS k d (u.cyc + 1) ((t.bar (i v)).phase.setWidth 64)) ∧
    Does s (.barcfg x y) [x, y] [] (now s) (fun v => i v < 256 ∧ 1 ≤ (b v).toNat ∧ (b v).toNat ≤ 4)
      (fun v u => u.atEnd (.barCfg (i v) (b v).toNat))

/-- 13 R279 to R281: MLOCK takes a free mutex, MTRY tries, MUNLK gives up its own at the end of the cycle; SEMP takes one from a
positive count with no slot ahead, SEMTRY tries, SEMV adds at the end of the cycle; TOKCNT reads a FIFO's count. What rests on log
17 is the model's reading or choice. That an MTRY, SEMTRY or TOKCNT to s0 retires at issue + 1 too is the model's choice in log 66.
-/
def Obligations.MutexAndSemaphoreWords : Prop :=
  ∀ (s : State) (d : Fin 32) (x y : Src) (src dst : Fin 4),
    let t := tl s
    let k := slot s
    let i (v : List W64) : Nat := (a v).toNat
    let o : List (Out × Nat) := [(.s d, 1)]
    ((t.slot k).joined = false → Does s (.mlock x) [x] [] (now s)
      (fun v => i v < 16 ∧ (t.mut_ (i v)).owner = none ∧ (t.mut_ (i v)).waiters = [])
      (fun v u => u.setMut (i v) ⟨some k, []⟩)) ∧
    Does s (.mtry d x) [x] o (now s + 1) (fun v => i v < 16) (fun v u =>
      if (t.mut_ (i v)).free then (u.setMut (i v) { t.mut_ (i v) with owner := some k }).schedS k d (u.cyc + 1) 1
      else u.schedS k d (u.cyc + 1) 0) ∧
    Does s (.munlk x) [x] [] (now s) (fun v => i v < 16 ∧ (t.mut_ (i v)).owner = some k)
      (fun v u => u.atEnd (.mutexLeave k (i v))) ∧
    Does s (.semp x) [x] [] (now s) (fun v => i v < 16 ∧ (t.sem (i v)).waiters = [] ∧ (t.sem (i v)).count ≠ 0)
      (fun v u => u.setSem (i v) ⟨(t.sem (i v)).count - 1, (t.sem (i v)).waiters.filter (· != k)⟩) ∧
    Does s (.semv x y) [x, y] [] (now s) (fun v => i v < 16 ∧ (b v).toNat < 2 ^ 32)
      (fun v u => u.atEnd (.semAdd (i v) (b v).toNat)) ∧
    Does s (.semtry d x) [x] o (now s + 1) (fun v => i v < 16) (fun v u =>
      if (t.sem (i v)).waiters.isEmpty && (t.sem (i v)).count != 0 then
        (u.setSem (i v) { t.sem (i v) with count := (t.sem (i v)).count - 1 }).schedS k d (u.cyc + 1) 1
      else u.schedS k d (u.cyc + 1) 0) ∧
    Gives s (.tokcnt d src dst) (.s d) 1 [] fun _ => w64 (t.tokens (4 * src.val + dst.val))

/-- 13 R289, R293, R294: YIELD asks for the end of the cycle, QPT in slot C notes the invalidations pending and does nothing
in another slot, DSEND ends a stub with what it names. What rests on log 24 is the model's reading or choice. -/
def Obligations.YieldQptDsend : Prop :=
  ∀ (s : State) (x y : Src),
    let t := tl s
    let k := slot s
    Does s (.yield x) [x] [] (now s) (fun v => (a v).toNat ≤ 1) (fun v u =>
      (u.event (Slot.num k) 0x21 ((u.task.map (·.rcd)).getD 0) (a v).toNat).atEnd (.yields ((a v).toNat == 1))) ∧
    Does s .qpt [] [] (now s) (fun _ => True) (fun _ u =>
      if k = .c then { u with qpts := u.qpts ++ [⟨u.ids, u.invals.map (·.id)⟩] } else u) ∧
    (∀ v l, Ready s [x, y] [] false [] v → (t.slot k).stub = true → dsendArgs t k (a v) (b v) = some l →
      bitAt t.tcfg 1 = false → (k = .m → t.eng.busy = false) →
      exec (.dsend x y) s = .next (done s [x, y] (some (now s)) (fun u => u.endStub k l) .stay))

/-- 13 R283, R284: a record word waits for CD's answer from its first attempt on, LRARM once every access before it has performed at
PKG scope; answered, LRPATCH writes its field of a BUILT record of the tile's own partition, LRARM arms it, and the status goes to d
at issue + 1. What rests on log 23 is the model's reading or choice. That an LRPATCH or LRARM to s0 retires at issue + 1 too is the
model's choice in log 66. -/
def Obligations.RecordWordsAnswered : Prop :=
  ∀ (s : State) (d : Fin 32) (x y : Src) (f : Fin 21),
    let t := tl s
    let k := slot s
    let n := s.cur.tile
    let s' : State := { s with free := s.free + 1 }
    (∀ v, Ready s [x, y] [] false [(.s d, 1)] v → (a v).toNat < 2 ^ 16 → (t.slot k).joined = true →
      (t.slot k).mark ≤ 65552 + t.cyc → exec (.lrpatch d x y f) s = .next (answerRec n k d (fun s => s.patch n (a v).toNat f.val (b v))
        (done s' [x, y] (some (now s + 1)) id))) ∧
    (∀ v, Ready s [x] [] false [(.s d, 1)] v → (a v).toNat < 2 ^ 16 → (t.slot k).joined = true →
      (t.slot k).mark ≤ 65552 + t.cyc → exec (.lrarm d x) s = .next (answerRec n k d (fun s => s.armFrom n (a v).toNat)
        (done s' [x] (some (now s + 1)) id))) ∧
    (let asks : State := s'.setTile n ((joinAs k (65552 + (t.cyc + 1 + Config.freeNat s.free)) t).stallOn k .answer)
     (∀ v, Ready s [x, y] [] false [(.s d, 1)] v → (a v).toNat < 2 ^ 16 → (t.slot k).joined = false →
      exec (.lrpatch d x y f) s = .next asks) ∧
     (∀ v, Ready s [x] [] false [(.s d, 1)] v → (a v).toNat < 2 ^ 16 → (t.slot k).joined = false →
      (t.performed t.ids .pkg = true → exec (.lrarm d x) s = .next asks) ∧
      (t.performed t.ids .pkg = false → exec (.lrarm d x) s = .next (s'.setTile n (t.stallOn k .completion))))) ∧
    ((t.slot k).joined = true → 65552 + t.cyc < (t.slot k).mark →
      (∀ v, Ready s [x, y] [] false [(.s d, 1)] v → (a v).toNat < 2 ^ 16 →
        exec (.lrpatch d x y f) s = .next (s'.setTile n (t.stallOn k .answer))) ∧
      (∀ v, Ready s [x] [] false [(.s d, 1)] v → (a v).toNat < 2 ^ 16 →
        exec (.lrarm d x) s = .next (s'.setTile n (t.stallOn k .answer))))

/-! ### Moves on accesses and packets (10, 11, 12) -/

/-- 10 R188, R190, R191, R193, R203, R204: DEQ. A marker that holds nothing back leaves; an access that may leave takes its
mesh path towards its home, and one that may not stays. A load leaves before no older store that overlaps it and that an alias
class binds to it, and a store before no such load. What rests on log 13 is the model's reading or choice. -/
def Obligations.QueueFrontsLeave : Prop :=
  ∀ (s : State) (n : Nat) (store : Bool) (e : QEnt) (l : List QEnt) (pa : Nat), n < 256 →
    let t := s.tile n
    let go := exec (.deq n store) s
    let key := pathKey (dieOf n) (endOf n) (if homeParty pa = partyOf (dieOf n) then sliceEnd pa else portEnd)
    (if store then t.saq else t.laq).filterMap t.ent = e :: l →
    (t.markLeaves e = true → go = .next (s.setTile n (t.dropEnt e.id))) ∧
    (e.kind.isMark = false → e.kind ≠ .pf → e.tr = .ok pa → t.mayDeq e = true → ∃ r, go = .next r ∧
      e.id ∉ (r.tile n).laq ∧ e.id ∉ (r.tile n).saq ∧ r.dmem = s.dmem ∧ r.hmem = s.hmem ∧
      tget r.paths [] key = tget s.paths [] key ++
        [⟨s.ids, .req (entryAcc n e pa), homeParty pa, if hostBase ≤ pa then portEnd else sliceEnd pa⟩]) ∧
    (e.kind = .pf → e.tr = .ok pa → t.mayDeq e = true →
      go = .next (s.setTile n (((t.dropEnt e.id).raise e.id 1).settle e.id))) ∧
    (e.kind.isMark = false → t.mayDeq e = false → go = .next s) ∧
    (t.mayDeq e = true → e.kind.isLoad = true → ∀ x ∈ t.saq.filterMap t.ent, x.id < e.id → x.kind.writes = true →
      overlaps x e = true → x.cls ≠ e.cls ∧ x.cls ≠ 0 ∧ e.cls ≠ 0) ∧
    (t.mayDeq e = true → e.kind.isLoad = false → ∀ x ∈ t.laq.filterMap t.ent, x.id < e.id → x.kind.isLoad = true →
      overlaps x e = true → x.cls ≠ e.cls ∧ x.cls ≠ 0 ∧ e.cls ≠ 0)

/-- 11 R221, R223, R229; 18 R341 to R343: an entry of a queue translates by the TLB, to an address or a fault KIND, and a PF
that fails is discarded; a walk answers its request, with a leaf that the last-level TLB keeps where it may, and the copies
of a migratable page that has come back are purged; what a permission forbids has its KIND; RETURN extends a load's bytes as
its width and sign say. What rests on logs 13, 15, 57, 58 and 64 is the model's reading or choice. -/
def Obligations.TranslationAndReturn : Prop :=
  ∀ (s : State) (n : Nat) (e : QEnt) (x : TlbE) (pa k : Nat), n < 256 →
    let t := s.tile n
    let v := e.va.toNat
    let at_ := fld x.leaf 12 40 * 4096 + v % x.size
    let drop := Host.Outcome.next (s.setTile n ((t.dropEnt e.id).settle e.id))
    (∀ store i, ((if store then t.saq else t.laq)[i]?).bind t.ent = some e → e.tr = .pending → e.kind.isMark = false →
      let go := exec (.entryTranslate n store i) s
      (fld e.va 56 8 = 0 → tlbFind t.tlb (s.asidOf t) v = some x →
        (permit e.kind.use x v = .inl pa → go = .next (s.setTile n (t.setTrans e.id (.ok pa)))) ∧
        (permit e.kind.use x v = .inr k → e.kind ≠ .pf → go = .next (s.setTile n (t.setTrans e.id (.faulted k)))) ∧
        (permit e.kind.use x v = .inr k → e.kind = .pf → go = drop)) ∧
      (fld e.va 56 8 ≠ 0 → e.kind ≠ .pf → go = .next (s.setTile n (t.setTrans e.id (.faulted 4)))) ∧
      (fld e.va 56 8 ≠ 0 → e.kind = .pf → go = drop)) ∧
    (∀ u, bitAt x.leaf 4 = true → permit u x v = .inr 3) ∧
    (bitAt x.leaf 4 = false → permit .read x v = .inl at_) ∧
    (bitAt x.leaf 4 = false → permit .write x v = if bitAt x.leaf 2 then .inl at_ else .inr 2) ∧
    (bitAt x.leaf 4 = false → hostBase ≤ at_ → permit .atomic x v = .inr 3) ∧
    (bitAt x.leaf 4 = false → at_ < hostBase → bitAt x.leaf 2 = false ∨ bitAt x.leaf 3 = false → permit .atomic x v = .inr 2) ∧
    (bitAt x.leaf 4 = false → at_ < hostBase → bitAt x.leaf 2 = true → bitAt x.leaf 3 = true → permit .atomic x v = .inl at_) ∧
    (∀ d asid va (w : WalkReq), d < 4 →
      ((s.die d).walks.find? fun w => w.asid == asid && w.va / 65536 == va / 65536) = some w →
      (∀ l, s.walk asid w.va = .leaf l → exec (.pageWalk d asid va) s = .next ((s.handOver l).setDie d { (s.handOver l).die d with
        walks := (s.die d).walks.filter fun v => !(v == w)
        found := ((s.handOver l).die d).found ++ [⟨w.tile, asid, w.va, .inl l⟩]
        tlb2 := if w.keep then tlbHold ((s.handOver l).die d).tlb2 4096 l else ((s.handOver l).die d).tlb2 }) ∧
        (bitAt l.leaf 5 = false → s.handOver l = s) ∧
        (bitAt l.leaf 5 = true → bitAt l.leaf 4 = false → l.range.1 < hostBase → l ∉ s.mig → l ∈ (s.handOver l).mig)) ∧
      (∀ note, s.walk asid w.va = .fault k note → ∃ r, exec (.pageWalk d asid va) s = .next r ∧
        (r.die d).found = (s.die d).found ++ [⟨w.tile, asid, w.va, .inr k⟩] ∧ (r.die d).tlb2 = (s.die d).tlb2 ∧
        r.dmem = s.dmem)) ∧
    (∀ (l : LqEnt) ans, (t.lq.find? fun e => e.val == .waiting) = some l →
      (t.back.find? fun b => b.1 == l.id) = some (l.id, ans) →
      exec (.returnVal n) s = .next (s.setTile n { (t.countMove 8 0 1) with
        back := t.back.filter fun b => b.1 != l.id
        lq := t.lq.map fun y => if y.id = l.id then { y with val := match ans with
            | .val b => .val (if l.sgn then w64i (signed (8 * l.w) (fromLe b)) else w64 (fromLe b))
            | .failed c => .failed c l.va } else y }))

/-- 10 R188, R194, R196; 12 R242 to R248: HOP takes the head of a mesh path to its end, where a write meets the die's cached
copy and a read may be served by it; SEND stamps a packet with its party's clock and spends a credit; PACKET_ARRIVE holds one of
this generation and drops another; DELIVER takes one that the clock lets through, and no other; reports return counts and
credits, and one goes out at the latest with the sixteenth delivery. What rests on logs 13 and 63 is the model's reading or
choice. -/
def Obligations.PacketMoves : Prop :=
  ∀ (s : State) (keep : Bool),
    (∀ d src dst p l, d < 4 → src < 81 → dst < 81 → tget s.paths [] (pathKey d src dst) = p :: l →
      let go := exec (.hop d (81 * src + dst) keep) s
      let s' : State := { s with paths := tset s.paths (pathKey d src dst) l }
      (64 ≤ dst → dst < portEnd → go = .next { s' with homes := tset s.homes d (tget s.homes [] d ++ [p]) }) ∧
      (dst = portEnd → ∀ x, p.body = .net x → go = .next (s'.atPort (partyOf d) src p)) ∧
      (dst = portEnd → ∀ a b, p.body = .req a → a.op = .write b → a.pa < hostBase →
        go = .next ((s'.setDie d ((s.die d).update a.pa b)).atPort (partyOf d) src p)) ∧
      (dst = portEnd → ∀ a m b, p.body = .req a → a.op = .read m → a.cached = true → keep = true →
        (s.die d).copyOf (lineOf a.pa) = some b → go = .next (((s'.dieCount (partyOf d) 3 1).modTile a.tile (·.fixRead a.who)).path
          d portEnd (endOf a.tile)
          ⟨p.id, .resp a (.val ((b.drop (a.pa % 128)).take m)) none, partyOf d, endOf a.tile⟩)) ∧
      (dst < 64 → s.dieGone d = false → ∀ a ans id, p.body = .resp a ans none → a.who = .entry id →
        go = .next (s'.modTile (64 * d + dst) fun t => t.answer a ans))) ∧
    (∀ a b path x l, a < 6 → b < 6 → a ≠ b → tget (s.party a).out [] path = x :: l → x.dstP = b →
      let p := s.party a
      let go := exec (.send a b path) s
      (bitAt s.clkmask b = true → go = .next ((s.setParty a { p with out := tset p.out path l }).losePkt a x 4)) ∧
      (bitAt s.clkmask b = false → s.maySend a b x = false → go = .next s) ∧
      (bitAt s.clkmask b = false → s.maySend a b x = true → ∃ r, go = .next r ∧
        tget r.links [] (6 * a + b) = tget s.links [] (6 * a + b) ++ [{
          src := a, gen := p.gen, v := (List.range 6).map fun k => vget p.m (6 * k + b)
          ext := if vget p.dirty b then some p.m.toList else none, num := (vget p.m (6 * a + b)).toNat, pkt := x }] ∧
        vget (r.party a).m (6 * a + b) = vget p.m (6 * a + b) + 1 ∧ vget (r.party a).cred b = vget p.cred b - 1 ∧
        (∀ j, j < 6 → vget (r.party a).dirty j = decide (j ≠ b)) ∧ r.dmem = s.dmem)) ∧
    (∀ a b x l, a < 6 → b < 6 → tget s.links [] (6 * a + b) = x :: l →
      let s' : State := { s with links := tset s.links (6 * a + b) l }
      let p := s.party b
      let go := exec (.packetArrive a b) s
      (bitAt s.clkmask a = true → go = .next (s'.dropAt b 2 x)) ∧
      (bitAt s.clkmask a = false → x.gen ≠ p.gen → go = .next (s'.dropAt b 1 x)) ∧
      (bitAt s.clkmask a = false → x.gen = p.gen → p.hold.length < 1024 →
        go = .next (s'.setParty b { p with hold := p.hold ++ [x] }))) ∧
    (∀ d i x, d < 6 → (s.party d).hold[i]? = some x →
      let p := s.party d
      (p.ready s.clkmask x = true → exec (.deliver d i) s =
        .next (((s.setParty d { (p.deliver d x) with hold := p.hold.eraseIdx i }).reportDue d x.src).passOn d x.pkt)) ∧
      (p.ready s.clkmask x = false → exec (.deliver d i) s = .next s) ∧
      (p.ready s.clkmask x = true → x.src < 6 → x.gen = p.gen ∧ x.v.getD x.src 0 = vget p.dlv x.src ∧
        (∀ k, k < 6 → k ≠ x.src → bitAt s.clkmask k = false → geq10 (vget p.dlv k) (x.v.getD k 0) = true) ∧
        vget (p.deliver d x).dlv x.src = vget p.dlv x.src + 1)) ∧
    (∀ (u : State) d a, d < 6 → a < 6 →
      (16 ≤ (vget (u.party d).dlv a - vget (u.party d).told a).toNat → u.reportDue d a = u.reportTo d a) ∧
      ((vget (u.party d).dlv a - vget (u.party d).told a).toNat < 16 → u.reportDue d a = u)) ∧
    (∀ d a, d < 6 → a < 6 → exec (.deliveryReport d a) s = .next (s.reportTo d a) ∧ ∃ k g,
      let p := s.party d
      let r := s.reportTo d a
      (r.party a).reps = (s.party a).reps ++ [⟨d, vget p.dlv a, vget p.freed a - k + g⟩] ∧
      k ≤ vget p.lent a ∧ k ≤ vget p.freed a ∧ g ≤ p.shared + k ∧
      (r.party d).shared + g = p.shared + k ∧ vget (r.party d).lent a + k = vget p.lent a + g ∧
      vget (r.party d).freed a = 0 ∧ vget (r.party d).told a = vget p.dlv a ∧ r.dmem = s.dmem) ∧
    (∀ a i q, a < 6 → (s.party a).reps[i]? = some q → q.from_ < 6 →
      ((s.party a).reps.take i).all (fun y => y.from_ != q.from_) = true → ∃ r, exec (.reportReceive a i) s = .next r ∧
      vget (r.party a).dack q.from_ = q.count ∧ vget (r.party a).cred q.from_ = vget (s.party a).cred q.from_ + q.creds)

/-- 10 R195, R196, R207, R405; 11 R212, R227; 19 R360: a home applies an access once no earlier one to its line waits: a read
answers with the bytes that stand, or with a failure where they are poisoned; a write changes its bytes and no other byte; a
far atomic writes its new value and answers with the old one. The host's own writes, but to the journal, its completions and
the eviction of a copy. What rests on logs 9, 16 and 64 is the model's reading or choice. -/
def Obligations.HomesAndHostAccesses : Prop :=
  ∀ (s : State), Memory.wf s.dmem = true → Memory.wf s.hmem = true →
    (∀ d i p a, d < 4 → (tget s.homes [] d)[i]? = some p → p.body = .req a →
      let go := exec (.perform d i) s
      let key := pathKey d p.dstE (if partyOf (dieOf a.tile) = partyOf d then endOf a.tile else portEnd)
      let answer (ans : Ans) (line : Option (List Byte)) : Pkt :=
        ⟨p.id, .resp a ans line, partyOf (dieOf a.tile), endOf a.tile⟩
      let bad (n : Nat) : Bool := (s.touchL2 d a).poisoned a.pa n
      let first := ∀ q ∈ (tget s.homes [] d).take i, ∀ b, q.body = .req b → lineOf b.pa ≠ lineOf a.pa
      ((∃ q ∈ (tget s.homes [] d).take i, ∃ b, q.body = .req b ∧ lineOf b.pa = lineOf a.pa) → go = .next s) ∧
      (first → ∀ m, a.op = .read m → ∃ r line, go = .next r ∧ r.dmem = s.dmem ∧ r.hmem = s.hmem ∧
        tget r.paths [] key = tget s.paths [] key ++
          [answer (if bad m then .failed 1 else .val (s.readPa a.pa m)) line] ∧
        tget r.homes [] d = (tget s.homes [] d).eraseIdx i) ∧
      (first → ∀ b, a.op = .write b → a.pa + b.length ≤ hostBase → ∃ r, go = .next r ∧
        (∀ j (h : j < b.length), r.readPa (a.pa + j) 1 = [b[j]]) ∧
        (∀ x, x < a.pa ∨ a.pa + b.length ≤ x → r.readPa x 1 = s.readPa x 1)) ∧
      (first → ∀ op dbl dat, a.op = .atom op dbl dat → a.pa + 8 ≤ hostBase →
        let w := if dbl then 8 else 4
        bad w = false → ∃ r, go = .next r ∧
          (∀ v, atomNew op dbl (fromLe (s.readPa a.pa w)) dat = some v → r.dmem = writeBytes s.dmem a.pa (leBytes w v)) ∧
          (atomNew op dbl (fromLe (s.readPa a.pa w)) dat = none → r.dmem = s.dmem) ∧
          ((s.tile a.tile).awaits a.id = true → tget r.paths [] key = tget s.paths [] key ++
            [answer (.val (leBytes w (fromLe (s.readPa a.pa w)))) none])) ∧
      (∀ m, a.op = .read m → (∀ x ∈ (s.die d).l2, x.dirty = false) → (s.touchL2 d a).poison = s.poison)) ∧
    (∀ addr b, hostBase ≤ addr → ∃ r, exec (.hostWrite addr b) s = .next r ∧
      (∀ j (h : j < b.length), r.readPa (addr + j) 1 = [b[j]]) ∧
      (∀ x, x < addr ∨ addr + b.length ≤ x → r.readPa x 1 = s.readPa x 1)) ∧
    (∀ addr b, addr < hostBase → backed addr = true → backed (addr + b.length - 1) = true →
      inJournal addr b.length = false → (s.party 0).viral = false →
      exec (.hostWrite addr b) s = .next (s.hostPieces addr b (b.length + 1))) ∧
    (∀ addr b, addr < hostBase → inJournal addr b.length = true → exec (.hostWrite addr b) s = .next s) ∧
    (∀ i rid p a, s.pcie[i]? = some (rid, p) → p.body = .req a →
      (∀ x ∈ s.pcie.take i, ∀ y b, x.2.body = .req y → y.op ≠ .write b) →
      let refused := !s.hostTakes rid a.pa
      (∀ m, a.op = .read m → ∃ r, exec (.hostCompletion i) s = .next r ∧ r.pcie = s.pcie.eraseIdx i ∧ r.hmem = s.hmem ∧
        tget (r.party 0).out [] 81 = tget (s.party 0).out [] 81 ++ [⟨p.id, .resp a
          (if refused then .failed 3 else .val (s.readPa a.pa m)) none, partyOf (dieOf a.tile), endOf a.tile⟩]) ∧
      (∀ b, a.op = .write b → hostBase ≤ a.pa → ∃ r, exec (.hostCompletion i) s = .next r ∧ r.pcie = s.pcie.eraseIdx i ∧
        r.dmem = s.dmem ∧ r.hmem = if refused then s.hmem else writeBytes s.hmem (a.pa - hostBase) b)) ∧
    (∀ d line, d < 4 → exec (.rdcEvict d line) s = .next (s.setDie d { s.die d with
      rdc := (s.die d).rdc.filter fun e => e.1 != line }))

/-! ### The engines of slot A (11, 12) -/

/-- 10 R199, R205; 11 R230, R233, R235, R236, R238: COPY_BEGIN begins the next published entry, or a link's walk;
CHAIN_ENTRY_READ asks for an entry of a memory chain and takes it once read; COPY_SECTOR reads a source sector, with the
scales of its elements, or hands a destination sector on; COPY_SEQ_COMMIT completes the oldest command, whose number becomes
SEQ and whose first error stands. What rests on logs 15, 57, 58 and 64 is the model's reading or choice. -/
def Obligations.CopyEngineMoves : Prop :=
  ∀ (s : State) (n : Nat) (pa k : Nat) (x : TlbE), n < 256 →
    let t := s.tile n
    (∀ e l, t.chain.win = e :: l → e.pub = true → t.chainBegins = true → t.chain.walk = none →
      t.marksPass e.id false = true →
      let t' : Tile := { t with chain := { t.chain with win := l } }
      (∀ toMem sd ga sh pi hint, e.kind = .cmd toMem sd ga sh pi hint → exec (.copyBegin n) s =
        .next (s.setTile n (t'.reach e.id toMem sd ga sh pi hint 0))) ∧
      (∀ a, e.kind = .link a → t.storesDone e.id = true → exec (.copyBegin n) s =
        .next (s.setTile n { t' with chain := { t'.chain with walk := some ⟨e.id, a, false⟩ } }))) ∧
    (∀ w, t.chain.walk = some w → t.chainBegins = true → w.asked = false → fld w.addr 56 8 = 0 →
      tlbFind t.tlb (s.asidOf t) w.addr.toNat = some x →
      (permit .read x w.addr.toNat = .inl pa → ∃ r, exec (.chainEntryRead n) s = .next r ∧
        (r.tile n).chain.walk = some { w with asked := true } ∧ r.dmem = s.dmem ∧
        let key := pathKey (dieOf n) (endOf n) (if homeParty pa = partyOf (dieOf n) then sliceEnd pa else portEnd)
        tget r.paths [] key = tget s.paths [] key ++ [accPkt s.ids ⟨w.ent, n, pa, .read 64, .norm, .chain, w.addr⟩]) ∧
      (permit .read x w.addr.toNat = .inr k → exec (.chainEntryRead n) s = .next (s.chainStop n k w.addr))) ∧
    (∀ w p a b line l, t.chain.walk = some w → t.chainBegins = true → w.asked = true → t.inbox = p :: l →
      p.2.body = .resp a (.val b) line → a.who = .chain → exec (.chainEntryRead n) s =
        .next (s.setTile n (({ t with inbox := l } : Tile).takeEntry s w b))) ∧
    (∀ c j r lo hi, (t.chain.act.find? fun y => y.seq == c.seq) = some c → t.chainRuns = true → c.halt = false →
      c.open_ = true →
      (c.sector false j = some (r, lo, hi) → c.asked.contains j = false → c.toMem = true →
        t.pendingAt ((c.sRow r + lo) / 32 * 32) 32 = false → exec (.copySector n c.seq (2 * j)) s =
          .next (s.setTile n (t.modCmd c.seq fun c => { c with
            asked := c.asked ++ [j], reads := c.reads ++ [j]
            got := c.got ++ [(j, readBytes t.spad (c.sRow r + lo) (hi - lo))], tabs := c.tabs ++ [(j, t.copyTab c r lo hi)] }))) ∧
      (c.sector true j = some (r, lo, hi) → c.wrote.contains j = false → c.toMem = false →
        ∀ b, c.make (s.freeBytes 4).1 r lo hi = some b → ∃ u, exec (.copySector n c.seq (2 * j + 1)) s = .next u ∧
          (u.tile n).async = t.async ++ [⟨1, 0, if sdIs c.sd then .istore (c.sRow r + lo) b else .spad (c.sRow r + lo) b,
            .copied c.seq j⟩] ∧ (u.tile n).spad = t.spad ∧ (u.tile n).istore = t.istore ∧ u.dmem = s.dmem)) ∧
    (∀ c l, t.chain.act = c :: l → c.finished = true → t.released c = true → ∃ r, exec (.copySeqCommit n) s = .next r ∧
      (r.tile n).chain.seq = BitVec.ofNat 32 c.seq ∧ (r.tile n).chain.act = l ∧
      (r.tile n).chain.err = (t.chain.err || c.code != 0) ∧
      (r.tile n).chain.ecode = (if t.chain.err then t.chain.ecode else if c.code = 0 then t.chain.ecode else c.code)) ∧
    (∀ c l, t.chain.act = c :: l → (c.finished && t.released c) = false → exec (.copySeqCommit n) s = .next s)

/-- 10 R188, R200; 11 R215, R216; 12 R254 to R256; 14 R308; 19 R364: PUT_BEGIN reads the next source sector of the head
command, or sends it; a put that is accepted is handed to COMMIT, its count behind its bytes, and another is refused; a get
is served, or refused, and its answer handed to COMMIT; a PACK ends its put; a request that the router gives up fails, but
not one to a package that is held, or that RD holds back; COMMIT makes a write that no earlier one of its lane stands before,
in rising order within a cycle. What rests on logs 57, 58 and 62 is the model's reading or choice. -/
def Obligations.PutAndGetMoves : Prop :=
  ∀ (s : State) (n i src : Nat) (p : Pkt) (x : Net) (c : Tm), n < 256 →
    let t := s.tile n
    let gone := s.dropInbox n i
    (t.tmHead = some c → c.coll = none → c.lvl = 0 → t.tmBegins c = true → (c.acq && scopeInval c.scope && !c.inv) = false →
      c.get = false → c.len ≠ 0 →
      let a := c.laddr + c.got
      let k := min (c.laddr + c.len) ((a / 32 + 1) * 32) - a
      let c' : Tm := { c with data := c.data ++ [(a, readBytes t.spad a k)] }
      t.pendingAt (a / 32 * 32) 32 = false → c'.got ≠ c.len →
        exec (.putBegin n) s = .next (s.setTile n (t.modTm c.id fun _ => c'))) ∧
    (t.tmHead = some c → c.coll = none → c.lvl ≠ 0 →
      exec (.putBegin n) s = .next ((s.setTile n (t.modTm c.id fun c => { c with sent := true })).route n (s.tmPacket n c))) ∧
    (t.arrived 0 i = some (src, p, x) →
      (s.acceptCode n x x.daddr x.data.length = 0 → ∃ r, exec (.putArrive n i) s = .next r ∧
        (r.tile n).async = t.async ++ (sectorWrites 2 (laneOf 0 src) (fun a l => .spad a l) (x.data.length + 1) x.daddr x.data ++
          [⟨2, laneOf 0 src, ctlCount x.ctl x.data.length, .put x⟩]) ∧
        (r.tile n).inbox = t.inbox.eraseIdx i ∧ (r.tile n).spad = t.spad ∧ r.dmem = s.dmem) ∧
      (s.acceptCode n x x.daddr x.data.length ≠ 0 → exec (.putArrive n i) s = .next ((gone.refuseEvent n x
        (s.acceptCode n x x.daddr x.data.length)).answerPut n x (s.acceptCode n x x.daddr x.data.length)))) ∧
    (∀ l, t.arrived 1 i = some (src, p, x) → x.data = [] → s.acceptCode n x x.saddr x.glen = 0 →
      (x.glen = 0 ∧ l = [] ∨ 0 < x.glen ∧ x.saddr % 32 + x.glen ≤ 32 ∧ t.pendingAt (x.saddr / 32 * 32) 32 = false ∧
        l = readBytes t.spad x.saddr x.glen) →
      let read : State := if x.spkg = s.own then
        s.modTile x.stile fun t => t.modTm x.cmd fun c => { c with read := true } else s
      exec (.getrqArrive n i) s = .next ((read.dropInbox n i).route n { Net.reset with
        kind := 2, tc := x.tc, dpkg := x.spkg, spkg := s.own, dtile := x.stile, stile := n, daddr := x.daddr, ctl := x.ctl
        ptag := x.ptag, rtag := x.rtag, cmd := x.cmd, data := l })) ∧
    (t.arrived 1 i = some (src, p, x) → x.data = [] → s.acceptCode n x x.saddr x.glen ≠ 0 →
      let code := s.acceptCode n x x.saddr x.glen
      exec (.getrqArrive n i) s = .next (if x.spkg = s.own then (gone.refuseEvent n x code).answerPut n x code
        else gone.refuseEvent n x code)) ∧
    (t.arrived 2 i = some (src, p, x) → t.tm x.cmd = some c → ∃ r, exec (.getrsArrive n i) s = .next r ∧
      (r.tile n).async = t.async ++ (sectorWrites 3 (laneOf 2 src) (fun a l => .spad a l) (c.len + 1) c.laddr (x.data.take c.len) ++
        [⟨3, laneOf 2 src, ctlCount c.hdrCtl c.len, .got x⟩]) ∧ (r.tile n).spad = t.spad ∧ r.dmem = s.dmem) ∧
    (t.arrived 10 i = some (src, p, x) → x.spkg = s.own → ∃ f, exec (.packArrive n i) s =
      .next (({ gone with free := f } : State).tmEnd n x.cmd x.code x)) ∧
    (∀ q, s.fab.reqs[i]? = some q → s.fab.held.contains q.pkt.dpkg = false → s.holdsBack q.pkt = false →
      exec (.routerTimeout i) s =
      .next (({ s with fab := { s.fab with reqs := s.fab.reqs.eraseIdx i } } : State).expire q 14 5)) ∧
    (∀ q, s.fab.reqs[i]? = some q → s.fab.held.contains q.pkt.dpkg = true ∨ s.holdsBack q.pkt = true →
      exec (.routerTimeout i) s = .next s) ∧
    (∀ w, t.async[i]? = some w → t.comm ≤ w.prec + 1 → inLane (t.async.take i) w = true → s.servedRel n w = true →
      let u := s.setTile n { t with comm := w.prec + 1, async := t.async.eraseIdx i }
      exec (.commit n i) s = .next (u.commitOne n w) ∧
      (∀ a l, w.w = .spad a l → w.done = .nothing → u.commitOne n w =
        s.setTile n { t with comm := w.prec + 1, async := t.async.eraseIdx i, spad := writeBytes t.spad a l })) ∧
    (∀ w, t.async[i]? = some w → t.comm > w.prec + 1 ∨ inLane (t.async.take i) w = false ∨ s.servedRel n w = false →
      exec (.commit n i) s = .next s)

/-! ### Links and routers (14) -/

/-- 14 R300 to R306: a flit of the number expected is accepted once, one that is bad is answered by a RETRY, and so is the first out
of order, a duplicate changes nothing but the acknowledgement, and one of a reserved type is counted and no more; a RETRY has the
replay buffer sent again, but not while a reshape of this end is open; a flit's bytes are striped over the active lanes, and a
reshape flit is whole on each lane of its mask; a lane that is lost begins a reshape, which both ends switch by; a link that times
out goes down, and a retrain brings it up. What rests on logs 47 and 59 is the model's reading or choice. -/
def Obligations.LinkMoves : Prop :=
  ∀ (s : State) (p : Nat) (w : Wire) (l : List Wire),
    let x := s.port p
    let f := w.flit x.act
    let y : Port := { x with inp := l }
    (x.up = true →
    (x.inp = w :: l → f.good = true → sequenced f.type = true → f.seq = x.exp → ∃ r, exec (.flitReceive p) s = .next r ∧
      (r.port p).exp = x.exp + 1 ∧ (r.port p).inp = l ∧ (r.port p).gap = false) ∧
    (x.inp = w :: l → f.good = false → exec (.flitReceive p) s = .next
      (((s.setPort p y).setPort p ({ y with gap := true } : Port).sendRetry).report 10 12 (unitParty 5) 0 0 0)) ∧
    (x.inp = w :: l → f.good = true → sequenced f.type = true → f.seq ≠ x.exp → (f.seq - x.exp).toNat < 2048 →
      let z := y.takeAck f
      exec (.flitReceive p) s = .next (((s.setPort p y).setPort p
        (if z.gap then z else ({ z with gap := true } : Port).sendRetry)).report 10 12 (unitParty 5) 0 0 0)) ∧
    (x.inp = w :: l → f.good = true → sequenced f.type = true → f.seq ≠ x.exp → 2048 ≤ (f.seq - x.exp).toNat →
      ∃ r, exec (.flitReceive p) s = .next r ∧ (r.port p) = y.takeAck f) ∧
    (x.inp = w :: l → f.good = true → f.type = tyAckf → exec (.flitReceive p) s =
      .next (((s.setPort p y).setPort p (y.takeAck f)).giveCredits p)) ∧
    (x.inp = w :: l → f.good = true → 8 ≤ f.type → exec (.flitReceive p) s = .next ((s.setPort p y).dieCount 5 43 1)) ∧
    (x.owed.toList.all (· == 0) = true → exec (.ackTimer p) s = .next (if x.since = 0 then s else s.setPort p (x.sendPlain tyAckf []))) ∧
    (∃ r, exec (.ackTimer p) s = .next r ∧ (r.port p).since = 0 ∧ (r.port p).exp = x.exp) ∧
    (x.inp = w :: l → f.good = true → f.type = tyRetry → ∃ r, exec (.retryReceive p) s = .next r ∧
      r.port p = if x.ini.isSome then y.takeAck f else (y.takeAck f).resend) ∧
    (x.gap = true → exec (.retryRepeat p) s = .next (s.setPort p (x.sendPlain tyRetry []))) ∧
    (∀ i, i < 8 → x.ini = none → x.act.getLsbD i = true → ∃ r, exec (.laneShed p i) s = .next r ∧
      (4 ≤ lanes (x.act &&& ~~~(1#8 <<< i)) → (r.port p).ini = some (x.act &&& ~~~(1#8 <<< i)) ∧ (r.port p).up = true ∧
        (r.port p).epoch = (x.epoch + 1) % 256) ∧
      (lanes (x.act &&& ~~~(1#8 <<< i)) < 4 → (r.port p).up = false ∧ (r.port p).act = 0)) ∧
    (x.inp = w :: l → f.good = true → f.type = tyRshreq → x.older (f.pay.getD 1 0).toNat = false → x.ans = none →
      4 ≤ lanes (f.pay.getD 0 0 &&& x.ini.getD x.act) → ∃ r, exec (.rshreqReceive p) s = .next r ∧
      (r.port p).act = f.pay.getD 0 0 &&& x.ini.getD x.act ∧ (r.port p).epoch = (f.pay.getD 1 0).toNat ∧
      (r.port p).ini = none) ∧
    (∀ m, x.inp = w :: l → f.good = true → f.type = tyRshack → x.ini = some m → (f.pay.getD 1 0).toNat = x.epoch →
      (f.pay.getD 0 0 &&& m = f.pay.getD 0 0 → 4 ≤ lanes (f.pay.getD 0 0) → ∃ r, exec (.rshackReceive p) s = .next r ∧
        (r.port p).act = f.pay.getD 0 0 ∧ (r.port p).ini = none ∧ (r.port p).up = true) ∧
      (f.pay.getD 0 0 &&& m ≠ f.pay.getD 0 0 → ∃ r, exec (.rshackReceive p) s = .next r ∧ (r.port p).ini = some m ∧
        (r.port p).epoch = (x.epoch + 1) % 256 ∧ (r.port p).act = x.act)) ∧
    (∀ m, x.ini = some m → exec (.rshreqRepeat p) s = .next (s.setPort p (x.sendShape tyRshreq m x.epoch))) ∧
    (x.replay ≠ [] → ∃ r, exec (.linkTimeout p) s = .next r ∧ (r.port p).up = false ∧ (r.port p).replay = [] ∧
      (r.port p).act = 0)) ∧
    (∀ (m : BitVec 8) (b : List Byte) (j : Nat), 0 < lanes m → b.length = 72 → j < 72 →
      (stripe m b).unstripe m = b ∧
      (((stripe m b)[j % lanes m]?).map fun e => (e.1, e.2[j / lanes m]?)) =
        some ((laneList m).getD (j % lanes m) 8, some b[j]?) ∧
      (∀ e ∈ wholeOn m b, m.getLsbD e.1 = true ∧ e.2 = b.map some) ∧ (wholeOn m b).length = lanes m) ∧
    (∀ g, (x.send g).out = x.out ++ [stripe x.act (x.stamp g).bytes] ∧
      ∀ ty m e, (x.sendShape ty m e).out = x.out ++ [wholeOn m (x.stamp (plainFlit ty [m, BitVec.ofNat 8 e])).bytes]) ∧
    (∀ m q, p < 576 → s.peerOf p = some q → ∃ r, exec (.retrain p m) s = .next r ∧
      (r.port p).up = decide (4 ≤ lanes m) ∧ (r.port p).act = (if 4 ≤ lanes m then m else 0) ∧ (r.port p).exp = 0 ∧
      (r.port p).nseq = 0 ∧ (r.port p).replay = [])

/-- 14 R298, R309 to R312; 19 R364, R365: a packet at RD leaves minimally by an up port that may carry it and has room; it enters
escape under the newest tree, where a next hop of its own version that is down, or that the topology no longer names, drops it; a
viral RD sends but the notice that a port still owes, and one that has been removed sends no packet, nor does either take liveness
or a notice; versions are installed and retired; liveness is sent and noted, with its HELD mark; a silent group becomes unreachable
and its requests fail, unless a package of it is held; a viral notice takes the links to its package down and fails the requests to
it. That RD holds back a packet (a put with a release, until the release is served) is the model's choice in log 58; what rests on
logs 32, 60, 62 and 63 is its reading or choice. -/
def Obligations.RoutingMoves : Prop :=
  ∀ (s : State) (i p q v : Nat) (x : Net),
    let f := s.fab
    let y := s.port p
    (f.rdq[i]? = some x → s.peerOf p = some q → s.cutOff = false → s.carries x p = true → s.holdsBack x = false → x.vc ≠ 2 →
      x.igrp = none → s.minimal q x.dpkg = true →
      let x' : Net := { x with vc := Config.freeNat s.free % 2 }
      let s' : State := { s with free := s.free + 1 }
      exec (.packetForward i p) s = .next (if y.takes x' then s'.sendOn i p x' else s')) ∧
    (f.rdq[i]? = some x → s.cutOff = false → s.carries x p = false ∨ s.holdsBack x = true →
      exec (.packetForward i p) s = .next s) ∧
    (s.cutOff = true → f.notes.contains p = false → exec (.packetForward i p) s = .next s) ∧
    ((s.party 5).viral = true → f.notes.contains p = true → s.peerOf p = some q → y.takes (s.noticeNet q) = true →
      ∃ r, exec (.packetForward i p) s = .next r ∧ r.port p = y.sendNet (s.noticeNet q) ∧ p ∉ r.fab.notes ∧ r.fab.rdq = f.rdq) ∧
    (f.rdq[i]? = some x → s.cutOff = false → s.carries x p = true → s.holdsBack x = false → x.vc = 2 →
      y.up = false ∨ s.peerOf p ≠ some q →
      ∀ e m d, (f.trees.find? fun t => t.1 == x.tree) = some e → (e.2.find? fun k => k.1 == 1024 * s.own + p) = some (m, q) →
      escapeHop e.2 s.own q x.dpkg x.down = some d → ∃ r, exec (.packetForward i p) s = .next r ∧ r.fab.rdq = f.rdq.eraseIdx i ∧
        (r.port p).pkts = y.pkts ∧ ((∀ c, x.via ≠ some (p, c)) → (r.port p).out = y.out) ∧ r.dmem = s.dmem) ∧
    (∀ e, f.rdq[i]? = some x → f.trees.getLast? = some (v, e) → x.vc ≠ 2 → ∃ r, exec (.escapeEntry i) s = .next r ∧
      r.fab.rdq = f.rdq.set i { x with vc := 2, tree := v, down := false }) ∧
    (∀ l, f.trees.length < 4 → (f.trees.all fun t => t.1 != v) = true → ∃ r, exec (.treeInstall v l) s = .next r ∧
      r.fab.trees = f.trees ++ [(v, l)] ∧ r.fab.unreach = [] ∧ r.fab.dead = [] ∧ (∀ e ∈ l, e ∈ r.fab.topo) ∧
      (r.fab.topo = l ∨ ∀ e ∈ f.topo, e ∈ r.fab.topo) ∧ r.dmem = s.dmem) ∧
    ((f.rdq.all fun x => x.vc != 2 || x.tree != v) = true → (f.trees.getLast?.map (·.1)) ≠ some v →
      exec (.treeRetire v) s = .next { s with fab := { f with trees := f.trees.filter fun t => t.1 != v } }) ∧
    (s.peerOf p = some q → isGlobal p = true → y.takes (s.livenessNet q) = true → s.cutOff = false →
      exec (.livenessSend p) s = .next (s.setPort p (y.sendNet (s.livenessNet q))) ∧
      (s.livenessNet q).kind = 9 ∧ (s.livenessNet q).dpkg = q ∧ (s.livenessNet q).spkg = s.own ∧ (s.livenessNet q).hops = 1) ∧
    (s.cutOff = true → exec (.livenessReceive p) s = .next s ∧ exec (.viralNoticeReceive p) s = .next s) ∧
    (s.peerOf p = some q → y.up = true → s.cutOff = false → ∃ r, exec (.livenessReceive p) s = .next r ∧
      r.fab.alive = (if f.alive.contains (pkgGroup q) then f.alive else f.alive ++ [pkgGroup q]) ∧
      r.fab.held.contains q = Config.freeBool s.free ∧ r.dmem = s.dmem) ∧
    (f.alive.contains v = true → exec (.groupTimeout v) s =
      .next { s with fab := { f with alive := f.alive.filter (· != v) } }) ∧
    (f.alive.contains v = false → f.unreach.contains v = false → v ≠ pkgGroup s.own →
      ((f.held.any fun q => pkgGroup q == v) = true → exec (.groupTimeout v) s = .next s) ∧
      ((f.held.any fun q => pkgGroup q == v) = false → ∃ r, exec (.groupTimeout v) s = .next r ∧
        r.fab.unreach = f.unreach ++ [v] ∧ (∀ e ∈ r.fab.reqs, pkgGroup e.pkt.dpkg ≠ v) ∧ r.dmem = s.dmem)) ∧
    (s.peerOf p = some q → y.up = true → s.cutOff = false →
      ∃ r, exec (.viralNoticeReceive p) s = .next r ∧ q ∈ r.fab.dead ∧
      (∀ e ∈ r.fab.reqs, e.pkt.dpkg ≠ q) ∧ (∀ k, s.peerOf k = some q → (r.port k).up = false) ∧ r.dmem = s.dmem)

/-! ### Collectives (14 R317 to R320, 21 R404) -/

/-- 14 R317 to R320; 21 R404: a contribution is sent packet by packet and kept until its CACK; it is sent again at most three
times, and not while its target is held; one is applied once by its tag, and one that its entry takes, repeats or refuses is
acknowledged, but not one that is stale or another partition's; a FIN and a BREL count once
for each peer that the entry names; an ABORT aborts an armed member, and marks a completed one. What rests on logs 36 and 63 is
the model's reading or choice. -/
def Obligations.CollectiveMoves : Prop :=
  ∀ (s : State) (n i src : Nat) (p : Pkt) (x : Net), n < 256 →
    let t := s.tile n
    let e := x.ent % 256
    let y := t.cent e
    let gone := s.dropInbox n i
    let cack (x : Net) : Net := { x with
      kind := 4, dpkg := x.spkg, dtile := x.stile, spkg := s.own, stile := n, daddr := 0, data := []
      vc := 0, down := false, hops := 0, igrp := none, tree := 0 }
    (∀ c e j k, t.tmHead = some c → c.coll = some (e, j, k) → c.data = [] → t.drn = none → t.killed = false →
      t.marksPass c.id false = true → ((t.cent e).piece k).2 ≤ 32 → 0 < ((t.cent e).piece k).2 →
      ((t.cent e).piece k).1 % 32 = 0 → t.pendingAt ((t.cent e).piece k).1 32 = false → k + 1 = (t.cent e).packets →
      ∃ r, exec (.contribBegin n) s = .next r ∧ (r.tile n).tmq = (t.tmq.filter fun d => d.id != c.id) ∧
        ((r.tile n).cent e).left = (t.cent e).left - 1 ∧ ((r.tile n).cent e).sent = (t.cent e).sent ++
          [⟨j, k, readBytes t.spad ((t.cent e).piece k).1 ((t.cent e).piece k).2, 0, c.id, s.tmLevel n c⟩]) ∧
    (∀ e c, (t.cent e).sent = [c] → s.heldTarget ((t.cent e).peer c.peer) = true → ∃ r, exec (.contribResend n e) s = .next r ∧
      r.tile n = t) ∧
    (∀ e c, (t.cent e).sent = [c] → s.heldTarget ((t.cent e).peer c.peer) = false → c.tries < 3 →
      ∃ r, exec (.contribResend n e) s = .next r ∧
      ((r.tile n).cent e).sent = [{ c with tries := c.tries + 1 }] ∧ ((r.tile n).cent e).state = (t.cent e).state) ∧
    (∀ e c, (t.cent e).sent = [c] → s.heldTarget ((t.cent e).peer c.peer) = false → 3 ≤ c.tries → ∃ r, exec (.contribResend n e) s = .next r ∧
      ((r.tile n).cent e).fail = true ∧ ((r.tile n).cent e).state = 3 ∧ ((r.tile n).cent e).sent = []) ∧
    (t.arrived 3 i = some (src, p, x) → s.entryCode n x = 0 → y.live x = true →
      (y.tags.contains (x.src, x.seq) = true → ∃ r, exec (.contribReceive n i) s = .next r ∧
        ((r.tile n).cent e).tags = y.tags ∧ ((r.tile n).cent e).dups = min (y.dups + 1) 65535 ∧
        (r.tile n).async = t.async ∧ (r.tile n).spad = t.spad ∧
        exec (.contribReceive n i) s = .next (((gone.modTile n fun t =>
          t.setCent e { y with dups := min (y.dups + 1) 65535 }).tileEvent n 4 0x16 x.tag e).route n (cack x))) ∧
      (y.tags.contains (x.src, x.seq) = false → y.state = 3 → exec (.contribReceive n i) s = .next (gone.route n (cack x))) ∧
      (y.tags.contains (x.src, x.seq) = false → y.state ≠ 3 → y.refuses x ≠ 0 → exec (.contribReceive n i) s = .next
        (((gone.modTile n fun t => t.setCent e { y with ovr := true }).tileEvent n 4 0x1C x.tag (e + y.refuses x * 256)).route n
          (cack x))) ∧
      (y.tags.contains (x.src, x.seq) = false → y.state ≠ 3 → y.refuses x = 0 → ∃ r, exec (.contribReceive n i) s = .next r ∧
        ((r.tile n).cent e).tags = y.tags ++ [(x.src, x.seq)] ∧ (r.tile n).async = t.async ++
          (sectorWrites 2 (laneOf 3 src) (fun a l => .accum e y.inc y.op a l) (x.data.length + 1) x.daddr x.data ++
            [⟨2, laneOf 3 src, .words e y.inc (x.data.length / 4), .cack e y.inc x⟩]) ∧ (r.tile n).spad = t.spad)) ∧
    (∀ (u : State) a inc k w, w.w = .words a inc k → w.done = .cack a inc x → ((u.tile n).cent a).inc = inc →
      u.commitOne n w = (u.modTile n (·.landWrite w.w)).route n (cack x)) ∧
    (t.arrived 3 i = some (src, p, x) → s.entryCode n x = 0 → y.live x = false → exec (.contribReceive n i) s = .next
      (gone.stale n)) ∧
    (t.arrived 3 i = some (src, p, x) → s.entryCode n x ≠ 0 → exec (.contribReceive n i) s = .next
      (gone.dieRecord (partyOf (dieOf n)) (gone.partTagged x.ptag) (gone.holdsTile n) 0x1C x.tag (e + 256))) ∧
    (∀ c, t.arrived 4 i = some (src, p, x) → y.live x = true → y.sent = [c] → c.seq = x.seq → y.rank = x.src →
      s.tgtPkg (y.peer c.peer) = x.spkg → tgtTile (y.peer c.peer) = x.stile → ∃ r, exec (.cackReceive n i) s = .next r ∧
      ((r.tile n).cent e).sent = [] ∧
      (r.tile n).async = t.async ++ (if y.left = 0 then [⟨3, 0, .event e y.inc 0, .nothing⟩] else [])) ∧
    (s.entryCode n x = 0 → y.live x = true → y.fins.contains (x.spkg * 256 + x.stile) = true ∨ s.namesPeer y x.spkg x.stile = false →
      (t.arrived 5 i = some (src, p, x) → exec (.finReceive n i) s = .next gone) ∧
      (t.arrived 7 i = some (src, p, x) → exec (.brelReceive n i) s = .next gone)) ∧
    (s.entryCode n x = 0 → y.live x = true → y.fins.contains (x.spkg * 256 + x.stile) = false →
      s.namesPeer y x.spkg x.stile = true →
      (t.arrived 5 i = some (src, p, x) → exec (.finReceive n i) s = .next (gone.modTile n fun u =>
        u.setCent e { y with fins := y.fins ++ [x.spkg * 256 + x.stile] })) ∧
      (t.arrived 7 i = some (src, p, x) → exec (.brelReceive n i) s = .next (gone.modTile n fun u =>
        u.setCent e { y with fins := y.fins ++ [x.spkg * 256 + x.stile] }))) ∧
    (∀ e, (t.cent e).due = true → (t.cent e).allfin = false → (t.cent e).isBarrier = true → exec (.allfinRelease n e) s =
      .next (s.setTile n { t with async := t.async ++ [⟨3, 0, .event e (t.cent e).inc 2, .nothing⟩] })) ∧
    (t.arrived 6 i = some (src, p, x) → s.entryCode n x = 0 → y.live x = true →
      (y.state = 1 → ∃ r, exec (.abortReceive n i) s = .next r ∧ ((r.tile n).cent e).state = 3 ∧
        ((r.tile n).cent e).sent = [] ∧ ((r.tile n).cent e).left = 0) ∧
      (y.state = 2 → y.abrx = false → ∃ r, exec (.abortReceive n i) s = .next r ∧ ((r.tile n).cent e).abrx = true ∧
        ((r.tile n).cent e).state = 2))

/-! ### Tasks, drains and watchdogs (13) -/

/-- 05 R111; 13 R268 to R274, R285, R288, R290, R295, R296: the dispatcher binds the first record that fits and refuses one
whose shape can never or whose image cannot be had; START loads the image's code and banks, sets out its staging and zeroes
the counters, and then begins every slot at its base with the record's arguments; a request begins a drain, or waits for the
handler; a stub that is late takes the default drain; a complete frame is written; a task that is over leaves its tiles,
unless CD is viral; a poisoned frame loses its task. What rests on logs 9, 18, 19, 21, 57 and 65 is the model's
reading or choice. -/
def Obligations.TaskMoves : Prop :=
  ∀ (s : State) (n i : Nat), n < 256 →
    let t := s.tile n
    (s.dispatches = false → exec .dispatchDecision s = .next s) ∧
    (∀ r qs l p, s.dispatches = true → s.examine s.poolOrder [] = some (r, some qs, l) → s.prepFor r = .ok p →
      let aged := l.foldl State.age s
      let go := exec .dispatchDecision s
      (∀ pa, aged.imageTaint r p = some pa →
        let (status, cls, source) := if (aged.rinf r).saved then (1, 21, 13) else (4, aged.lossOf pa)
        go = .next ((aged.report cls source (unitParty 0) 0 pa 0).poisonRec r ⟨status, 0, 0, cls, source⟩)) ∧
      (aged.imageTaint r p = none → aged.fit r = none → go = .next aged) ∧
      (∀ ts, aged.imageTaint r p = none → aged.fit r = some ts → ∃ u, go = .next u ∧ (∀ e ∈ u.pool, e.rcd ≠ r) ∧
        u.runs = s.runs ++ [⟨r, s.recPart r, rankTiles (s.recStages r) ts, none, false, [], none⟩])) ∧
    (∀ r qs l w, s.dispatches = true → s.examine s.poolOrder [] = some (r, some qs, l) → s.prepFor r = .error w →
      exec .dispatchDecision s = .next ((s.walkNote 0 (unitParty 0) (s.recPart r) w).poisonRec r ⟨4, 0, 0, 0, 0⟩)) ∧
    (∀ r l, s.dispatches = true → s.examine s.poolOrder [] = some (r, none, l) →
      exec .dispatchDecision s = .next (s.poisonRec r ⟨4, 0, 0, 0, 0⟩)) ∧
    (∀ v, s.resvOf i = some v → exec (.reservationTimeout i) s = .next (s.pressResv v)) ∧
    (∀ b k, t.boot = some b → t.task = some k → b.loaded = false → ∃ u, exec (.start n) s = .next u ∧
      (u.tile n).boot = some { b with loaded := true } ∧ (u.tile n).task = some k ∧ (u.tile n).drnTab = b.drains ∧
      (u.tile n).eng = .reset ∧ (∀ j, (u.tile n).ctr j = 0) ∧ (u.tile n).spad = t.spad ∧ u.dmem = s.dmem ∧
      let pins := (s.rinf b.rcd).pins
      let img := s.recAt b.rcd 8 8 + b.code
      let blk := s.pinned pins img 256
      (u.tile n).istore = writeRange t.istore 0x8000
        (s.pinned pins (img + 256) (min (64 * s.recAt b.rcd 6 2 - (b.code + 256)) 0x38000)) ∧
      (u.tile n).async = t.async ++ stageAll pins (s.opnds b.rcd) ∧
      (∀ j : Fin 12, (u.tile n).bscl.get j = w64 (fromLe ((blk.drop (16 * j.val + 8)).take 8)) &&& 0x33FFFFF#64 ∧
        ((∀ o ∈ s.opnds b.rcd, o.fmt ≠ 15 → o.sad / 0x40000 % 12 ≠ j.val) →
          (u.tile n).bfmt.get j = BitVec.ofNat 4 (fromLe ((blk.drop (16 * j.val)).take 8))) ∧
        ∀ o l, s.opnds b.rcd = l ++ [o] → o.fmt ≠ 15 → o.sad / 0x40000 % 12 = j.val →
          (u.tile n).bfmt.get j = BitVec.ofNat 4 o.fmt) ∧
      let seed := BitVec.ofNat 32 (fromLe ((blk.drop 192).take 4))
      (u.tile n).srseed = (if seed = 0 then 0x9E3779B9#32 else seed) ++ seed) ∧
    (∀ b k pa, t.boot = some b → t.task = some k → b.loaded = true → b.restore = true → t.async = [] →
      s.frameTaint b k.rank = some pa → exec (.start n) s = .next (s.report 21 13 n 0 pa 0)) ∧
    (∀ b k, t.boot = some b → t.task = some k → b.loaded = true → b.restore = false → s.startFmtBad n b.rcd = false →
      (t.async.all fun w => match w.w with
        | .stage _ _ _ => false
        | _ => true) = true →
      ∃ u, exec (.start n) s = .next u ∧
        (∀ j, ((u.tile n).slot j).pc = BitVec.ofNat 18 (b.base.getD (Slot.num j) 0) ∧ ((u.tile n).slot j).running = true ∧
          ((u.tile n).slot j).s = Vector.replicate 32 0) ∧
        (∀ j : Fin 8, (u.tile n).x.get j = w64 (s.recAt b.rcd (32 + 8 * j.val) 8)) ∧
        (u.tile n).spad = t.spad ∧ (u.tile n).inh = false ∧ (u.tile n).boot = none ∧ u.dmem = s.dmem) ∧
    ((s.party 0).viral = true → exec (.taskEnd i) s = .next s) ∧
    (∀ x, s.runs[i]? = some x → (s.party 0).viral = false → x.dead = none → (x.tiles.all fun m => (s.tile m).over_) = true →
      ∃ u, exec (.taskEnd i) s = .next u ∧ u.runs = (s.runs.filter fun y => y.rcd != x.rcd) ∧
        ∀ m ∈ x.tiles, (u.tile m).task = none ∧ (u.tile m).spad = (s.tile m).spad) ∧
    (∀ x, s.runs[i]? = some x → x.dead = none → (x.tiles.all fun m => (s.tile m).over_) = false →
      exec (.taskEnd i) s = .next s) ∧
    (∀ x d, s.runs[i]? = some x → (s.party 0).viral = false → x.dead = some d → (x.tiles.all fun m => (s.tile m).still && (s.tile m).written) = true →
      exec (.taskEnd i) s = .next (s.taskKilled x d)) ∧
    (∀ r l x, t.reqs = r :: l → t.hold = none → t.boot = none → t.phase = 0 → s.runOf n = some x → t.killed = false →
      s.allEnded x = false → t.drn = none →
      let u : Tile := { t with reqs := l }
      exec (.preemptArrive n) s = .next (s.setTile n (if t.inh then { u with preq := some (t.preq.getD r) }
        else u.beginDrain r))) ∧
    (∀ r, t.preq = some r → t.inh = true → t.hold = none → t.killed = false → t.phase = 0 →
      exec (.preemptInhTimeout n) s = .next (s.setTile n (t.beginDrain r))) ∧
    (∀ k, (t.slot k).stub = true → exec (.stubTimeout n k) s = .next (s.setTile n (t.dropStub k))) ∧
    (∀ k, (t.slot k).stub = false → exec (.stubTimeout n k) s = .next s) ∧
    (∀ d b c, t.drn = some d → t.task = some b → d.cap = some c → t.allDrained = true → t.killed = false → (s.party 0).viral = false →
      ((s.run b.rcd).all fun x => x.saves.contains b.rank) = false →
      (d.mimg = none → d.want = false → t.mayImage = true → exec (.frameComplete n) s = .next (s.setTile n (t.askImage d))) ∧
      (d.mimg.isSome || d.image.isSome → t.saveable = true → d.mimg.isSome || d.want →
        exec (.frameComplete n) s = .next ((s.writeFrame n d b).frameDone b))) ∧
    (∀ v l b, t.invals = v :: l → t.qpts = [] → t.task = some b → t.hold = none → t.drn = none →
      exec (.qptWatchdog n) s = .next (s.qptLate n b.rcd)) ∧
    (t.invals = [] → exec (.qptWatchdog n) s = .next s) ∧
    (∀ k, (t.slot k).stall ≠ none → (t.slot k).running = true → t.hold = none →
      exec (.stallWatchdog n k) s = .next (s.setTile n { t with wdog := some k }))

/-! ### Errors, the viral state, the Cartouche (18, 19, 20) -/

/-- 18 R344, R347; 19 R354, R360, R361; 20 R380, R388: an error is reported where it is detected, or met by a word of the
slot, and poisons a sector of memory; the sideband makes a party viral; rings freeze, and a frozen ring takes no event;
sections are copied, and the Cartouche is sealed with the next CAPID. What rests on logs 20, 27, 31 and 57 is the model's
reading or choice. -/
def Obligations.ErrorAndFreezeMoves : Prop :=
  ∀ (s : State) (n i : Nat),
    let t := s.tile n
    (∀ e, siteOk e = false → exec (.errorDetected e) s = .next s) ∧
    (∀ e, siteOk e = true → e.cls ≠ 2 → e.cls ≠ 4 → metBySlot e = false →
      exec (.errorDetected e) s = .next (s.report e.cls e.source e.unit e.slot e.addr e.detail)) ∧
    (∀ e, siteOk e = true → e.cls = 4 → backed e.addr = true → ∃ r, exec (.errorDetected e) s = .next r ∧
      e.addr / 32 ∈ r.poison ∧ (∀ q ∈ s.poison, q ∈ r.poison) ∧ r.dmem = s.dmem) ∧
    (∀ e, siteOk e = true → metBySlot e = true → (s.tile e.unit).task ≠ none → (s.tile e.unit).killed = false →
      ((s.tile e.unit).slot (slotOf e.slot)).running = true → ∃ r y, exec (.errorDetected e) s = .next r ∧
      (r.tile e.unit).flaws = (s.tile e.unit).flaws ++ [y] ∧ y.site.cls = e.cls ∧ r.errs = s.errs ∧ r.dmem = s.dmem) ∧
    (∀ e, siteOk e = true → metBySlot e = true → (s.tile e.unit).task = none ∨ (s.tile e.unit).killed = true →
      ∃ r y, exec (.errorDetected e) s = .next r ∧ r.errs = s.errs ++ [y] ∧ y.site.cls = e.cls ∧ y.site.unit = e.unit ∧
      r.tiles = s.tiles) ∧
    (∀ f, s.invs[i]? = some f → (s.tiles.all fun e => e.2.invals.all fun v => v.id != f.inv.id) = true →
      exec (.invalDone i) s = .next (s.invalDone f)) ∧
    (∀ l r, (s.party 0).viral = false → (tget s.frings FRing.reset i).held = l :: r → exec (.faultRingFlush i) s =
      .next (({ s with frings := tset s.frings i { tget s.frings FRing.reset i with held := r } } : State).putFault i l)) ∧
    (∀ p, p < 6 → (s.parties.any fun q => q.2.viral) = true → (s.party p).viral = false →
      ∃ r, exec (.viralSideband p) s = .next r ∧ (r.party p).viral = true ∧ r.dmem = s.dmem ∧
        (tget r.rings Ring.reset (dieRing p)).frozen = true) ∧
    (∀ src q up bysb gen row, n < 256 → t.phase = 0 → t.putsDone = true → t.inbox.find? isFreeze = some (src, q) → q.body = .freeze up bysb gen row →
      ∃ r, exec (.freezePacketArrive n) s = .next r ∧ (tget r.rings Ring.reset n).frozen = true ∧
        ((r.tile n).inbox.any isFreeze) = false ∧ (r.tile n).spad = t.spad) ∧
    (i < 262 → (s.party (ringParty i)).viral = true → (tget s.rings Ring.reset i).frozen = false →
      exec (.freezeTimeout i) s = .next (s.stopRing i) ∧ (tget (s.stopRing i).rings Ring.reset i).frozen = true) ∧
    (256 ≤ i → s.stopRing i = { s with rings := tset s.rings i { tget s.rings Ring.reset i with frozen := true } }) ∧
    (∀ (r : Ring) c e, r.frozen = true → r.offer c e = r) ∧
    (∀ v a, s.viral = some v → s.assembling = true → i < 264 → 262 ≤ i ∨ (tget s.rings Ring.reset i).frozen = true →
      a = s.asm.getD ⟨s.oldest, [], [], []⟩ → a.has i = false → ((List.range 264).all (s.copySect a i).1.has) = false →
      ∃ r, exec (.cartoucheAssemble i) s = .next r ∧ r.asm = some (s.copySect a i).1 ∧ r.dmem = s.dmem) ∧
    (∀ v, s.viral = some v → s.assembling = true → ∃ r, exec .sealDeadline s = .next r ∧ r.asm = none ∧
      r.viral = some { v with done := true } ∧ r.nv.capid = s.nv.capid + 1 ∧ r.assembling = false)

/-! ### Recovery (12, 19) -/

/-- 05 R118; 12 R247 to R250; 19 R365 to R368, R374: a debugger holds and releases a die; a die in reset is quiet, retrained
or dropped; a packet held too long is reported in its partition's name; a resurvey is begun and ended with every clock and
credit as after reset and the generation one higher; a snapshot begins, is sent again, acknowledged, sealed by its manifest
and taken. What rests on logs 29, 54, 63 and 64 is the model's reading or choice. -/
def Obligations.RecoveryMoves : Prop :=
  ∀ (s : State) (d i p q : Nat),
    (d < 4 → (s.die d).stat = 0 → (s.party (partyOf d)).viral = false → exec (.debugHold d) s = .next (s.holdDie d)) ∧
    ((s.die 0).stat = 4 → (s.party 1).viral = false → exec (.debugHold 0) s = .next (s.holdDie 0)) ∧
    (d < 4 → ∀ n, n < 256 → dieOf n = d → ((s.holdDie d).tile n).hold ≠ none ∧ ((s.holdDie d).die d).stat = 1) ∧
    (d < 4 → (s.die d).stat = 1 → ∃ r, exec (.debugRelease d) s = .next r ∧
      (r.die d).stat = s.served d ∧ r.dmem = s.dmem) ∧
    (∀ drop l, d < 4 → (s.die d).quies = some (drop, false, l) → s.runsOn d = [] → ∃ r, exec (.dieQuiesceTimeout d) s = .next r ∧
      (r.die d).stat = (if drop then 3 else 2) ∧ (r.die d).l2 = [] ∧ r.dmem = s.dmem) ∧
    (∀ ok l, d < 4 → (s.die d).quies = some (false, true, l) → s.runsOn d = [] → ∃ r, exec (.dieRetrainDone d ok) s = .next r ∧
      (r.die d).stat = (if ok then s.served d else 3) ∧ (r.die d).quies = none ∧ r.jseq = s.jseq + l.length) ∧
    (d < 4 → 16 ≤ (s.die d).errs → (s.die d).stat ≠ 2 → (s.die d).stat ≠ 3 →
      exec (.dieDropThreshold d) s = .next (s.quiesce d true [])) ∧
    (d < 4 → (s.die d).errs < 16 → exec (.dieDropThreshold d) s = .next s) ∧
    (∀ x, p < 6 → (s.party p).hold[i]? = some x → exec (.holdTimeout p i) s =
      .next ((s.reportBody p 9 9 x.pkt.body).trigger 0)) ∧
    (∀ x : Net, s.reportBody p 9 9 (.net x) = s.reportPkt 9 9 (unitParty p) x.ptag) ∧
    (p < 6 → q < 6 → p ≠ q → bitAt s.clkmask p = false → bitAt s.clkmask q = false → exec (.interdieLinkError p q) s =
      .next ((s.report 7 9 (unitParty p) 0 0 0).trigger 0)) ∧
    (exec (.removalOfAParty 0) s = .next (s.report 29 15 (unitParty 0) 0 0 0)) ∧
    (0 < p → p < 6 → bitAt s.clkmask p = false → ∃ r, exec (.removalOfAParty p) s = .next r ∧
      r.survey = some (s.survey.getD 0 ||| 2 ^ p)) ∧
    (s.survey = none → exec .resurveyResume s = .next s) ∧
    (∀ mask, s.survey = some mask → ∃ r, exec .resurveyResume s = .next r ∧ r.survey = none ∧
      r.clkmask = nextMask s.clkmask mask ∧ ∀ a, a < 6 → (r.party a).m = Vector.replicate 36 0 ∧
        (r.party a).dlv = Vector.replicate 6 0 ∧ (r.party a).gen = (s.party a).gen + 1 ∧ (r.party a).hold = [] ∧
        (r.party a).cred = Vector.replicate 6 64 ∧ (r.party a).shared = 704 ∧ (r.party a).lent = Vector.replicate 6 0) ∧
    (∀ x, s.snap = some x → x.begun = false → s.snapReady x = true → s.maySnap = true →
      ∃ r, exec .snapshotBegin s = .next r ∧ r.taken = some (s.keep x) ∧
        r.snap = some { x with begun := true, wait := (List.range (s.snapCount (s.keep x))).map fun i => (i, 0) } ∧
        r.dmem = s.dmem) ∧
    (∀ x k c, s.snap = some x → x.wait[i]? = some (k, c) →
      (c < 3 → ∃ r, exec (.snapshotResend i) s = .next r ∧ r.snap = some { x with wait := x.wait.set i (k, c + 1) }) ∧
      (3 ≤ c → ∃ r, exec (.snapshotResend i) s = .next r ∧ r.snap = none ∧ r.taken = none ∧ r.jseq = s.jseq + 1)) ∧
    (∀ x w, s.snap = some x → s.peerOf p = some q → x.begun = true → (s.port p).up = true →
      s.maySnap = true → x.wait = [w] → ∃ r, exec (.snapshotAckReceive p) s = .next r ∧ r.snap = none ∧
        r.jseq = s.jseq + 1 ∧ ∀ k, s.taken = some k → k.seal ∈ r.kept) ∧
    (s.maySnap = false → exec .snapshotBegin s = .next s ∧ exec (.snapshotAckReceive p) s = .next s) ∧
    (s.peerOf p = some q → (s.port p).up = true → s.cutOff = false → ∃ m, pkgGroup m = pkgGroup s.own ∧
      exec (.snapshotPacketReceive p) s = .next (({ s with free := s.free + 1 } : State).snapTake m))

/-! ### The host (01 R15, 05 R118, 19 R362, 21) -/

/-- 01 R14, R15; 05 R118; 19 R362; 21 R396, R398, R399: training, the full service and the package number, of a group and a member
that exist; a debugger; the queue registers, which read as they stand, and of which QTAIL waits while the queue is stopped; a cold
reset, which keeps the non-volatile store alone of what the package holds. What rests on logs 25 and 28 is the model's reading or
choice. -/
def Obligations.HostMoves : Prop :=
  ∀ (s : State) (fn q : Nat) (v : W64) (x : BitVec 32) (g : BitVec 17) (m : BitVec 9), fn < 64 → q < 16 →
    let k := 16 * fn + q
    let u := s.queue k
    exec .trainingComplete s = .next { s with trained := true } ∧
    (s.trained = true → s.full = false → s.runs = [] → ∃ r, exec .fullServiceBegin s = .next r ∧ r.full = true ∧
      r.dmem = s.dmem ∧ ∀ d, d < 4 → (r.die d).stat = (if (s.die d).stat = 4 then 0 else (s.die d).stat)) ∧
    (s.trained = false ∨ s.full = true ∨ s.runs ≠ [] → exec .fullServiceBegin s = .next s) ∧
    (s.full = true → g.toNat ≤ 73728 → m.toNat ≤ 383 → exec (.packageNumberAssign g m) s = .next { s with pval := true, group := g, member := m }) ∧
    (s.full = false ∨ 73728 < g.toNat ∨ 383 < m.toNat → exec (.packageNumberAssign g m) s = .next s) ∧
    (∀ p, p < 64 → exec (.debuggerAttach p true) s = .next { s with dbg := s.dbg.filter (· != p) ++ [p] } ∧
      exec (.debuggerAttach p false) s = .next { s with dbg := s.dbg.filter (· != p) }) ∧
    ((s.party 0).viral = false → s.bar0 fn (0x1000 + 32 * q) 32 = some u.bytes) ∧
    (u.stop = false → exec (.qtailWrite fn q x) s = .next (s.setQueue k { u with tail := x })) ∧
    (u.stop = true → exec (.qtailWrite fn q x) s = .next (s.setQueue k { u with late := some x })) ∧
    (u.stop = true → exec (.queueRestart fn q) s =
      .next (s.setQueue k { u with stop := false, tail := u.late.getD u.tail, late := none })) ∧
    (exec (.hostRegWrite fn (0x1000 + 32 * q) v) s = .next (s.setQueue k { u with base := v &&& ~~~0xFFF#64 })) ∧
    (8 ≤ fld v 0 5 → fld v 0 5 ≤ 20 → exec (.hostRegWrite fn (0x1000 + 32 * q + 8) v) s =
      .next (s.setQueue k { u with size := fld v 0 5 })) ∧
    (u.stop = true → exec (.hostRegWrite fn (0x1000 + 32 * q + 16) v) s =
      .next (s.setQueue k { u with head := v.setWidth 32 })) ∧
    (∃ r, exec .coldReset s = .next r ∧ r = { State.reset with
      free := s.free, hmem := s.hmem, kept := s.kept, nv := { s.nv with resets := s.nv.resets + 1, jhead := 0 } })

/-- 14 R314; 19 R355, R363, R367, R370, R374; 21 R396 to R398, R402: a packet that is accepted writes an ACCEPTED entry,
consumes its units, which are counted, and has its effect; one that is refused stops its queue, leaves QHEAD on it and raises
the error interrupt. What rests on logs 9, 25, 26, 28, 29, 57 and 64 is the model's reading or choice, and so is it, in log 66,
that reserved bits of the value of TMOSET, POWER and FABSET are ignored. -/
def Obligations.QueueCommands : Prop :=
  ∀ (s : State) (fn q : Nat) (x : Packet), fn < 64 → q < 16 → (s.party 0).viral = false → s.snapHolds fn = false →
    s.packet fn q = some x →
    let acc (i : Instr) (cmd len : Nat) (pf : Bool) (chk : Nat) (rcd : Nat) (eff : Nat → State → State) : Prop :=
      x.cmd = cmd →
        (x.formErr len len pf = 0 → chk = 0 → exec i s = .next (eff (s.accept x rcd).1 (s.accept x rcd).2)) ∧
        (x.formErr len len pf ≠ 0 → exec i s = .next (s.reject x rcd (x.formErr len len pf))) ∧
        (x.formErr len len pf = 0 → chk ≠ 0 → exec i s = .next (s.reject x rcd chk))
    let r := x.rcd
    let ok (p : Nat → Bool) : Nat := s.recErr x p
    (knownCmd x.cmd = false → exec (.cmdNop fn q) s = .next (s.reject x noRec 2)) ∧
    (x.cmd = 0 → x.formErr 1 17 false = 0 → exec (.cmdNop fn q) s = .next (s.accept x noRec).2) ∧
    (x.cmd = 0 → x.formErr 1 17 false ≠ 0 → exec (.cmdNop fn q) s = .next (s.reject x noRec (x.formErr 1 17 false))) ∧
    acc (.build fn q) 0x01 17 false (s.buildErr x) r (fun j s => s.buildRec x.a j x.body) ∧
    acc (.arm fn q) 0x02 1 false (ok (· == recBuilt)) r
      (fun j s => (s.setRinf x.a { s.rinf x.a with jref := j }).armRec x.a) ∧
    acc (.release fn q) 0x03 1 false (ok fun st => st == recDone || st == recPoisoned) r
      (fun _ s => s.setRecState x.a recFree) ∧
    acc (.preempt fn q) 0x04 1 false (ok (· == recRunning)) r
      (fun _ s => if s.recPin x.a then s else s.request x.a 11 false []) ∧
    acc (.resolve fn q) 0x05 1 false (ok fun _ => true) r (fun _ s => s.resolveRec x.a) ∧
    acc (.inval fn q) 0x06 2 false (s.invalErr x) noRec (fun j s => s.invalidate (x.inval s.invn) j) ∧
    acc (.jread fn q) 0x07 1 false 0 noRec (fun _ s => s.toHost x.fn x.b ((s.shown x.fn x.a).flatMap id)) ∧
    acc (.capsList fn q) 0x08 1 false 0 noRec (fun _ s => s.toHost x.fn x.b ((List.range 9).flatMap (s.capsEntry x.fn))) ∧
    acc (.capsRead fn q) 0x09 2 false (s.capsErr x) noRec (fun _ s =>
      (s.openView x.capSlot x.capView x.capPart).toHost x.fn x.b
        (((s.viewBytes x.capSlot x.capView x.capPart).drop (x.lo 1).toNat).take (x.hi 1).toNat)) ∧
    acc (.partset fn q) 0x20 17 true (s.partsetErr x) noRec (fun j s => s.partset x.a j (partOf x.body)) ∧
    (∀ p j e, s.psets.find? (fun y => y.1 == x.a) = some (p, e, j) → s.mayGrant p e = true →
      exec (.partsetDone x.a) s = .next (s.granted p j e)) ∧
    acc (.sevset fn q) 0x21 17 true (if sevOk x.body then 0 else 5) noRec (fun _ s => { s with matrix := sevTab x.body }) ∧
    acc (.tmoset fn q) 0x22 1 true (if ftmoOk x.b then 0 else 5) noRec
      (fun _ s => { s with fab := { s.fab with ftmo := x.b &&& 0xFFFFFFFFFFFF#64 } }) ∧
    acc (.wdset fn q) 0x23 1 true (wdErr x) noRec
      (fun _ s => { s with wd := tset s.wd x.a (fld x.b 0 32, fld x.b 32 32) }) ∧
    acc (.power fn q) 0x24 1 true (if slewOk x.b then 0 else 5) noRec
      (fun _ s => { s with slew := x.b &&& 0xFFFFFFFF007FFFFF#64 }) ∧
    acc (.diereset fn q) 0x25 1 true (if x.a < 4 then 0 else 5) noRec (fun j s => s.quiesce x.a false [j]) ∧
    acc (.diedrop fn q) 0x26 1 true (if x.a < 4 then 0 else 5) noRec (fun _ s => s.quiesce x.a true []) ∧
    acc (.snapshot fn q) 0x27 2 true (s.snapErr x) noRec
      (fun j s => { s with snap := some ⟨x.a, x.b, x.lo 1, x.snapTc, false, [], j⟩ }) ∧
    acc (.snaprest fn q) 0x28 2 true (s.restErr x) noRec (fun j s => s.snapRestore x j) ∧
    ((s.viral.all fun v => v.done) = true → acc (.pkgreset fn q) 0x29 1 true 0 noRec (fun _ s => s.warm)) ∧
    let reg := x.a / 2 ^ 16 % 4
    let i : Instr := if reg = 1 then .fabsetRcfg fn q else if reg = 2 then .fabsetTcw fn q else .fabsetPctl fn q
    (x.cmd = 0x2A → x.formErr 2 2 true ≠ 0 → exec i s = .next (s.reject x noRec (x.formErr 2 2 true))) ∧
    (x.cmd = 0x2A → x.formErr 2 2 true = 0 →
      let port := x.a % 1024
      let one (s : State) (p : Nat) : State := s.setPort p { s.port p with symth := fld x.b 0 8, rrth := fld x.b 8 16 }
      let next := (s.accept x noRec).2
      let clear := x.a / 2 ^ 10 % 2 ^ 6 = 0 ∧ x.a / 2 ^ 18 = 0 ∧ x.lo 1 = 0 ∧ x.hi 1 = 0
      (¬clear → exec i s = .next (s.reject x noRec 1)) ∧
      (clear → reg = 3 ∨ (576 ≤ port ∧ port ≠ 0x3FF) → exec i s = .next (s.reject x noRec 5)) ∧
      (clear → reg = 0 → fld x.b 0 8 = 0 ∨ fld x.b 8 16 = 0 → exec i s = .next (s.reject x noRec 5)) ∧
      (clear → reg = 0 → fld x.b 0 8 ≠ 0 → fld x.b 8 16 ≠ 0 →
        (port < 576 → exec i s = .next (one next port)) ∧
        (port = 0x3FF → exec i s = .next ((List.range 576).foldl one next))) ∧
      (clear → port < 576 ∨ port = 0x3FF →
        (reg = 1 → exec i s = .next { next with fab := { next.fab with rcfg := x.b &&& 0xFFFF#64 } }) ∧
        (reg = 2 → exec i s = .next { next with fab := { next.fab with tcw := x.b } }))) ∧
    (∀ rcd, (s.accept x rcd).2.jseq = s.jseq + 1 ∧ (s.accept x rcd).1 = s.jseq + 1 ∧
      ((s.accept x rcd).2.queue (qKey x.fn x.q)).head = x.que.head + BitVec.ofNat 32 x.len ∧
      ((s.accept x rcd).2.queue (qKey x.fn x.q)).used = x.que.used + x.len) ∧
    (∀ rcd e, ((s.reject x rcd e).queue (qKey x.fn x.q)).stop = true ∧
      ((s.reject x rcd e).queue (qKey x.fn x.q)).err = e ∧
      ((s.reject x rcd e).queue (qKey x.fn x.q)).head = x.que.head ∧ (x.fn, 1) ∈ (s.reject x rcd e).irqs)

/-! ### The machine as a whole -/

/-- 01 R12 to R15, 12 R249, 13 R277, 14 R314, 19 R356, R363, R366, R370, 21 R402: what the spec says stands after a cold
reset; every other field is at the value that logs 4 to 6 name. What rests on log 5 is the model's reading or choice. -/
def Obligations.ResetState : Prop :=
  let s := State.reset
  (∀ n, (s.tile n).task = none ∧ (s.tile n).cyc = 0 ∧ (s.tile n).inh = false ∧
    (∀ k, ((s.tile n).slot k).running = false ∧ (s.tile n).readS k 0 = 0 ∧ (s.tile n).readG k 0 = true) ∧
    (∀ b, (s.tile n).bar b = ⟨4, 0, []⟩) ∧ (∀ c, (s.tile n).ctr c = 0)) ∧
  (∀ d, (s.die d).stat = 4 ∧ (s.die d).rdc = []) ∧
  (∀ p, (s.party p).m = Vector.replicate 36 0 ∧ (s.party p).dlv = Vector.replicate 6 0 ∧ (s.party p).gen = 0 ∧
    (s.party p).cred = Vector.replicate 6 64 ∧ (s.party p).viral = false) ∧
  (∀ p, (s.port p).up = false ∧ (s.port p).symth = 32 ∧ (s.port p).rrth = 64) ∧
  s.fab.rcfg = 64 ∧ s.fab.tcw = 0x0101010101010101#64 ∧ s.fab.ftmo = 0x000001F401F40032#64 ∧ s.clkmask = 0 ∧
  s.slew = 0x0001000000640000#64 ∧ s.jseq = 0 ∧ s.pval = false ∧ s.full = false ∧ s.viral = none ∧ s.runs = [] ∧
  (∀ r, s.recState r = recFree) ∧ (∀ p, (s.partE p).valid = false) ∧ (∀ c k, c < 32 → k < 16 → s.action c k = sevDefault c) ∧
  (∀ a n, s.readPa a n = List.replicate n 0)

/-- 03 R40 to R51, R61 to R66 and the encodings worked out in 03, 05, 06, 07 and 08: words that the spec writes out decode to the
instructions that they stand for, and words that it refuses are refused by the step of R51 that fails. -/
def Obligations.WordsOfTheSpecDecode : Prop :=
  decode .c 0x0000002FC00003E8#64 = .ok (Ctl.plain, .pfxK 0x3E8#44) ∧
  decode .c 0x0080000004172000#64 = .ok ({ Ctl.plain with idle := 2 }, .add (.s 4) (.s 5) .k) ∧
  decode .v 0x0000002F800160C0#64 = .ok (Ctl.plain, .pfxSm ⟨0, 0, 0⟩ ⟨1, 3, 3⟩ ⟨0, 0, 0⟩) ∧
  decode .v 0x0000004004146000#64 = .ok (Ctl.plain, .vadd 4 5 6 ⟨.rne, false⟩) ∧
  decode .v 0x00C0002000000000#64 = .ok ({ Ctl.plain with idle := 3 }, .nop) ∧
  decode .v 0x00001C2000000000#64 = .ok ({ Ctl.plain with tok := .push 2 }, .nop) ∧
  decode .v 0x0060002000000000#64 = .ok ({ Ctl.plain with idle := 1, sync := true }, .nop) ∧
  decode .c 0x0000002040FFFFFD#64 = .ok (Ctl.plain, .br 0xFFFFFD#24) ∧
  decode .c 0x00000021400C0004#64 = .ok (Ctl.plain, .loop (.s 3) 4#18) ∧
  decode .m 0x0000008002140000#64 = .ok (Ctl.plain, .mln 2 (.s 5)) ∧
  decode .m 0x0000008180240000#64 = .ok (Ctl.plain, .mgo (.s 9)) ∧
  decode .m 0x000000A0C5180000#64 = .ok (Ctl.plain, .cleaf (.s 5) (.s 6)) ∧
  decode .v 0x010000409B6DC000#64 = .ok ({ Ctl.plain with idle := 4 }, .vmul 27 27 28 ⟨.rne, false⟩) ∧
  decode .v 0x00800070CC34E3C5#64 = .ok ({ Ctl.plain with idle := 2 }, .vpart 12 13 14 15 5) ∧
  decode .v 0x00000020DD00000B#64 = .ok (Ctl.plain, .call 29 11#24) ∧
  decode .c 0x0000004004146000#64 = .error .illSlot ∧
  decode .c 0x000000FFC0000000#64 = .error .unassigned ∧
  decode .c 0x0000000004172001#64 = .error .badField

/-- 03 R40 to R66: every well-formed instruction has a word, and the word decodes to it and to its control fields, with every
operand at every value that the encoding admits. -/
def Obligations.DecodeOfEncode : Prop :=
  ∀ (k : Slot) (c : Ctl) (i : Instr), wellFormed k c i = true → ∃ w, encode c i = some w ∧ decode k w = .ok (c, i)

/-- 10 R186, 03 R42, R50 to R54: a step of a tile that looks at a slot whose word is eligible, and whose tile has no error
waiting for it (log 20), runs exec on the instruction that the bytes at the slot's PC decode to, in the state that names the
word; an annulled word goes on without effect; a step whose move is an event runs exec on that event. Errors detected are
acted on at the end of the step, or of the tile's cycle. That a SYNC word of C's handler is no plain one after its task's TASKEND
while other slots run is the model's reading in log 55. -/
def Obligations.StepRunsTheDecodedInstruction : Prop :=
  (∀ (s : State) (n : Nat) (k : Slot) (rest : List Move) (c : Ctl) (i : Instr), n < 256 → s.agenda = .tile n :: rest →
    let t := s.tile n
    let x := t.slot k
    let w := t.fetch x.wordPc
    let after (r : State) : State :=
      let r' := if k = .a then r.settleAhead n else r
      if ((r'.tile n).slot k).pre.words = x.pre.words + 1 then r' else r'.bump n
    let runs (f : State → State) : Host.Outcome State Fault Refusal :=
      match exec i (s.setCur n k c true false false) with
      | .next r => .next (after (f r)).settleStep
      | .fault y => .fault y
      | .refused y => .refused y
    t.phase = 1 + Slot.num k → t.chain.stop = none → t.flaws = [] → t.wdog = none → t.fence = none →
    t.active k = true → t.eligibleAt k ≤ t.cyc → decode k w = .ok (c, i) → isPrefix w || prefixOk x.pre w →
    (c.sync = false ∨ t.alone k = true → t.guards k c = true → step s = runs id) ∧
    (∀ run, run = t.runners ∨ run = .c :: t.runners → c.sync = true → t.bundle = .act run → run.contains k = true →
      (t.guards k c = true → step s = runs fun r => r.syncEvent n k x.wordPc run) ∧
      (t.guards k c = false → step s = .next (after ((s.setTile n (t.annul k)).syncEvent n k x.wordPc run)).settleStep)) ∧
    (c.sync = false ∨ t.alone k = true → t.guards k c = false →
      step s = .next (after (s.setTile n (t.annul k))).settleStep)) ∧
  (∀ (z : State) j l, z.agenda = .event j :: l → j.isMove = true → step z = match exec j { z with agenda := l } with
    | .next r => .next r.settleStep
    | .fault f => .fault f
    | .refused f => .refused f)

/-- 10 R195, 11 R211: device and host memory stay in their one form, rising addresses and no listed zero byte, in every step
from every state. What rests on log 5 is the model's reading or choice. -/
def Obligations.MemoryStaysCanonical : Prop :=
  ∀ (s t : State), Memory.wf s.dmem = true → Memory.wf s.hmem = true → step s = .next t →
    Memory.wf t.dmem = true ∧ Memory.wf t.hmem = true

/-- 10 R195, 11 R211: device and host memory have their one form after reset. What rests on log 5 is the model's reading or
choice. -/
def Obligations.MemoryCanonicalAtReset : Prop := Memory.wf State.reset.dmem = true ∧ Memory.wf State.reset.hmem = true
end

