-- ==== Sys2Proof/Laws/Decode.lean ====
section
/-! SUPPORT. The laws of the decoder and the encoder: a word's fields are those it was made of, and each code is read as what
it was written for. -/

namespace Sys2Proof.Laws

/-- A field of a joined word that lies in its upper part. -/
theorem append_hi {n m : Nat} (a : BitVec n) (b : BitVec m) (lo k : Nat) (h : m ≤ lo) :
    (a ++ b).extractLsb' lo k = a.extractLsb' (lo - m) k := by
  ext i hi
  simp [BitVec.getLsbD_append]
  have : ¬ lo + i < m := by omega
  simp [this]; congr 1; omega

/-- A field of a joined word that lies in its lower part. -/
theorem append_lo {n m : Nat} (a : BitVec n) (b : BitVec m) (lo k : Nat) (h : lo + k ≤ m) :
    (a ++ b).extractLsb' lo k = b.extractLsb' lo k := by
  ext i hi
  simp [BitVec.getLsbD_append]
  intro; omega

theorem ext_self {n : Nat} (a : BitVec n) : a.extractLsb' 0 n = a := by ext i hi; simp

/-- The fields of the word that holds given fields are those fields (03 R40). -/
theorem ofWord_toWord (f : Fields) : Fields.ofWord f.toWord = f := by
  obtain ⟨a, b, c, d, e, g, h, i, j, k, l, m⟩ := f
  simp only [Fields.ofWord, Fields.toWord, Fields.mk.injEq]
  refine ⟨?_, ?_, ?_, ?_, ?_, ?_, ?_, ?_, ?_, ?_, ?_, ?_⟩ <;>
    (repeat first | rw [append_lo _ _ _ _ (by decide)] | rw [append_hi _ _ _ _ (by decide)]) <;> exact ext_self _

/-! ### Each code is read as what it was written for (03 R43 to R46, R48) -/

@[simp] theorem codeSrc_srcCode (a : Src) : codeSrc (srcCode a) = some a := by
  cases a with
  | s n => revert n; decide
  | x n => revert n; decide
  | lq => rfl
  | k => rfl
  | con n => revert n; decide

theorem codeQ_srcCode {a : Src} (h : a.okQ = true) : codeQ (srcCode a) = some a := by
  cases a with
  | s n => revert n; decide
  | x n => revert n; decide
  | lq => cases h
  | k => rfl
  | con n => revert n; decide

@[simp] theorem codeDst_dstCode (a : Dst) : codeDst (dstCode a) = some a := by
  cases a with
  | s n => revert n; decide
  | sq => rfl

@[simp] theorem codeXDst_xdstCode (a : XDst) : codeXDst (xdstCode a) = some a := by
  cases a with
  | s n => revert n; decide
  | x n => revert n; decide
  | sq => rfl

@[simp] theorem codeReg_regCode (n : Fin 32) : codeReg (regCode n) = some n := by revert n; decide

@[simp] theorem codeGrd_grdCode (n : Fin 8) : codeGrd (grdCode n) = some n := by revert n; decide

@[simp] theorem codeBit_bitCode (b : Bool) : codeBit (bitCode b) = some b := by cases b <;> rfl

@[simp] theorem codeMode_modeCode (m : Mode) : codeMode (modeCode m) = some m := by
  obtain ⟨r, o⟩ := m; cases r <;> cases o <;> rfl

@[simp] theorem codeRnd_rndCode (r : Rnd) : codeRnd (rndCode r).toNat = some r := by cases r <;> rfl

@[simp] theorem codeHint_hintCode (h : Hint) : codeHint (hintCode h) = h := by cases h <;> rfl

@[simp] theorem codeGuard_guardCode (g : GuardF) : codeGuard (guardCode g) = g := by
  obtain ⟨b, i⟩ := g; revert b i; decide

@[simp] theorem codeTok_tokCode (t : Tok) : codeTok (tokCode t) = some t := by
  cases t with
  | none => rfl
  | pop k => revert k; decide
  | push k => revert k; decide

@[simp] theorem codeSMod_smodCode (m : SMod) : codeSMod (smodCode m) = m := by
  obtain ⟨a, b, c⟩ := m
  simp only [codeSMod, smodCode, SMod.mk.injEq]
  refine ⟨?_, ?_, ?_⟩ <;>
    (repeat first | rw [append_lo _ _ _ _ (by decide)] | rw [append_hi _ _ _ _ (by decide)]) <;> exact ext_self _

@[simp] theorem codeCtl_fields (c : Ctl) (h op a b d e g) : codeCtl (fields c h op a b d e g) = some c := by
  obtain ⟨i, s, ga, gb, t⟩ := c
  simp [codeCtl, fields]; cases s <;> rfl

/-- A word that is no prefix decodes as its fields do. -/
theorem decode_fields {k : Slot} {c : Ctl} {i : Instr} {h op a b d e g}
    (h1 : op ≠ 0x0BF#10) (h2 : op ≠ 0x0BE#10) (hd : decodeFields k (fields c h op a b d e g) = .ok (c, i)) :
    decode k (fields c h op a b d e g).toWord = .ok (c, i) := by
  have ho : (fields c h op a b d e g).toWord.extractLsb' 30 10 = op :=
    congrArg Fields.op (ofWord_toWord (fields c h op a b d e g))
  unfold decode
  rw [ho, if_neg h1, if_neg h2, ofWord_toWord, hd]

end Sys2Proof.Laws
end

