-- ==== Sys2Proof/Laws/Dispatch.lean ====
section
/-! SUPPORT. Which meaning exec calls for each instruction. -/

namespace Sys2Proof.Machine

@[simp] theorem exec_add (d : Dst) (a b : Src) (s : State) : exec (.add d a b) s = execAdd d a b s := rfl
@[simp] theorem exec_sub (d : Dst) (a b : Src) (s : State) : exec (.sub d a b) s = execSub d a b s := rfl
@[simp] theorem exec_mul (d : Dst) (a b : Src) (s : State) : exec (.mul d a b) s = execMul d a b s := rfl
@[simp] theorem exec_mulh (d : Dst) (a b : Src) (s : State) : exec (.mulh d a b) s = execMulh d a b s := rfl
@[simp] theorem exec_mulhs (d : Dst) (a b : Src) (s : State) : exec (.mulhs d a b) s = execMulhs d a b s := rfl
@[simp] theorem exec_div (d : Dst) (a b : Src) (s : State) : exec (.div d a b) s = execDiv d a b s := rfl
@[simp] theorem exec_divs (d : Dst) (a b : Src) (s : State) : exec (.divs d a b) s = execDivs d a b s := rfl
@[simp] theorem exec_rem (d : Dst) (a b : Src) (s : State) : exec (.rem d a b) s = execRem d a b s := rfl
@[simp] theorem exec_rems (d : Dst) (a b : Src) (s : State) : exec (.rems d a b) s = execRems d a b s := rfl
@[simp] theorem exec_min (d : Dst) (a b : Src) (s : State) : exec (.min d a b) s = execMin d a b s := rfl
@[simp] theorem exec_mins (d : Dst) (a b : Src) (s : State) : exec (.mins d a b) s = execMins d a b s := rfl
@[simp] theorem exec_max (d : Dst) (a b : Src) (s : State) : exec (.max d a b) s = execMax d a b s := rfl
@[simp] theorem exec_maxs (d : Dst) (a b : Src) (s : State) : exec (.maxs d a b) s = execMaxs d a b s := rfl
@[simp] theorem exec_sel (d : Dst) (g : Fin 8) (a b : Src) (s : State) : exec (.sel d g a b) s = execSel d g a b s := rfl
@[simp] theorem exec_movk (d : Dst) (imm : BitVec 24) (s : State) : exec (.movk d imm) s = execMovk d imm s := rfl
@[simp] theorem exec_movkh (d : Fin 32) (imm : BitVec 20) (s : State) : exec (.movkh d imm) s = execMovkh d imm s := rfl
@[simp] theorem exec_xmov (d : XDst) (a : Src) (s : State) : exec (.xmov d a) s = execXmov d a s := rfl
@[simp] theorem exec_rgn (d : Dst) (base stride count : Src) (fmt : BitVec 4) (list : Bool) (s : State) : exec (.rgn d base stride count fmt list) s = execRgn d base stride count fmt list s := rfl
@[simp] theorem exec_and (d : Dst) (a b : Src) (s : State) : exec (.and d a b) s = execAnd d a b s := rfl
@[simp] theorem exec_or (d : Dst) (a b : Src) (s : State) : exec (.or d a b) s = execOr d a b s := rfl
@[simp] theorem exec_xor (d : Dst) (a b : Src) (s : State) : exec (.xor d a b) s = execXor d a b s := rfl
@[simp] theorem exec_andn (d : Dst) (a b : Src) (s : State) : exec (.andn d a b) s = execAndn d a b s := rfl
@[simp] theorem exec_shl (d : Dst) (a b : Src) (s : State) : exec (.shl d a b) s = execShl d a b s := rfl
@[simp] theorem exec_shr (d : Dst) (a b : Src) (s : State) : exec (.shr d a b) s = execShr d a b s := rfl
@[simp] theorem exec_sra (d : Dst) (a b : Src) (s : State) : exec (.sra d a b) s = execSra d a b s := rfl
@[simp] theorem exec_rot (d : Dst) (a b : Src) (s : State) : exec (.rot d a b) s = execRot d a b s := rfl
@[simp] theorem exec_clz (d : Dst) (a : Src) (s : State) : exec (.clz d a) s = execClz d a s := rfl
@[simp] theorem exec_ctz (d : Dst) (a : Src) (s : State) : exec (.ctz d a) s = execCtz d a s := rfl
@[simp] theorem exec_popc (d : Dst) (a : Src) (s : State) : exec (.popc d a) s = execPopc d a s := rfl
@[simp] theorem exec_extr (d : Dst) (a : Src) (pos lenm1 : BitVec 6) (s : State) : exec (.extr d a pos lenm1) s = execExtr d a pos lenm1 s := rfl
@[simp] theorem exec_ins (d : Fin 32) (a : Src) (pos lenm1 : BitVec 6) (s : State) : exec (.ins d a pos lenm1) s = execIns d a pos lenm1 s := rfl
@[simp] theorem exec_clmul (d : Dst) (a b : Src) (s : State) : exec (.clmul d a b) s = execClmul d a b s := rfl
@[simp] theorem exec_clmulh (d : Dst) (a b : Src) (s : State) : exec (.clmulh d a b) s = execClmulh d a b s := rfl
@[simp] theorem exec_gand (d g1 g2 : Fin 8) (s : State) : exec (.gand d g1 g2) s = execGand d g1 g2 s := rfl
@[simp] theorem exec_gor (d g1 g2 : Fin 8) (s : State) : exec (.gor d g1 g2) s = execGor d g1 g2 s := rfl
@[simp] theorem exec_gnot (d g1 : Fin 8) (s : State) : exec (.gnot d g1) s = execGnot d g1 s := rfl
@[simp] theorem exec_cmpEq (d : Fin 8) (a b : Src) (s : State) : exec (.cmpEq d a b) s = execCmpEq d a b s := rfl
@[simp] theorem exec_cmpNe (d : Fin 8) (a b : Src) (s : State) : exec (.cmpNe d a b) s = execCmpNe d a b s := rfl
@[simp] theorem exec_cmpLt (d : Fin 8) (a b : Src) (s : State) : exec (.cmpLt d a b) s = execCmpLt d a b s := rfl
@[simp] theorem exec_cmpLts (d : Fin 8) (a b : Src) (s : State) : exec (.cmpLts d a b) s = execCmpLts d a b s := rfl
@[simp] theorem exec_cmpLe (d : Fin 8) (a b : Src) (s : State) : exec (.cmpLe d a b) s = execCmpLe d a b s := rfl
@[simp] theorem exec_cmpLes (d : Fin 8) (a b : Src) (s : State) : exec (.cmpLes d a b) s = execCmpLes d a b s := rfl
@[simp] theorem exec_nop (s : State) : exec (.nop) s = execNop s := rfl
@[simp] theorem exec_br (disp : BitVec 24) (s : State) : exec (.br disp) s = execBr disp s := rfl
@[simp] theorem exec_bri (a : Src) (s : State) : exec (.bri a) s = execBri a s := rfl
@[simp] theorem exec_call (d : Fin 32) (disp : BitVec 24) (s : State) : exec (.call d disp) s = execCall d disp s := rfl
@[simp] theorem exec_ret (a : Src) (s : State) : exec (.ret a) s = execRet a s := rfl
@[simp] theorem exec_loop (a : Src) (endw : BitVec 18) (s : State) : exec (.loop a endw) s = execLoop a endw s := rfl
@[simp] theorem exec_taskend (s : State) : exec (.taskend) s = execTaskend s := rfl
@[simp] theorem exec_pfxK (k : BitVec 44) (s : State) : exec (.pfxK k) s = execPfxK k s := rfl
@[simp] theorem exec_pfxSm (m1 m2 m3 : SMod) (s : State) : exec (.pfxSm m1 m2 m3) s = execPfxSm m1 m2 m3 s := rfl
@[simp] theorem exec_start (tile : Nat) (s : State) : exec (.start tile) s = execStart tile s := rfl
@[simp] theorem exec_trap (a : Src) (s : State) : exec (.trap a) s = execTrap a s := rfl
@[simp] theorem exec_eret (s : State) : exec (.eret) s = execEret s := rfl
@[simp] theorem exec_mfsr (d : Dst) (num : BitVec 6) (s : State) : exec (.mfsr d num) s = execMfsr d num s := rfl
@[simp] theorem exec_mtsr (num : BitVec 6) (a : Src) (s : State) : exec (.mtsr num a) s = execMtsr num a s := rfl
@[simp] theorem exec_mtsrSrseed (a : Src) (s : State) : exec (.mtsrSrseed a) s = execMtsrSrseed a s := rfl
@[simp] theorem exec_mtsrBfmt (n : Fin 12) (a : Src) (s : State) : exec (.mtsrBfmt n a) s = execMtsrBfmt n a s := rfl
@[simp] theorem exec_mtsrBscl (n : Fin 12) (a : Src) (s : State) : exec (.mtsrBscl n a) s = execMtsrBscl n a s := rfl
@[simp] theorem exec_mtsrCntsel (n : Fin 8) (a : Src) (s : State) : exec (.mtsrCntsel n a) s = execMtsrCntsel n a s := rfl
@[simp] theorem exec_halt (s : State) : exec (.halt) s = execHalt s := rfl
@[simp] theorem exec_iclr (s : State) : exec (.iclr) s = execIclr s := rfl
@[simp] theorem exec_vadd (d a b : Fin 32) (md : Mode) (s : State) : exec (.vadd d a b md) s = execVadd d a b md s := rfl
@[simp] theorem exec_vsub (d a b : Fin 32) (md : Mode) (s : State) : exec (.vsub d a b md) s = execVsub d a b md s := rfl
@[simp] theorem exec_vmul (d a b : Fin 32) (md : Mode) (s : State) : exec (.vmul d a b md) s = execVmul d a b md s := rfl
@[simp] theorem exec_vfma (d a b c : Fin 32) (md : Mode) (s : State) : exec (.vfma d a b c md) s = execVfma d a b c md s := rfl
@[simp] theorem exec_vfms (d a b c : Fin 32) (md : Mode) (s : State) : exec (.vfms d a b c md) s = execVfms d a b c md s := rfl
@[simp] theorem exec_vfnma (d a b c : Fin 32) (md : Mode) (s : State) : exec (.vfnma d a b c md) s = execVfnma d a b c md s := rfl
@[simp] theorem exec_vmin (d a b : Fin 32) (md : Mode) (s : State) : exec (.vmin d a b md) s = execVmin d a b md s := rfl
@[simp] theorem exec_vmax (d a b : Fin 32) (md : Mode) (s : State) : exec (.vmax d a b md) s = execVmax d a b md s := rfl
@[simp] theorem exec_vabs (d a : Fin 32) (md : Mode) (s : State) : exec (.vabs d a md) s = execVabs d a md s := rfl
@[simp] theorem exec_vneg (d a : Fin 32) (md : Mode) (s : State) : exec (.vneg d a md) s = execVneg d a md s := rfl
@[simp] theorem exec_vand (d a b : Fin 32) (s : State) : exec (.vand d a b) s = execVand d a b s := rfl
@[simp] theorem exec_vor (d a b : Fin 32) (s : State) : exec (.vor d a b) s = execVor d a b s := rfl
@[simp] theorem exec_vxor (d a b : Fin 32) (s : State) : exec (.vxor d a b) s = execVxor d a b s := rfl
@[simp] theorem exec_vshl (d a b : Fin 32) (s : State) : exec (.vshl d a b) s = execVshl d a b s := rfl
@[simp] theorem exec_vshr (d a b : Fin 32) (s : State) : exec (.vshr d a b) s = execVshr d a b s := rfl
@[simp] theorem exec_vsra (d a b : Fin 32) (s : State) : exec (.vsra d a b) s = execVsra d a b s := rfl
@[simp] theorem exec_vcmpEq (d a b : Fin 32) (s : State) : exec (.vcmpEq d a b) s = execVcmpEq d a b s := rfl
@[simp] theorem exec_vcmpNe (d a b : Fin 32) (s : State) : exec (.vcmpNe d a b) s = execVcmpNe d a b s := rfl
@[simp] theorem exec_vcmpLt (d a b : Fin 32) (s : State) : exec (.vcmpLt d a b) s = execVcmpLt d a b s := rfl
@[simp] theorem exec_vcmpLts (d a b : Fin 32) (s : State) : exec (.vcmpLts d a b) s = execVcmpLts d a b s := rfl
@[simp] theorem exec_vcmpLe (d a b : Fin 32) (s : State) : exec (.vcmpLe d a b) s = execVcmpLe d a b s := rfl
@[simp] theorem exec_vcmpLes (d a b : Fin 32) (s : State) : exec (.vcmpLes d a b) s = execVcmpLes d a b s := rfl
@[simp] theorem exec_vsel (d m a b : Fin 32) (s : State) : exec (.vsel d m a b) s = execVsel d m a b s := rfl
@[simp] theorem exec_vcvt (d a : Fin 32) (md : Mode) (s : State) : exec (.vcvt d a md) s = execVcvt d a md s := rfl
@[simp] theorem exec_vqnt (d a : Fin 32) (rnd : Rnd) (s : State) : exec (.vqnt d a rnd) s = execVqnt d a rnd s := rfl
@[simp] theorem exec_vdqnt (d a t : Fin 32) (md : Mode) (s : State) : exec (.vdqnt d a t md) s = execVdqnt d a t md s := rfl
@[simp] theorem exec_vrcpe (d a : Fin 32) (s : State) : exec (.vrcpe d a) s = execVrcpe d a s := rfl
@[simp] theorem exec_vrsqe (d a : Fin 32) (s : State) : exec (.vrsqe d a) s = execVrsqe d a s := rfl
@[simp] theorem exec_vrcps (d a b : Fin 32) (rnd : Rnd) (s : State) : exec (.vrcps d a b rnd) s = execVrcps d a b rnd s := rfl
@[simp] theorem exec_vrsqs (d a b : Fin 32) (rnd : Rnd) (s : State) : exec (.vrsqs d a b rnd) s = execVrsqs d a b rnd s := rfl
@[simp] theorem exec_vexp2e (d a : Fin 32) (s : State) : exec (.vexp2e d a) s = execVexp2e d a s := rfl
@[simp] theorem exec_vlog2e (d a : Fin 32) (s : State) : exec (.vlog2e d a) s = execVlog2e d a s := rfl
@[simp] theorem exec_vsum (d a : Fin 32) (md : Mode) (s : State) : exec (.vsum d a md) s = execVsum d a md s := rfl
@[simp] theorem exec_vdot (d a b : Fin 32) (md : Mode) (s : State) : exec (.vdot d a b md) s = execVdot d a b md s := rfl
@[simp] theorem exec_vmaxr (d a : Fin 32) (s : State) : exec (.vmaxr d a) s = execVmaxr d a s := rfl
@[simp] theorem exec_vminr (d a : Fin 32) (s : State) : exec (.vminr d a) s = execVminr d a s := rfl
@[simp] theorem exec_viota (d : Fin 32) (a b : Src) (s : State) : exec (.viota d a b) s = execViota d a b s := rfl
@[simp] theorem exec_vfill (d : Fin 32) (a : Src) (s : State) : exec (.vfill d a) s = execVfill d a s := rfl
@[simp] theorem exec_vcopy (d a : Fin 32) (s : State) : exec (.vcopy d a) s = execVcopy d a s := rfl
@[simp] theorem exec_vpart (d0 d1 d2 d3 o : Fin 32) (s : State) : exec (.vpart d0 d1 d2 d3 o) s = execVpart d0 d1 d2 d3 o s := rfl
@[simp] theorem exec_vgath (d a l : Fin 32) (s : State) : exec (.vgath d a l) s = execVgath d a l s := rfl
@[simp] theorem exec_vscat (d a l : Fin 32) (s : State) : exec (.vscat d a l) s = execVscat d a l s := rfl
@[simp] theorem exec_mln (lvl : Fin 6) (a : Src) (s : State) : exec (.mln lvl a) s = execMln lvl a s := rfl
@[simp] theorem exec_mopa (src : Fin 3) (a b : Src) (s : State) : exec (.mopa src a b) s = execMopa src a b s := rfl
@[simp] theorem exec_mopb (src : Fin 3) (a b : Src) (s : State) : exec (.mopb src a b) s = execMopb src a b s := rfl
@[simp] theorem exec_macc (acc : Fin 4) (init : Bool) (s : State) : exec (.macc acc init) s = execMacc acc init s := rfl
@[simp] theorem exec_mlda (reg : Bool) (a b : Src) (s : State) : exec (.mlda reg a b) s = execMlda reg a b s := rfl
@[simp] theorem exec_mldb (reg : Bool) (a b : Src) (s : State) : exec (.mldb reg a b) s = execMldb reg a b s := rfl
@[simp] theorem exec_mgo (a : Src) (s : State) : exec (.mgo a) s = execMgo a s := rfl
@[simp] theorem exec_mwait (s : State) : exec (.mwait) s = execMwait s := rfl
@[simp] theorem exec_mdrain (a b : Src) (acc : Fin 4) (zero : Bool) (md : Mode) (s : State) : exec (.mdrain a b acc zero md) s = execMdrain a b acc zero md s := rfl
@[simp] theorem exec_mbya (reg : Bool) (acc : Fin 4) (zero : Bool) (fmt : BitVec 6) (md : Mode) (s : State) : exec (.mbya reg acc zero fmt md) s = execMbya reg acc zero fmt md s := rfl
@[simp] theorem exec_mxp (d e a b p : Src) (s : State) : exec (.mxp d e a b p) s = execMxp d e a b p s := rfl
@[simp] theorem exec_msave (a : Src) (s : State) : exec (.msave a) s = execMsave a s := rfl
@[simp] theorem exec_mrest (a : Src) (s : State) : exec (.mrest a) s = execMrest a s := rfl
@[simp] theorem exec_mstat (d : Fin 32) (b : Src) (s : State) : exec (.mstat d b) s = execMstat d b s := rfl
@[simp] theorem exec_cset (a : Src) (s : State) : exec (.cset a) s = execCset a s := rfl
@[simp] theorem exec_cldc (a : Src) (s : State) : exec (.cldc a) s = execCldc a s := rfl
@[simp] theorem exec_crun (a : Src) (s : State) : exec (.crun a) s = execCrun a s := rfl
@[simp] theorem exec_cleaf (d a : Src) (s : State) : exec (.cleaf d a) s = execCleaf d a s := rfl
@[simp] theorem exec_cidx (d : Src) (s : State) : exec (.cidx d) s = execCidx d s := rfl
@[simp] theorem exec_cstatContour (d : Fin 32) (b : Src) (s : State) : exec (.cstatContour d b) s = execCstatContour d b s := rfl
@[simp] theorem exec_ldB (o : LdSt) (s : State) : exec (.ldB o) s = execLdB o s := rfl
@[simp] theorem exec_ldH (o : LdSt) (s : State) : exec (.ldH o) s = execLdH o s := rfl
@[simp] theorem exec_ldW (o : LdSt) (s : State) : exec (.ldW o) s = execLdW o s := rfl
@[simp] theorem exec_ldD (o : LdSt) (s : State) : exec (.ldD o) s = execLdD o s := rfl
@[simp] theorem exec_ldsB (o : LdSt) (s : State) : exec (.ldsB o) s = execLdsB o s := rfl
@[simp] theorem exec_ldsH (o : LdSt) (s : State) : exec (.ldsH o) s = execLdsH o s := rfl
@[simp] theorem exec_ldsW (o : LdSt) (s : State) : exec (.ldsW o) s = execLdsW o s := rfl
@[simp] theorem exec_stB (o : LdSt) (s : State) : exec (.stB o) s = execStB o s := rfl
@[simp] theorem exec_stH (o : LdSt) (s : State) : exec (.stH o) s = execStH o s := rfl
@[simp] theorem exec_stW (o : LdSt) (s : State) : exec (.stW o) s = execStW o s := rfl
@[simp] theorem exec_stD (o : LdSt) (s : State) : exec (.stD o) s = execStD o s := rfl
@[simp] theorem exec_pf (o : LdSt) (s : State) : exec (.pf o) s = execPf o s := rfl
@[simp] theorem exec_qmark (s : State) : exec (.qmark) s = execQmark s := rfl
@[simp] theorem exec_fenceSlot (s : State) : exec (.fenceSlot) s = execFenceSlot s := rfl
@[simp] theorem exec_fenceTile (s : State) : exec (.fenceTile) s = execFenceTile s := rfl
@[simp] theorem exec_fenceDie (s : State) : exec (.fenceDie) s = execFenceDie s := rfl
@[simp] theorem exec_fencePkg (s : State) : exec (.fencePkg) s = execFencePkg s := rfl
@[simp] theorem exec_fenceSys (s : State) : exec (.fenceSys) s = execFenceSys s := rfl
@[simp] theorem exec_fenceRetire (tile : Nat) (s : State) : exec (.fenceRetire tile) s = execFenceRetire tile s := rfl
@[simp] theorem exec_acqSlot (s : State) : exec (.acqSlot) s = execAcqSlot s := rfl
@[simp] theorem exec_acqTile (s : State) : exec (.acqTile) s = execAcqTile s := rfl
@[simp] theorem exec_acqDie (s : State) : exec (.acqDie) s = execAcqDie s := rfl
@[simp] theorem exec_acqPkg (s : State) : exec (.acqPkg) s = execAcqPkg s := rfl
@[simp] theorem exec_acqSys (s : State) : exec (.acqSys) s = execAcqSys s := rfl
@[simp] theorem exec_relSlot (s : State) : exec (.relSlot) s = execRelSlot s := rfl
@[simp] theorem exec_relTile (s : State) : exec (.relTile) s = execRelTile s := rfl
@[simp] theorem exec_relDie (s : State) : exec (.relDie) s = execRelDie s := rfl
@[simp] theorem exec_relPkg (s : State) : exec (.relPkg) s = execRelPkg s := rfl
@[simp] theorem exec_relSys (s : State) : exec (.relSys) s = execRelSys s := rfl
@[simp] theorem exec_aadd (o : Atom) (s : State) : exec (.aadd o) s = execAadd o s := rfl
@[simp] theorem exec_amin (o : Atom) (s : State) : exec (.amin o) s = execAmin o s := rfl
@[simp] theorem exec_amins (o : Atom) (s : State) : exec (.amins o) s = execAmins o s := rfl
@[simp] theorem exec_amax (o : Atom) (s : State) : exec (.amax o) s = execAmax o s := rfl
@[simp] theorem exec_amaxs (o : Atom) (s : State) : exec (.amaxs o) s = execAmaxs o s := rfl
@[simp] theorem exec_aand (o : Atom) (s : State) : exec (.aand o) s = execAand o s := rfl
@[simp] theorem exec_aor (o : Atom) (s : State) : exec (.aor o) s = execAor o s := rfl
@[simp] theorem exec_axor (o : Atom) (s : State) : exec (.axor o) s = execAxor o s := rfl
@[simp] theorem exec_aswp (o : Atom) (s : State) : exec (.aswp o) s = execAswp o s := rfl
@[simp] theorem exec_acas (o : Atom) (s : State) : exec (.acas o) s = execAcas o s := rfl
@[simp] theorem exec_aaddF32 (o : Atom) (s : State) : exec (.aaddF32 o) s = execAaddF32 o s := rfl
@[simp] theorem exec_aaddBf16 (o : Atom) (s : State) : exec (.aaddBf16 o) s = execAaddBf16 o s := rfl
@[simp] theorem exec_aaddNr (o : Atom) (s : State) : exec (.aaddNr o) s = execAaddNr o s := rfl
@[simp] theorem exec_aminNr (o : Atom) (s : State) : exec (.aminNr o) s = execAminNr o s := rfl
@[simp] theorem exec_aminsNr (o : Atom) (s : State) : exec (.aminsNr o) s = execAminsNr o s := rfl
@[simp] theorem exec_amaxNr (o : Atom) (s : State) : exec (.amaxNr o) s = execAmaxNr o s := rfl
@[simp] theorem exec_amaxsNr (o : Atom) (s : State) : exec (.amaxsNr o) s = execAmaxsNr o s := rfl
@[simp] theorem exec_aandNr (o : Atom) (s : State) : exec (.aandNr o) s = execAandNr o s := rfl
@[simp] theorem exec_aorNr (o : Atom) (s : State) : exec (.aorNr o) s = execAorNr o s := rfl
@[simp] theorem exec_axorNr (o : Atom) (s : State) : exec (.axorNr o) s = execAxorNr o s := rfl
@[simp] theorem exec_aswpNr (o : Atom) (s : State) : exec (.aswpNr o) s = execAswpNr o s := rfl
@[simp] theorem exec_acasNr (o : Atom) (s : State) : exec (.acasNr o) s = execAcasNr o s := rfl
@[simp] theorem exec_aaddF32Nr (o : Atom) (s : State) : exec (.aaddF32Nr o) s = execAaddF32Nr o s := rfl
@[simp] theorem exec_aaddBf16Nr (o : Atom) (s : State) : exec (.aaddBf16Nr o) s = execAaddBf16Nr o s := rfl
@[simp] theorem exec_cpygs (sd ga shape pitch : Src) (mf : MemF) (s : State) : exec (.cpygs sd ga shape pitch mf) s = execCpygs sd ga shape pitch mf s := rfl
@[simp] theorem exec_cpysg (sd ga shape pitch : Src) (mf : MemF) (s : State) : exec (.cpysg sd ga shape pitch mf) s = execCpysg sd ga shape pitch mf s := rfl
@[simp] theorem exec_chainTail (a : Src) (s : State) : exec (.chainTail a) s = execChainTail a s := rfl
@[simp] theorem exec_chainWait (d : Fin 32) (a : Src) (clr : Bool) (s : State) : exec (.chainWait d a clr) s = execChainWait d a clr s := rfl
@[simp] theorem exec_put (tgt adr ctl : Src) (mf : MemF) (s : State) : exec (.put tgt adr ctl mf) s = execPut tgt adr ctl mf s := rfl
@[simp] theorem exec_get (tgt adr ctl : Src) (mf : MemF) (s : State) : exec (.get tgt adr ctl mf) s = execGet tgt adr ctl mf s := rfl
@[simp] theorem exec_arradd (d : Fin 32) (a b : Src) (s : State) : exec (.arradd d a b) s = execArradd d a b s := rfl
@[simp] theorem exec_arrset (a b : Src) (s : State) : exec (.arrset a b) s = execArrset a b s := rfl
@[simp] theorem exec_arrw (d : Fin 32) (a b : Src) (subt : Bool) (s : State) : exec (.arrw d a b subt) s = execArrw d a b subt s := rfl
@[simp] theorem exec_bcbPost (d : Fin 32) (a b : Src) (s : State) : exec (.bcbPost d a b) s = execBcbPost d a b s := rfl
@[simp] theorem exec_bcbWait (d : Fin 32) (a b : Src) (clr : Bool) (s : State) : exec (.bcbWait d a b clr) s = execBcbWait d a b clr s := rfl
@[simp] theorem exec_ctbl (a b : Src) (s : State) : exec (.ctbl a b) s = execCtbl a b s := rfl
@[simp] theorem exec_cready (a : Src) (s : State) : exec (.cready a) s = execCready a s := rfl
@[simp] theorem exec_cevw (d : Fin 32) (a b : Src) (s : State) : exec (.cevw d a b) s = execCevw d a b s := rfl
@[simp] theorem exec_cabort (a : Src) (s : State) : exec (.cabort a) s = execCabort a s := rfl
@[simp] theorem exec_cstatColl (d : Fin 32) (a : Src) (clr : Bool) (s : State) : exec (.cstatColl d a clr) s = execCstatColl d a clr s := rfl
@[simp] theorem exec_bara (d : Fin 32) (b : Src) (s : State) : exec (.bara d b) s = execBara d b s := rfl
@[simp] theorem exec_barw (b p : Src) (s : State) : exec (.barw b p) s = execBarw b p s := rfl
@[simp] theorem exec_bars (d : Fin 32) (b : Src) (s : State) : exec (.bars d b) s = execBars d b s := rfl
@[simp] theorem exec_barcfg (b n : Src) (s : State) : exec (.barcfg b n) s = execBarcfg b n s := rfl
@[simp] theorem exec_mlock (m : Src) (s : State) : exec (.mlock m) s = execMlock m s := rfl
@[simp] theorem exec_mtry (d : Fin 32) (m : Src) (s : State) : exec (.mtry d m) s = execMtry d m s := rfl
@[simp] theorem exec_munlk (m : Src) (s : State) : exec (.munlk m) s = execMunlk m s := rfl
@[simp] theorem exec_semp (m : Src) (s : State) : exec (.semp m) s = execSemp m s := rfl
@[simp] theorem exec_semv (m n : Src) (s : State) : exec (.semv m n) s = execSemv m n s := rfl
@[simp] theorem exec_semtry (d : Fin 32) (m : Src) (s : State) : exec (.semtry d m) s = execSemtry d m s := rfl
@[simp] theorem exec_tokcnt (d : Fin 32) (src dst : Fin 4) (s : State) : exec (.tokcnt d src dst) s = execTokcnt d src dst s := rfl
@[simp] theorem exec_yield (a : Src) (s : State) : exec (.yield a) s = execYield a s := rfl
@[simp] theorem exec_qpt (s : State) : exec (.qpt) s = execQpt s := rfl
@[simp] theorem exec_dsend (a b : Src) (s : State) : exec (.dsend a b) s = execDsend a b s := rfl
@[simp] theorem exec_lrpatch (d : Fin 32) (a b : Src) (fld : Fin 21) (s : State) : exec (.lrpatch d a b fld) s = execLrpatch d a b fld s := rfl
@[simp] theorem exec_lrarm (d : Fin 32) (a : Src) (s : State) : exec (.lrarm d a) s = execLrarm d a s := rfl
@[simp] theorem exec_deq (tile : Nat) (store : Bool) (s : State) : exec (.deq tile store) s = execDeq tile store s := rfl
@[simp] theorem exec_entryTranslate (tile : Nat) (store : Bool) (index : Nat) (s : State) : exec (.entryTranslate tile store index) s = execEntryTranslate tile store index s := rfl
@[simp] theorem exec_pageWalk (die asid va : Nat) (s : State) : exec (.pageWalk die asid va) s = execPageWalk die asid va s := rfl
@[simp] theorem exec_hop (die path : Nat) (keep : Bool) (s : State) : exec (.hop die path keep) s = execHop die path keep s := rfl
@[simp] theorem exec_rdcEvict (die line : Nat) (s : State) : exec (.rdcEvict die line) s = execRdcEvict die line s := rfl
@[simp] theorem exec_send (src dst path : Nat) (s : State) : exec (.send src dst path) s = execSend src dst path s := rfl
@[simp] theorem exec_packetArrive (src dst : Nat) (s : State) : exec (.packetArrive src dst) s = execPacketArrive src dst s := rfl
@[simp] theorem exec_deliver (party index : Nat) (s : State) : exec (.deliver party index) s = execDeliver party index s := rfl
@[simp] theorem exec_deliveryReport (party src : Nat) (s : State) : exec (.deliveryReport party src) s = execDeliveryReport party src s := rfl
@[simp] theorem exec_reportReceive (party index : Nat) (s : State) : exec (.reportReceive party index) s = execReportReceive party index s := rfl
@[simp] theorem exec_perform (die index : Nat) (s : State) : exec (.perform die index) s = execPerform die index s := rfl
@[simp] theorem exec_returnVal (tile : Nat) (s : State) : exec (.returnVal tile) s = execReturnVal tile s := rfl
@[simp] theorem exec_commit (tile count : Nat) (s : State) : exec (.commit tile count) s = execCommit tile count s := rfl
@[simp] theorem exec_hostCompletion (index : Nat) (s : State) : exec (.hostCompletion index) s = execHostCompletion index s := rfl
@[simp] theorem exec_hostWrite (addr : Nat) (bytes : List Byte) (s : State) : exec (.hostWrite addr bytes) s = execHostWrite addr bytes s := rfl
@[simp] theorem exec_copyBegin (tile : Nat) (s : State) : exec (.copyBegin tile) s = execCopyBegin tile s := rfl
@[simp] theorem exec_copySector (tile cmd index : Nat) (s : State) : exec (.copySector tile cmd index) s = execCopySector tile cmd index s := rfl
@[simp] theorem exec_copySeqCommit (tile : Nat) (s : State) : exec (.copySeqCommit tile) s = execCopySeqCommit tile s := rfl
@[simp] theorem exec_chainEntryRead (tile : Nat) (s : State) : exec (.chainEntryRead tile) s = execChainEntryRead tile s := rfl
@[simp] theorem exec_putBegin (tile : Nat) (s : State) : exec (.putBegin tile) s = execPutBegin tile s := rfl
@[simp] theorem exec_putArrive (tile index : Nat) (s : State) : exec (.putArrive tile index) s = execPutArrive tile index s := rfl
@[simp] theorem exec_getrqArrive (tile index : Nat) (s : State) : exec (.getrqArrive tile index) s = execGetrqArrive tile index s := rfl
@[simp] theorem exec_getrsArrive (tile index : Nat) (s : State) : exec (.getrsArrive tile index) s = execGetrsArrive tile index s := rfl
@[simp] theorem exec_packArrive (tile index : Nat) (s : State) : exec (.packArrive tile index) s = execPackArrive tile index s := rfl
@[simp] theorem exec_routerTimeout (index : Nat) (s : State) : exec (.routerTimeout index) s = execRouterTimeout index s := rfl
@[simp] theorem exec_flitReceive (port : Nat) (s : State) : exec (.flitReceive port) s = execFlitReceive port s := rfl
@[simp] theorem exec_ackTimer (port : Nat) (s : State) : exec (.ackTimer port) s = execAckTimer port s := rfl
@[simp] theorem exec_retryReceive (port : Nat) (s : State) : exec (.retryReceive port) s = execRetryReceive port s := rfl
@[simp] theorem exec_retryRepeat (port : Nat) (s : State) : exec (.retryRepeat port) s = execRetryRepeat port s := rfl
@[simp] theorem exec_laneShed (port lane : Nat) (s : State) : exec (.laneShed port lane) s = execLaneShed port lane s := rfl
@[simp] theorem exec_rshreqReceive (port : Nat) (s : State) : exec (.rshreqReceive port) s = execRshreqReceive port s := rfl
@[simp] theorem exec_rshackReceive (port : Nat) (s : State) : exec (.rshackReceive port) s = execRshackReceive port s := rfl
@[simp] theorem exec_rshreqRepeat (port : Nat) (s : State) : exec (.rshreqRepeat port) s = execRshreqRepeat port s := rfl
@[simp] theorem exec_linkTimeout (port : Nat) (s : State) : exec (.linkTimeout port) s = execLinkTimeout port s := rfl
@[simp] theorem exec_retrain (port : Nat) (lanes : BitVec 8) (s : State) : exec (.retrain port lanes) s = execRetrain port lanes s := rfl
@[simp] theorem exec_packetForward (index port : Nat) (s : State) : exec (.packetForward index port) s = execPacketForward index port s := rfl
@[simp] theorem exec_escapeEntry (index : Nat) (s : State) : exec (.escapeEntry index) s = execEscapeEntry index s := rfl
@[simp] theorem exec_treeInstall (version : Nat) (links : List (Nat × Nat)) (s : State) : exec (.treeInstall version links) s = execTreeInstall version links s := rfl
@[simp] theorem exec_treeRetire (version : Nat) (s : State) : exec (.treeRetire version) s = execTreeRetire version s := rfl
@[simp] theorem exec_livenessSend (port : Nat) (s : State) : exec (.livenessSend port) s = execLivenessSend port s := rfl
@[simp] theorem exec_livenessReceive (port : Nat) (s : State) : exec (.livenessReceive port) s = execLivenessReceive port s := rfl
@[simp] theorem exec_groupTimeout (group : Nat) (s : State) : exec (.groupTimeout group) s = execGroupTimeout group s := rfl
@[simp] theorem exec_holdTimeout (party index : Nat) (s : State) : exec (.holdTimeout party index) s = execHoldTimeout party index s := rfl
@[simp] theorem exec_interdieLinkError (p q : Nat) (s : State) : exec (.interdieLinkError p q) s = execInterdieLinkError p q s := rfl
@[simp] theorem exec_resurveyResume (s : State) : exec (.resurveyResume) s = execResurveyResume s := rfl
@[simp] theorem exec_contribBegin (tile : Nat) (s : State) : exec (.contribBegin tile) s = execContribBegin tile s := rfl
@[simp] theorem exec_contribReceive (tile index : Nat) (s : State) : exec (.contribReceive tile index) s = execContribReceive tile index s := rfl
@[simp] theorem exec_cackReceive (tile index : Nat) (s : State) : exec (.cackReceive tile index) s = execCackReceive tile index s := rfl
@[simp] theorem exec_contribResend (tile entry : Nat) (s : State) : exec (.contribResend tile entry) s = execContribResend tile entry s := rfl
@[simp] theorem exec_finReceive (tile index : Nat) (s : State) : exec (.finReceive tile index) s = execFinReceive tile index s := rfl
@[simp] theorem exec_brelReceive (tile index : Nat) (s : State) : exec (.brelReceive tile index) s = execBrelReceive tile index s := rfl
@[simp] theorem exec_allfinRelease (tile entry : Nat) (s : State) : exec (.allfinRelease tile entry) s = execAllfinRelease tile entry s := rfl
@[simp] theorem exec_abortReceive (tile index : Nat) (s : State) : exec (.abortReceive tile index) s = execAbortReceive tile index s := rfl
@[simp] theorem exec_dispatchDecision (s : State) : exec (.dispatchDecision) s = execDispatchDecision s := rfl
@[simp] theorem exec_reservationTimeout (part : Nat) (s : State) : exec (.reservationTimeout part) s = execReservationTimeout part s := rfl
@[simp] theorem exec_taskEnd (run : Nat) (s : State) : exec (.taskEnd run) s = execTaskEnd run s := rfl
@[simp] theorem exec_preemptArrive (tile : Nat) (s : State) : exec (.preemptArrive tile) s = execPreemptArrive tile s := rfl
@[simp] theorem exec_preemptInhTimeout (tile : Nat) (s : State) : exec (.preemptInhTimeout tile) s = execPreemptInhTimeout tile s := rfl
@[simp] theorem exec_stubTimeout (tile : Nat) (slot : Slot) (s : State) : exec (.stubTimeout tile slot) s = execStubTimeout tile slot s := rfl
@[simp] theorem exec_frameComplete (tile : Nat) (s : State) : exec (.frameComplete tile) s = execFrameComplete tile s := rfl
@[simp] theorem exec_qptWatchdog (tile : Nat) (s : State) : exec (.qptWatchdog tile) s = execQptWatchdog tile s := rfl
@[simp] theorem exec_stallWatchdog (tile : Nat) (slot : Slot) (s : State) : exec (.stallWatchdog tile slot) s = execStallWatchdog tile slot s := rfl
@[simp] theorem exec_invalDone (index : Nat) (s : State) : exec (.invalDone index) s = execInvalDone index s := rfl
@[simp] theorem exec_faultRingFlush (part : Nat) (s : State) : exec (.faultRingFlush part) s = execFaultRingFlush part s := rfl
@[simp] theorem exec_errorDetected (e : ErrSite) (s : State) : exec (.errorDetected e) s = execErrorDetected e s := rfl
@[simp] theorem exec_viralSideband (party : Nat) (s : State) : exec (.viralSideband party) s = execViralSideband party s := rfl
@[simp] theorem exec_freezePacketArrive (tile : Nat) (s : State) : exec (.freezePacketArrive tile) s = execFreezePacketArrive tile s := rfl
@[simp] theorem exec_freezeTimeout (ring : Nat) (s : State) : exec (.freezeTimeout ring) s = execFreezeTimeout ring s := rfl
@[simp] theorem exec_cartoucheAssemble (part : Nat) (s : State) : exec (.cartoucheAssemble part) s = execCartoucheAssemble part s := rfl
@[simp] theorem exec_sealDeadline (s : State) : exec (.sealDeadline) s = execSealDeadline s := rfl
@[simp] theorem exec_debugHold (die : Nat) (s : State) : exec (.debugHold die) s = execDebugHold die s := rfl
@[simp] theorem exec_debugRelease (die : Nat) (s : State) : exec (.debugRelease die) s = execDebugRelease die s := rfl
@[simp] theorem exec_dieQuiesceTimeout (die : Nat) (s : State) : exec (.dieQuiesceTimeout die) s = execDieQuiesceTimeout die s := rfl
@[simp] theorem exec_dieRetrainDone (die : Nat) (ok : Bool) (s : State) : exec (.dieRetrainDone die ok) s = execDieRetrainDone die ok s := rfl
@[simp] theorem exec_dieDropThreshold (die : Nat) (s : State) : exec (.dieDropThreshold die) s = execDieDropThreshold die s := rfl
@[simp] theorem exec_snapshotBegin (s : State) : exec (.snapshotBegin) s = execSnapshotBegin s := rfl
@[simp] theorem exec_snapshotResend (index : Nat) (s : State) : exec (.snapshotResend index) s = execSnapshotResend index s := rfl
@[simp] theorem exec_trainingComplete (s : State) : exec (.trainingComplete) s = execTrainingComplete s := rfl
@[simp] theorem exec_fullServiceBegin (s : State) : exec (.fullServiceBegin) s = execFullServiceBegin s := rfl
@[simp] theorem exec_coldReset (s : State) : exec (.coldReset) s = execColdReset s := rfl
@[simp] theorem exec_qtailWrite (fn q : Nat) (value : BitVec 32) (s : State) : exec (.qtailWrite fn q value) s = execQtailWrite fn q value s := rfl
@[simp] theorem exec_queueRestart (fn q : Nat) (s : State) : exec (.queueRestart fn q) s = execQueueRestart fn q s := rfl
@[simp] theorem exec_hostRegWrite (fn reg : Nat) (value : W64) (s : State) : exec (.hostRegWrite fn reg value) s = execHostRegWrite fn reg value s := rfl
@[simp] theorem exec_cmdNop (fn q : Nat) (s : State) : exec (.cmdNop fn q) s = execCmdNop fn q s := rfl
@[simp] theorem exec_build (fn q : Nat) (s : State) : exec (.build fn q) s = execBuild fn q s := rfl
@[simp] theorem exec_arm (fn q : Nat) (s : State) : exec (.arm fn q) s = execArm fn q s := rfl
@[simp] theorem exec_release (fn q : Nat) (s : State) : exec (.release fn q) s = execRelease fn q s := rfl
@[simp] theorem exec_preempt (fn q : Nat) (s : State) : exec (.preempt fn q) s = execPreempt fn q s := rfl
@[simp] theorem exec_resolve (fn q : Nat) (s : State) : exec (.resolve fn q) s = execResolve fn q s := rfl
@[simp] theorem exec_inval (fn q : Nat) (s : State) : exec (.inval fn q) s = execInval fn q s := rfl
@[simp] theorem exec_jread (fn q : Nat) (s : State) : exec (.jread fn q) s = execJread fn q s := rfl
@[simp] theorem exec_capsList (fn q : Nat) (s : State) : exec (.capsList fn q) s = execCapsList fn q s := rfl
@[simp] theorem exec_capsRead (fn q : Nat) (s : State) : exec (.capsRead fn q) s = execCapsRead fn q s := rfl
@[simp] theorem exec_partset (fn q : Nat) (s : State) : exec (.partset fn q) s = execPartset fn q s := rfl
@[simp] theorem exec_partsetDone (part : Nat) (s : State) : exec (.partsetDone part) s = execPartsetDone part s := rfl
@[simp] theorem exec_sevset (fn q : Nat) (s : State) : exec (.sevset fn q) s = execSevset fn q s := rfl
@[simp] theorem exec_tmoset (fn q : Nat) (s : State) : exec (.tmoset fn q) s = execTmoset fn q s := rfl
@[simp] theorem exec_wdset (fn q : Nat) (s : State) : exec (.wdset fn q) s = execWdset fn q s := rfl
@[simp] theorem exec_power (fn q : Nat) (s : State) : exec (.power fn q) s = execPower fn q s := rfl
@[simp] theorem exec_diereset (fn q : Nat) (s : State) : exec (.diereset fn q) s = execDiereset fn q s := rfl
@[simp] theorem exec_diedrop (fn q : Nat) (s : State) : exec (.diedrop fn q) s = execDiedrop fn q s := rfl
@[simp] theorem exec_snapshot (fn q : Nat) (s : State) : exec (.snapshot fn q) s = execSnapshot fn q s := rfl
@[simp] theorem exec_snaprest (fn q : Nat) (s : State) : exec (.snaprest fn q) s = execSnaprest fn q s := rfl
@[simp] theorem exec_pkgreset (fn q : Nat) (s : State) : exec (.pkgreset fn q) s = execPkgreset fn q s := rfl
@[simp] theorem exec_fabsetPctl (fn q : Nat) (s : State) : exec (.fabsetPctl fn q) s = execFabsetPctl fn q s := rfl
@[simp] theorem exec_fabsetRcfg (fn q : Nat) (s : State) : exec (.fabsetRcfg fn q) s = execFabsetRcfg fn q s := rfl
@[simp] theorem exec_fabsetTcw (fn q : Nat) (s : State) : exec (.fabsetTcw fn q) s = execFabsetTcw fn q s := rfl
@[simp] theorem exec_packageNumberAssign (group : BitVec 17) (member : BitVec 9) (s : State) : exec (.packageNumberAssign group member) s = execPackageNumberAssign group member s := rfl
@[simp] theorem exec_debuggerAttach (part : Nat) (on : Bool) (s : State) : exec (.debuggerAttach part on) s = execDebuggerAttach part on s := rfl
@[simp] theorem exec_viralNoticeReceive (port : Nat) (s : State) : exec (.viralNoticeReceive port) s = execViralNoticeReceive port s := rfl
@[simp] theorem exec_snapshotPacketReceive (port : Nat) (s : State) : exec (.snapshotPacketReceive port) s = execSnapshotPacketReceive port s := rfl
@[simp] theorem exec_snapshotAckReceive (port : Nat) (s : State) : exec (.snapshotAckReceive port) s = execSnapshotAckReceive port s := rfl
@[simp] theorem exec_removalOfAParty (party : Nat) (s : State) : exec (.removalOfAParty party) s = execRemovalOfAParty party s := rfl

end Sys2Proof.Machine
end

