-- ==== Sys2Proof/Laws/Memory.lean ====
section
/-! SUPPORT. The laws of byte memories: what a write changes, and that every operation keeps the one form. -/

namespace Sys2Proof.Laws

open Sys2Proof.Machine

/-- The one form: no listed zero, and addresses that rise. -/
theorem wf_iff (m : List (Nat × Byte)) :
    Memory.wf m = true ↔ (∀ p ∈ m, p.2 ≠ 0) ∧ m.Pairwise fun p q => p.1 < q.1 := by
  induction m with
  | nil => simp [Memory.wf]
  | cons p t ih =>
    obtain ⟨k, v⟩ := p
    cases t with
    | nil => simp [Memory.wf]
    | cons q t =>
      obtain ⟨k', v'⟩ := q
      simp only [Memory.wf, Bool.and_eq_true, bne_iff_ne, decide_eq_true_eq, ih]
      constructor
      · rintro ⟨⟨h1, h2⟩, h3, h4⟩
        refine ⟨fun r hr => ?_, List.pairwise_cons.2 ⟨fun r hr => ?_, h4⟩⟩
        · rcases List.mem_cons.1 hr with rfl | hr
          · exact h1
          · exact h3 r hr
        rcases List.mem_cons.1 hr with rfl | hr
        · exact h2
        · exact h2.trans ((List.pairwise_cons.1 h4).1 r hr)
      · rintro ⟨h1, h2⟩
        exact ⟨⟨h1 (k, v) (by simp), (List.pairwise_cons.1 h2).1 (k', v') (by simp)⟩,
          fun p hp => h1 p (List.mem_cons_of_mem _ hp), (List.pairwise_cons.1 h2).2⟩

@[simp] theorem wf_nil : Memory.wf [] = true := rfl

/-- A list of rising addresses after a smaller one. -/
theorem wf_cons {k : Nat} {v : Byte} {t : List (Nat × Byte)} :
    Memory.wf ((k, v) :: t) = true ↔ v ≠ 0 ∧ (∀ p ∈ t, k < p.1) ∧ Memory.wf t = true := by
  simp only [wf_iff, List.mem_cons, forall_eq_or_imp, List.pairwise_cons]
  tauto

/-- Entries taken out of a memory leave it in its form. -/
theorem wf_filter {m : List (Nat × Byte)} (f : Nat × Byte → Bool) (h : Memory.wf m = true) :
    Memory.wf (m.filter f) = true := by
  rw [wf_iff] at *
  exact ⟨fun p hp => h.1 p (List.mem_filter.1 hp).1, h.2.filter f⟩

/-- Memories whose addresses follow one another are one memory. -/
theorem wf_append {m l : List (Nat × Byte)} (hm : Memory.wf m = true) (hl : Memory.wf l = true)
    (h : ∀ p ∈ m, ∀ q ∈ l, p.1 < q.1) : Memory.wf (m ++ l) = true := by
  rw [wf_iff] at *
  refine ⟨fun p hp => ?_, List.pairwise_append.2 ⟨hm.2, hl.2, h⟩⟩
  rcases List.mem_append.1 hp with hp | hp
  · exact hm.1 p hp
  · exact hl.1 p hp

/-- The addresses a written memory lists. -/
theorem mem_writeByte {m : List (Nat × Byte)} {n : Nat} {b : Byte} {p : Nat × Byte} (h : p ∈ writeByte m n b) :
    p.1 = n ∨ p ∈ m := by
  induction m with
  | nil =>
    unfold writeByte at h
    split at h <;> simp_all
  | cons q t ih =>
    obtain ⟨k, v⟩ := q
    unfold writeByte at h
    split_ifs at h <;> simp_all
    · rcases h with rfl | h <;> simp_all
    · rcases h with rfl | rfl | h <;> simp_all
    · rcases h with rfl | h
      · simp
      · rcases ih h with h | h <;> simp [h]

theorem wf_writeByte {m : List (Nat × Byte)} (n : Nat) (b : Byte) (h : Memory.wf m = true) :
    Memory.wf (writeByte m n b) = true := by
  induction m with
  | nil =>
    unfold writeByte
    split
    · rfl
    · rename_i hb; simpa [Memory.wf] using hb
  | cons q t ih =>
    obtain ⟨k, v⟩ := q
    obtain ⟨hv, hk, ht⟩ := wf_cons.1 h
    unfold writeByte
    split_ifs with h1 h2 h3 h4
    · exact ht
    · exact wf_cons.2 ⟨h2, h1 ▸ hk, ht⟩
    · exact h
    · refine wf_cons.2 ⟨h4, fun p hp => ?_, h⟩
      rcases List.mem_cons.1 hp with rfl | hp
      · exact h3
      · exact h3.trans (hk p hp)
    · refine wf_cons.2 ⟨hv, fun p hp => ?_, ih ht⟩
      rcases mem_writeByte hp with hp | hp
      · omega
      · exact hk p hp

theorem wf_writeBytes {m : List (Nat × Byte)} (a : Nat) (l : List Byte) (h : Memory.wf m = true) :
    Memory.wf (writeBytes m a l) = true := by
  induction l generalizing m a with
  | nil => exact h
  | cons b l ih => exact ih (a + 1) (wf_writeByte a b h)

theorem wf_writeLe {m : List (Nat × Byte)} (a count n : Nat) (h : Memory.wf m = true) :
    Memory.wf (writeLe m a count n) = true := wf_writeBytes _ _ h

theorem wf_clearBytes {m : List (Nat × Byte)} (a count : Nat) (h : Memory.wf m = true) :
    Memory.wf (clearBytes m a count) = true := wf_filter _ h

/-- Where the entries that bytes make lie. -/
theorem mem_cellsFrom {a : Nat} {l : List Byte} {p : Nat × Byte} (h : p ∈ cellsFrom a l) :
    a ≤ p.1 ∧ p.1 < a + l.length := by
  induction l generalizing a with
  | nil => simp [cellsFrom] at h
  | cons b l ih =>
    unfold cellsFrom at h
    simp only [List.length_cons]
    split at h
    · have := ih h; omega
    · rcases List.mem_cons.1 h with rfl | h
      · simp
      · have := ih h; omega

theorem wf_cellsFrom (a : Nat) (l : List Byte) : Memory.wf (cellsFrom a l) = true := by
  induction l generalizing a with
  | nil => rfl
  | cons b l ih =>
    unfold cellsFrom
    split
    · exact ih (a + 1)
    · rename_i hb
      exact wf_cons.2 ⟨hb, fun p hp => (mem_cellsFrom hp).1, ih (a + 1)⟩

theorem wf_writeRange {m : List (Nat × Byte)} (a : Nat) (l : List Byte) (h : Memory.wf m = true) :
    Memory.wf (writeRange m a l) = true := by
  unfold writeRange
  refine wf_append (wf_append (wf_filter _ h) (wf_cellsFrom a l) ?_) (wf_filter _ h) ?_
  · intro p hp q hq
    have h1 := (List.mem_filter.1 hp).2
    have h2 := mem_cellsFrom hq
    simp at h1; omega
  · intro p hp q hq
    have h2 := (List.mem_filter.1 hq).2
    simp at h2
    rcases List.mem_append.1 hp with hp | hp
    · have h1 := (List.mem_filter.1 hp).2
      simp at h1; omega
    · have h1 := mem_cellsFrom hp
      omega

/-! ### What a read finds after a write -/

/-- An address that a memory does not list reads as zero. -/
theorem readByte_unlisted {m : List (Nat × Byte)} {n : Nat} (h : ∀ p ∈ m, p.1 ≠ n) : readByte m n = 0 := by
  induction m with
  | nil => rfl
  | cons q t ih =>
    obtain ⟨k, v⟩ := q
    unfold readByte
    rw [if_neg (h (k, v) (by simp)), ih fun p hp => h p (List.mem_cons_of_mem _ hp)]

theorem readByte_writeByte {m : List (Nat × Byte)} (n : Nat) (b : Byte) (h : Memory.wf m = true) :
    readByte (writeByte m n b) n = b := by
  induction m with
  | nil =>
    unfold writeByte
    split <;> simp_all [readByte]
  | cons q t ih =>
    obtain ⟨k, v⟩ := q
    obtain ⟨hv, hk, ht⟩ := wf_cons.1 h
    unfold writeByte
    split_ifs with h1 h2 h3 h4
    · rw [h2, readByte_unlisted]
      intro p hp; have := hk p hp; omega
    · simp [readByte]
    · rw [h4, readByte_unlisted]
      intro p hp
      rcases List.mem_cons.1 hp with rfl | hp
      · exact h1
      · have := hk p hp; omega
    · simp [readByte]
    · simp [readByte, h1, ih ht]

theorem readByte_writeByte_ne {m : List (Nat × Byte)} {n a : Nat} (b : Byte) (h : a ≠ n) :
    readByte (writeByte m n b) a = readByte m a := by
  induction m with
  | nil =>
    unfold writeByte
    split <;> simp [readByte, h.symm]
  | cons q t ih =>
    obtain ⟨k, v⟩ := q
    unfold writeByte
    split_ifs with h1 h2 h3 h4
    · simp [readByte, h1, h.symm]
    · simp [readByte, h1, h.symm]
    · rfl
    · simp [readByte, h.symm]
    · simp [readByte, ih]

theorem readByte_writeBytes_ne {m : List (Nat × Byte)} {a x : Nat} (l : List Byte) (h : x < a ∨ a + l.length ≤ x) :
    readByte (writeBytes m a l) x = readByte m x := by
  induction l generalizing m a with
  | nil => rfl
  | cons b l ih =>
    simp only [List.length_cons] at h
    rw [writeBytes, ih (by omega), readByte_writeByte_ne _ (by omega)]

theorem readByte_writeBytes {m : List (Nat × Byte)} (a : Nat) (l : List Byte) (h : Memory.wf m = true) (j : Nat)
    (hj : j < l.length) : readByte (writeBytes m a l) (a + j) = l[j] := by
  induction l generalizing m a j with
  | nil => simp at hj
  | cons b l ih =>
    rw [writeBytes]
    cases j with
    | zero => rw [readByte_writeBytes_ne _ (by omega), Nat.add_zero, readByte_writeByte _ _ h]; rfl
    | succ j =>
      have := ih (a + 1) (wf_writeByte a b h) j (by simpa using hj)
      rw [show a + (j + 1) = a + 1 + j by omega, this]; rfl

@[simp] theorem readBytes_length (m : List (Nat × Byte)) (a n : Nat) : (readBytes m a n).length = n := by
  induction n generalizing a with
  | zero => rfl
  | succ n ih => simp [readBytes, ih]

theorem readBytes_get (m : List (Nat × Byte)) (a n j : Nat) (h : j < (readBytes m a n).length) :
    (readBytes m a n)[j] = readByte m (a + j) := by
  induction n generalizing a j with
  | zero => simp [readBytes] at h
  | succ n ih =>
    cases j with
    | zero => rfl
    | succ j =>
      simp only [readBytes, List.getElem_cons_succ]
      rw [ih (a + 1) j (by simpa [readBytes] using h), show a + 1 + j = a + (j + 1) by omega]

theorem leBytes_length (k n : Nat) : (leBytes k n).length = k := by
  induction k generalizing n with
  | zero => rfl
  | succ k ih => simp [leBytes, ih]

/-- The number of the bytes of a number (00 R2). -/
theorem fromLe_leBytes (k n : Nat) : fromLe (leBytes k n) = n % 256 ^ k := by
  induction k generalizing n with
  | zero => simp [leBytes, fromLe, Nat.mod_one]
  | succ k ih =>
    rw [leBytes, fromLe, ih, Nat.pow_succ, Nat.mul_comm (256 ^ k), Nat.mod_mul]
    simp

end Sys2Proof.Laws
end

