-- ==== Sys2Proof/Laws/State.lean ====
section
/-! SUPPORT. What the updates of the state's parts leave and change, one lemma for each field, so that no proof unfolds a
record update. -/

namespace Sys2Proof.Machine

/-! ### State.setTile -/

@[simp] theorem State.setTile_agenda (s : State) (n : Nat) (t : Tile) : (s.setTile n t).agenda = s.agenda := rfl
@[simp] theorem State.setTile_free (s : State) (n : Nat) (t : Tile) : (s.setTile n t).free = s.free := rfl
@[simp] theorem State.setTile_cur (s : State) (n : Nat) (t : Tile) : (s.setTile n t).cur = s.cur := rfl
@[simp] theorem State.setTile_rings (s : State) (n : Nat) (t : Tile) : (s.setTile n t).rings = s.rings := rfl
@[simp] theorem State.setTile_pval (s : State) (n : Nat) (t : Tile) : (s.setTile n t).pval = s.pval := rfl
@[simp] theorem State.setTile_group (s : State) (n : Nat) (t : Tile) : (s.setTile n t).group = s.group := rfl
@[simp] theorem State.setTile_member (s : State) (n : Nat) (t : Tile) : (s.setTile n t).member = s.member := rfl
@[simp] theorem State.setTile_slew (s : State) (n : Nat) (t : Tile) : (s.setTile n t).slew = s.slew := rfl
@[simp] theorem State.setTile_clkmask (s : State) (n : Nat) (t : Tile) : (s.setTile n t).clkmask = s.clkmask := rfl
@[simp] theorem State.setTile_paths (s : State) (n : Nat) (t : Tile) : (s.setTile n t).paths = s.paths := rfl
@[simp] theorem State.setTile_homes (s : State) (n : Nat) (t : Tile) : (s.setTile n t).homes = s.homes := rfl
@[simp] theorem State.setTile_dies (s : State) (n : Nat) (t : Tile) : (s.setTile n t).dies = s.dies := rfl
@[simp] theorem State.setTile_parties (s : State) (n : Nat) (t : Tile) : (s.setTile n t).parties = s.parties := rfl
@[simp] theorem State.setTile_links (s : State) (n : Nat) (t : Tile) : (s.setTile n t).links = s.links := rfl
@[simp] theorem State.setTile_dmem (s : State) (n : Nat) (t : Tile) : (s.setTile n t).dmem = s.dmem := rfl
@[simp] theorem State.setTile_poison (s : State) (n : Nat) (t : Tile) : (s.setTile n t).poison = s.poison := rfl
@[simp] theorem State.setTile_hmem (s : State) (n : Nat) (t : Tile) : (s.setTile n t).hmem = s.hmem := rfl
@[simp] theorem State.setTile_pcie (s : State) (n : Nat) (t : Tile) : (s.setTile n t).pcie = s.pcie := rfl
@[simp] theorem State.setTile_errs (s : State) (n : Nat) (t : Tile) : (s.setTile n t).errs = s.errs := rfl
@[simp] theorem State.setTile_matrix (s : State) (n : Nat) (t : Tile) : (s.setTile n t).matrix = s.matrix := rfl
@[simp] theorem State.setTile_ids (s : State) (n : Nat) (t : Tile) : (s.setTile n t).ids = s.ids := rfl
@[simp] theorem State.setTile_parts (s : State) (n : Nat) (t : Tile) : (s.setTile n t).parts = s.parts := rfl
@[simp] theorem State.setTile_dbg (s : State) (n : Nat) (t : Tile) : (s.setTile n t).dbg = s.dbg := rfl
@[simp] theorem State.setTile_trained (s : State) (n : Nat) (t : Tile) : (s.setTile n t).trained = s.trained := rfl
@[simp] theorem State.setTile_full (s : State) (n : Nat) (t : Tile) : (s.setTile n t).full = s.full := rfl
@[simp] theorem State.setTile_dcnt (s : State) (n : Nat) (t : Tile) : (s.setTile n t).dcnt = s.dcnt := rfl
@[simp] theorem State.setTile_survey (s : State) (n : Nat) (t : Tile) : (s.setTile n t).survey = s.survey := rfl
@[simp] theorem State.setTile_irqs (s : State) (n : Nat) (t : Tile) : (s.setTile n t).irqs = s.irqs := rfl
@[simp] theorem State.setTile_recs (s : State) (n : Nat) (t : Tile) : (s.setTile n t).recs = s.recs := rfl
@[simp] theorem State.setTile_rinfo (s : State) (n : Nat) (t : Tile) : (s.setTile n t).rinfo = s.rinfo := rfl
@[simp] theorem State.setTile_pool (s : State) (n : Nat) (t : Tile) : (s.setTile n t).pool = s.pool := rfl
@[simp] theorem State.setTile_resv (s : State) (n : Nat) (t : Tile) : (s.setTile n t).resv = s.resv := rfl
@[simp] theorem State.setTile_runs (s : State) (n : Nat) (t : Tile) : (s.setTile n t).runs = s.runs := rfl
@[simp] theorem State.setTile_saved (s : State) (n : Nat) (t : Tile) : (s.setTile n t).saved = s.saved := rfl
@[simp] theorem State.setTile_psets (s : State) (n : Nat) (t : Tile) : (s.setTile n t).psets = s.psets := rfl
@[simp] theorem State.setTile_mig (s : State) (n : Nat) (t : Tile) : (s.setTile n t).mig = s.mig := rfl
@[simp] theorem State.setTile_wd (s : State) (n : Nat) (t : Tile) : (s.setTile n t).wd = s.wd := rfl
@[simp] theorem State.setTile_frings (s : State) (n : Nat) (t : Tile) : (s.setTile n t).frings = s.frings := rfl
@[simp] theorem State.setTile_invs (s : State) (n : Nat) (t : Tile) : (s.setTile n t).invs = s.invs := rfl
@[simp] theorem State.setTile_invn (s : State) (n : Nat) (t : Tile) : (s.setTile n t).invn = s.invn := rfl
@[simp] theorem State.setTile_queues (s : State) (n : Nat) (t : Tile) : (s.setTile n t).queues = s.queues := rfl
@[simp] theorem State.setTile_sevcnt (s : State) (n : Nat) (t : Tile) : (s.setTile n t).sevcnt = s.sevcnt := rfl
@[simp] theorem State.setTile_jseq (s : State) (n : Nat) (t : Tile) : (s.setTile n t).jseq = s.jseq := rfl
@[simp] theorem State.setTile_viral (s : State) (n : Nat) (t : Tile) : (s.setTile n t).viral = s.viral := rfl
@[simp] theorem State.setTile_asm (s : State) (n : Nat) (t : Tile) : (s.setTile n t).asm = s.asm := rfl
@[simp] theorem State.setTile_caps (s : State) (n : Nat) (t : Tile) : (s.setTile n t).caps = s.caps := rfl
@[simp] theorem State.setTile_snap (s : State) (n : Nat) (t : Tile) : (s.setTile n t).snap = s.snap := rfl
@[simp] theorem State.setTile_rest (s : State) (n : Nat) (t : Tile) : (s.setTile n t).rest = s.rest := rfl
@[simp] theorem State.setTile_taken (s : State) (n : Nat) (t : Tile) : (s.setTile n t).taken = s.taken := rfl
@[simp] theorem State.setTile_kept (s : State) (n : Nat) (t : Tile) : (s.setTile n t).kept = s.kept := rfl
@[simp] theorem State.setTile_wipe (s : State) (n : Nat) (t : Tile) : (s.setTile n t).wipe = s.wipe := rfl
@[simp] theorem State.setTile_nv (s : State) (n : Nat) (t : Tile) : (s.setTile n t).nv = s.nv := rfl
@[simp] theorem State.setTile_ports (s : State) (n : Nat) (t : Tile) : (s.setTile n t).ports = s.ports := rfl
@[simp] theorem State.setTile_fab (s : State) (n : Nat) (t : Tile) : (s.setTile n t).fab = s.fab := rfl
@[simp] theorem State.setTile_jown (s : State) (n : Nat) (t : Tile) : (s.setTile n t).jown = s.jown := rfl
@[simp] theorem State.setTile_sees (s : State) (n : Nat) (t : Tile) : (s.setTile n t).sees = s.sees := rfl
@[simp] theorem State.setTile_oldTags (s : State) (n : Nat) (t : Tile) : (s.setTile n t).oldTags = s.oldTags := rfl
@[simp] theorem State.setTile_views (s : State) (n : Nat) (t : Tile) : (s.setTile n t).views = s.views := rfl

/-- A key just set is found. -/
@[simp] theorem tfind_tset_same {α : Type} (l : Tab α) (n : Nat) (v : α) : tfind (tset l n v) n = some v := by
  induction l with
  | nil => simp [tset, tfind]
  | cons p r ih =>
    obtain ⟨k, x⟩ := p
    unfold tset
    split
    · simp [tfind]
    · split
      · simp [tfind]
      · simp [tfind, *]

/-- Another key is found as before. -/
theorem tfind_tset_ne {α : Type} (l : Tab α) (n m : Nat) (v : α) (h : m ≠ n) : tfind (tset l n v) m = tfind l m := by
  induction l with
  | nil => simp [tset, tfind, Ne.symm h]
  | cons p r ih =>
    obtain ⟨k, x⟩ := p
    unfold tset
    split
    · subst k
      simp [tfind, Ne.symm h]
    · split
      · simp [tfind, Ne.symm h]
      · simp [tfind, ih]

@[simp] theorem tget_tset_same {α : Type} (l : Tab α) (d : α) (n : Nat) (v : α) : tget (tset l n v) d n = v := by
  simp [tget]

theorem tget_tset_ne {α : Type} (l : Tab α) (d : α) (n m : Nat) (v : α) (h : m ≠ n) :
    tget (tset l n v) d m = tget l d m := by
  simp [tget, tfind_tset_ne l n m v h]

@[simp] theorem State.tile_setTile (s : State) (n : Nat) (t : Tile) : (s.setTile n t).tile n = t :=
  tget_tset_same _ _ _ _

theorem State.tile_setTile_ne (s : State) (n m : Nat) (t : Tile) (h : m ≠ n) : (s.setTile n t).tile m = s.tile m :=
  tget_tset_ne _ _ _ _ _ h

/-! ### Tile.setSlot -/

@[simp] theorem Tile.setSlot_cyc (t : Tile) (k : Slot) (x : SlotSt) : (t.setSlot k x).cyc = t.cyc := by cases k <;> rfl
@[simp] theorem Tile.setSlot_phase (t : Tile) (k : Slot) (x : SlotSt) : (t.setSlot k x).phase = t.phase := by cases k <;> rfl
@[simp] theorem Tile.setSlot_x (t : Tile) (k : Slot) (x : SlotSt) : (t.setSlot k x).x = t.x := by cases k <;> rfl
@[simp] theorem Tile.setSlot_hs (t : Tile) (k : Slot) (x : SlotSt) : (t.setSlot k x).hs = t.hs := by cases k <;> rfl
@[simp] theorem Tile.setSlot_hg (t : Tile) (k : Slot) (x : SlotSt) : (t.setSlot k x).hg = t.hg := by cases k <;> rfl
@[simp] theorem Tile.setSlot_istore (t : Tile) (k : Slot) (x : SlotSt) : (t.setSlot k x).istore = t.istore := by cases k <;> rfl
@[simp] theorem Tile.setSlot_istOld (t : Tile) (k : Slot) (x : SlotSt) : (t.setSlot k x).istOld = t.istOld := by cases k <;> rfl
@[simp] theorem Tile.setSlot_oldNow (t : Tile) (k : Slot) (x : SlotSt) : (t.setSlot k x).oldNow = t.oldNow := by cases k <;> rfl
@[simp] theorem Tile.setSlot_spad (t : Tile) (k : Slot) (x : SlotSt) : (t.setSlot k x).spad = t.spad := by cases k <;> rfl
@[simp] theorem Tile.setSlot_bfmt (t : Tile) (k : Slot) (x : SlotSt) : (t.setSlot k x).bfmt = t.bfmt := by cases k <;> rfl
@[simp] theorem Tile.setSlot_bscl (t : Tile) (k : Slot) (x : SlotSt) : (t.setSlot k x).bscl = t.bscl := by cases k <;> rfl
@[simp] theorem Tile.setSlot_tcfg (t : Tile) (k : Slot) (x : SlotSt) : (t.setSlot k x).tcfg = t.tcfg := by cases k <;> rfl
@[simp] theorem Tile.setSlot_trapc (t : Tile) (k : Slot) (x : SlotSt) : (t.setSlot k x).trapc = t.trapc := by cases k <;> rfl
@[simp] theorem Tile.setSlot_trappc (t : Tile) (k : Slot) (x : SlotSt) : (t.setSlot k x).trappc = t.trappc := by cases k <;> rfl
@[simp] theorem Tile.setSlot_trapv (t : Tile) (k : Slot) (x : SlotSt) : (t.setSlot k x).trapv = t.trapv := by cases k <;> rfl
@[simp] theorem Tile.setSlot_flags (t : Tile) (k : Slot) (x : SlotSt) : (t.setSlot k x).flags = t.flags := by cases k <;> rfl
@[simp] theorem Tile.setSlot_inh (t : Tile) (k : Slot) (x : SlotSt) : (t.setSlot k x).inh = t.inh := by cases k <;> rfl
@[simp] theorem Tile.setSlot_srseed (t : Tile) (k : Slot) (x : SlotSt) : (t.setSlot k x).srseed = t.srseed := by cases k <;> rfl
@[simp] theorem Tile.setSlot_sevm (t : Tile) (k : Slot) (x : SlotSt) : (t.setSlot k x).sevm = t.sevm := by cases k <;> rfl
@[simp] theorem Tile.setSlot_drnTab (t : Tile) (k : Slot) (x : SlotSt) : (t.setSlot k x).drnTab = t.drnTab := by cases k <;> rfl
@[simp] theorem Tile.setSlot_cntsel (t : Tile) (k : Slot) (x : SlotSt) : (t.setSlot k x).cntsel = t.cntsel := by cases k <;> rfl
@[simp] theorem Tile.setSlot_cnt (t : Tile) (k : Slot) (x : SlotSt) : (t.setSlot k x).cnt = t.cnt := by cases k <;> rfl
@[simp] theorem Tile.setSlot_tally (t : Tile) (k : Slot) (x : SlotSt) : (t.setSlot k x).tally = t.tally := by cases k <;> rfl
@[simp] theorem Tile.setSlot_past (t : Tile) (k : Slot) (x : SlotSt) : (t.setSlot k x).past = t.past := by cases k <;> rfl
@[simp] theorem Tile.setSlot_task (t : Tile) (k : Slot) (x : SlotSt) : (t.setSlot k x).task = t.task := by cases k <;> rfl
@[simp] theorem Tile.setSlot_owner (t : Tile) (k : Slot) (x : SlotSt) : (t.setSlot k x).owner = t.owner := by cases k <;> rfl
@[simp] theorem Tile.setSlot_iclrs (t : Tile) (k : Slot) (x : SlotSt) : (t.setSlot k x).iclrs = t.iclrs := by cases k <;> rfl
@[simp] theorem Tile.setSlot_nowV (t : Tile) (k : Slot) (x : SlotSt) : (t.setSlot k x).nowV = t.nowV := by cases k <;> rfl
@[simp] theorem Tile.setSlot_nowM (t : Tile) (k : Slot) (x : SlotSt) : (t.setSlot k x).nowM = t.nowM := by cases k <;> rfl
@[simp] theorem Tile.setSlot_nowC (t : Tile) (k : Slot) (x : SlotSt) : (t.setSlot k x).nowC = t.nowC := by cases k <;> rfl
@[simp] theorem Tile.setSlot_pend (t : Tile) (k : Slot) (x : SlotSt) : (t.setSlot k x).pend = t.pend := by cases k <;> rfl
@[simp] theorem Tile.setSlot_board (t : Tile) (k : Slot) (x : SlotSt) : (t.setSlot k x).board = t.board := by cases k <;> rfl
@[simp] theorem Tile.setSlot_reserved (t : Tile) (k : Slot) (x : SlotSt) : (t.setSlot k x).reserved = t.reserved := by cases k <;> rfl
@[simp] theorem Tile.setSlot_eoc (t : Tile) (k : Slot) (x : SlotSt) : (t.setSlot k x).eoc = t.eoc := by cases k <;> rfl
@[simp] theorem Tile.setSlot_toks (t : Tile) (k : Slot) (x : SlotSt) : (t.setSlot k x).toks = t.toks := by cases k <;> rfl
@[simp] theorem Tile.setSlot_tpush (t : Tile) (k : Slot) (x : SlotSt) : (t.setSlot k x).tpush = t.tpush := by cases k <;> rfl
@[simp] theorem Tile.setSlot_vjobs (t : Tile) (k : Slot) (x : SlotSt) : (t.setSlot k x).vjobs = t.vjobs := by cases k <;> rfl
@[simp] theorem Tile.setSlot_vFree (t : Tile) (k : Slot) (x : SlotSt) : (t.setSlot k x).vFree = t.vFree := by cases k <;> rfl
@[simp] theorem Tile.setSlot_eng (t : Tile) (k : Slot) (x : SlotSt) : (t.setSlot k x).eng = t.eng := by cases k <;> rfl
@[simp] theorem Tile.setSlot_trapT (t : Tile) (k : Slot) (x : SlotSt) : (t.setSlot k x).trapT = t.trapT := by cases k <;> rfl
@[simp] theorem Tile.setSlot_heldC (t : Tile) (k : Slot) (x : SlotSt) : (t.setSlot k x).heldC = t.heldC := by cases k <;> rfl
@[simp] theorem Tile.setSlot_hEnded (t : Tile) (k : Slot) (x : SlotSt) : (t.setSlot k x).hEnded = t.hEnded := by cases k <;> rfl
@[simp] theorem Tile.setSlot_double (t : Tile) (k : Slot) (x : SlotSt) : (t.setSlot k x).double = t.double := by cases k <;> rfl
@[simp] theorem Tile.setSlot_hold (t : Tile) (k : Slot) (x : SlotSt) : (t.setSlot k x).hold = t.hold := by cases k <;> rfl
@[simp] theorem Tile.setSlot_killed (t : Tile) (k : Slot) (x : SlotSt) : (t.setSlot k x).killed = t.killed := by cases k <;> rfl
@[simp] theorem Tile.setSlot_bundle (t : Tile) (k : Slot) (x : SlotSt) : (t.setSlot k x).bundle = t.bundle := by cases k <;> rfl
@[simp] theorem Tile.setSlot_evs (t : Tile) (k : Slot) (x : SlotSt) : (t.setSlot k x).evs = t.evs := by cases k <;> rfl
@[simp] theorem Tile.setSlot_bars (t : Tile) (k : Slot) (x : SlotSt) : (t.setSlot k x).bars = t.bars := by cases k <;> rfl
@[simp] theorem Tile.setSlot_muts (t : Tile) (k : Slot) (x : SlotSt) : (t.setSlot k x).muts = t.muts := by cases k <;> rfl
@[simp] theorem Tile.setSlot_sems (t : Tile) (k : Slot) (x : SlotSt) : (t.setSlot k x).sems = t.sems := by cases k <;> rfl
@[simp] theorem Tile.setSlot_ctrs (t : Tile) (k : Slot) (x : SlotSt) : (t.setSlot k x).ctrs = t.ctrs := by cases k <;> rfl
@[simp] theorem Tile.setSlot_bcbs (t : Tile) (k : Slot) (x : SlotSt) : (t.setSlot k x).bcbs = t.bcbs := by cases k <;> rfl
@[simp] theorem Tile.setSlot_ents (t : Tile) (k : Slot) (x : SlotSt) : (t.setSlot k x).ents = t.ents := by cases k <;> rfl
@[simp] theorem Tile.setSlot_laq (t : Tile) (k : Slot) (x : SlotSt) : (t.setSlot k x).laq = t.laq := by cases k <;> rfl
@[simp] theorem Tile.setSlot_saq (t : Tile) (k : Slot) (x : SlotSt) : (t.setSlot k x).saq = t.saq := by cases k <;> rfl
@[simp] theorem Tile.setSlot_ahead (t : Tile) (k : Slot) (x : SlotSt) : (t.setSlot k x).ahead = t.ahead := by cases k <;> rfl
@[simp] theorem Tile.setSlot_lq (t : Tile) (k : Slot) (x : SlotSt) : (t.setSlot k x).lq = t.lq := by cases k <;> rfl
@[simp] theorem Tile.setSlot_sq (t : Tile) (k : Slot) (x : SlotSt) : (t.setSlot k x).sq = t.sq := by cases k <;> rfl
@[simp] theorem Tile.setSlot_led (t : Tile) (k : Slot) (x : SlotSt) : (t.setSlot k x).led = t.led := by cases k <;> rfl
@[simp] theorem Tile.setSlot_fence (t : Tile) (k : Slot) (x : SlotSt) : (t.setSlot k x).fence = t.fence := by cases k <;> rfl
@[simp] theorem Tile.setSlot_used (t : Tile) (k : Slot) (x : SlotSt) : (t.setSlot k x).used = t.used := by cases k <;> rfl
@[simp] theorem Tile.setSlot_back (t : Tile) (k : Slot) (x : SlotSt) : (t.setSlot k x).back = t.back := by cases k <;> rfl
@[simp] theorem Tile.setSlot_chain (t : Tile) (k : Slot) (x : SlotSt) : (t.setSlot k x).chain = t.chain := by cases k <;> rfl
@[simp] theorem Tile.setSlot_async (t : Tile) (k : Slot) (x : SlotSt) : (t.setSlot k x).async = t.async := by cases k <;> rfl
@[simp] theorem Tile.setSlot_comm (t : Tile) (k : Slot) (x : SlotSt) : (t.setSlot k x).comm = t.comm := by cases k <;> rfl
@[simp] theorem Tile.setSlot_shaped (t : Tile) (k : Slot) (x : SlotSt) : (t.setSlot k x).shaped = t.shaped := by cases k <;> rfl
@[simp] theorem Tile.setSlot_tmq (t : Tile) (k : Slot) (x : SlotSt) : (t.setSlot k x).tmq = t.tmq := by cases k <;> rfl
@[simp] theorem Tile.setSlot_tlb (t : Tile) (k : Slot) (x : SlotSt) : (t.setSlot k x).tlb = t.tlb := by cases k <;> rfl
@[simp] theorem Tile.setSlot_ids (t : Tile) (k : Slot) (x : SlotSt) : (t.setSlot k x).ids = t.ids := by cases k <;> rfl
@[simp] theorem Tile.setSlot_inbox (t : Tile) (k : Slot) (x : SlotSt) : (t.setSlot k x).inbox = t.inbox := by cases k <;> rfl
@[simp] theorem Tile.setSlot_coll (t : Tile) (k : Slot) (x : SlotSt) : (t.setSlot k x).coll = t.coll := by cases k <;> rfl
@[simp] theorem Tile.setSlot_invals (t : Tile) (k : Slot) (x : SlotSt) : (t.setSlot k x).invals = t.invals := by cases k <;> rfl
@[simp] theorem Tile.setSlot_qpts (t : Tile) (k : Slot) (x : SlotSt) : (t.setSlot k x).qpts = t.qpts := by cases k <;> rfl
@[simp] theorem Tile.setSlot_drn (t : Tile) (k : Slot) (x : SlotSt) : (t.setSlot k x).drn = t.drn := by cases k <;> rfl
@[simp] theorem Tile.setSlot_preq (t : Tile) (k : Slot) (x : SlotSt) : (t.setSlot k x).preq = t.preq := by cases k <;> rfl
@[simp] theorem Tile.setSlot_boot (t : Tile) (k : Slot) (x : SlotSt) : (t.setSlot k x).boot = t.boot := by cases k <;> rfl
@[simp] theorem Tile.setSlot_reqs (t : Tile) (k : Slot) (x : SlotSt) : (t.setSlot k x).reqs = t.reqs := by cases k <;> rfl
@[simp] theorem Tile.setSlot_flaws (t : Tile) (k : Slot) (x : SlotSt) : (t.setSlot k x).flaws = t.flaws := by cases k <;> rfl
@[simp] theorem Tile.setSlot_wdog (t : Tile) (k : Slot) (x : SlotSt) : (t.setSlot k x).wdog = t.wdog := by cases k <;> rfl
@[simp] theorem Tile.setSlot_shaper (t : Tile) (k : Slot) (x : SlotSt) : (t.setSlot k x).shaper = t.shaper := by cases k <;> rfl
@[simp] theorem Tile.slot_setSlot (t : Tile) (k : Slot) (x : SlotSt) : (t.setSlot k x).slot k = x := by cases k <;> rfl

theorem Tile.slot_setSlot_ne (t : Tile) (k j : Slot) (x : SlotSt) (h : j ≠ k) : (t.setSlot k x).slot j = t.slot j := by
  cases k <;> cases j <;> first | rfl | exact absurd rfl h

/-! ### Tile.popLq -/

@[simp] theorem Tile.popLq_cyc (t : Tile) (n : Nat) : (t.popLq n).cyc = t.cyc := rfl
@[simp] theorem Tile.popLq_phase (t : Tile) (n : Nat) : (t.popLq n).phase = t.phase := rfl
@[simp] theorem Tile.popLq_sc (t : Tile) (n : Nat) : (t.popLq n).sc = t.sc := rfl
@[simp] theorem Tile.popLq_sa (t : Tile) (n : Nat) : (t.popLq n).sa = t.sa := rfl
@[simp] theorem Tile.popLq_sv (t : Tile) (n : Nat) : (t.popLq n).sv = t.sv := rfl
@[simp] theorem Tile.popLq_sm (t : Tile) (n : Nat) : (t.popLq n).sm = t.sm := rfl
@[simp] theorem Tile.popLq_x (t : Tile) (n : Nat) : (t.popLq n).x = t.x := rfl
@[simp] theorem Tile.popLq_hs (t : Tile) (n : Nat) : (t.popLq n).hs = t.hs := rfl
@[simp] theorem Tile.popLq_hg (t : Tile) (n : Nat) : (t.popLq n).hg = t.hg := rfl
@[simp] theorem Tile.popLq_istore (t : Tile) (n : Nat) : (t.popLq n).istore = t.istore := rfl
@[simp] theorem Tile.popLq_istOld (t : Tile) (n : Nat) : (t.popLq n).istOld = t.istOld := rfl
@[simp] theorem Tile.popLq_oldNow (t : Tile) (n : Nat) : (t.popLq n).oldNow = t.oldNow := rfl
@[simp] theorem Tile.popLq_spad (t : Tile) (n : Nat) : (t.popLq n).spad = t.spad := rfl
@[simp] theorem Tile.popLq_bfmt (t : Tile) (n : Nat) : (t.popLq n).bfmt = t.bfmt := rfl
@[simp] theorem Tile.popLq_bscl (t : Tile) (n : Nat) : (t.popLq n).bscl = t.bscl := rfl
@[simp] theorem Tile.popLq_tcfg (t : Tile) (n : Nat) : (t.popLq n).tcfg = t.tcfg := rfl
@[simp] theorem Tile.popLq_trapc (t : Tile) (n : Nat) : (t.popLq n).trapc = t.trapc := rfl
@[simp] theorem Tile.popLq_trappc (t : Tile) (n : Nat) : (t.popLq n).trappc = t.trappc := rfl
@[simp] theorem Tile.popLq_trapv (t : Tile) (n : Nat) : (t.popLq n).trapv = t.trapv := rfl
@[simp] theorem Tile.popLq_flags (t : Tile) (n : Nat) : (t.popLq n).flags = t.flags := rfl
@[simp] theorem Tile.popLq_inh (t : Tile) (n : Nat) : (t.popLq n).inh = t.inh := rfl
@[simp] theorem Tile.popLq_srseed (t : Tile) (n : Nat) : (t.popLq n).srseed = t.srseed := rfl
@[simp] theorem Tile.popLq_sevm (t : Tile) (n : Nat) : (t.popLq n).sevm = t.sevm := rfl
@[simp] theorem Tile.popLq_drnTab (t : Tile) (n : Nat) : (t.popLq n).drnTab = t.drnTab := rfl
@[simp] theorem Tile.popLq_cntsel (t : Tile) (n : Nat) : (t.popLq n).cntsel = t.cntsel := rfl
@[simp] theorem Tile.popLq_cnt (t : Tile) (n : Nat) : (t.popLq n).cnt = t.cnt := rfl
@[simp] theorem Tile.popLq_tally (t : Tile) (n : Nat) : (t.popLq n).tally = t.tally := rfl
@[simp] theorem Tile.popLq_past (t : Tile) (n : Nat) : (t.popLq n).past = t.past := rfl
@[simp] theorem Tile.popLq_task (t : Tile) (n : Nat) : (t.popLq n).task = t.task := rfl
@[simp] theorem Tile.popLq_owner (t : Tile) (n : Nat) : (t.popLq n).owner = t.owner := rfl
@[simp] theorem Tile.popLq_iclrs (t : Tile) (n : Nat) : (t.popLq n).iclrs = t.iclrs := rfl
@[simp] theorem Tile.popLq_nowV (t : Tile) (n : Nat) : (t.popLq n).nowV = t.nowV := rfl
@[simp] theorem Tile.popLq_nowM (t : Tile) (n : Nat) : (t.popLq n).nowM = t.nowM := rfl
@[simp] theorem Tile.popLq_nowC (t : Tile) (n : Nat) : (t.popLq n).nowC = t.nowC := rfl
@[simp] theorem Tile.popLq_pend (t : Tile) (n : Nat) : (t.popLq n).pend = t.pend := rfl
@[simp] theorem Tile.popLq_board (t : Tile) (n : Nat) : (t.popLq n).board = t.board := rfl
@[simp] theorem Tile.popLq_reserved (t : Tile) (n : Nat) : (t.popLq n).reserved = t.reserved := rfl
@[simp] theorem Tile.popLq_eoc (t : Tile) (n : Nat) : (t.popLq n).eoc = t.eoc := rfl
@[simp] theorem Tile.popLq_toks (t : Tile) (n : Nat) : (t.popLq n).toks = t.toks := rfl
@[simp] theorem Tile.popLq_tpush (t : Tile) (n : Nat) : (t.popLq n).tpush = t.tpush := rfl
@[simp] theorem Tile.popLq_vjobs (t : Tile) (n : Nat) : (t.popLq n).vjobs = t.vjobs := rfl
@[simp] theorem Tile.popLq_vFree (t : Tile) (n : Nat) : (t.popLq n).vFree = t.vFree := rfl
@[simp] theorem Tile.popLq_eng (t : Tile) (n : Nat) : (t.popLq n).eng = t.eng := rfl
@[simp] theorem Tile.popLq_trapT (t : Tile) (n : Nat) : (t.popLq n).trapT = t.trapT := rfl
@[simp] theorem Tile.popLq_heldC (t : Tile) (n : Nat) : (t.popLq n).heldC = t.heldC := rfl
@[simp] theorem Tile.popLq_hEnded (t : Tile) (n : Nat) : (t.popLq n).hEnded = t.hEnded := rfl
@[simp] theorem Tile.popLq_double (t : Tile) (n : Nat) : (t.popLq n).double = t.double := rfl
@[simp] theorem Tile.popLq_hold (t : Tile) (n : Nat) : (t.popLq n).hold = t.hold := rfl
@[simp] theorem Tile.popLq_killed (t : Tile) (n : Nat) : (t.popLq n).killed = t.killed := rfl
@[simp] theorem Tile.popLq_bundle (t : Tile) (n : Nat) : (t.popLq n).bundle = t.bundle := rfl
@[simp] theorem Tile.popLq_evs (t : Tile) (n : Nat) : (t.popLq n).evs = t.evs := rfl
@[simp] theorem Tile.popLq_bars (t : Tile) (n : Nat) : (t.popLq n).bars = t.bars := rfl
@[simp] theorem Tile.popLq_muts (t : Tile) (n : Nat) : (t.popLq n).muts = t.muts := rfl
@[simp] theorem Tile.popLq_sems (t : Tile) (n : Nat) : (t.popLq n).sems = t.sems := rfl
@[simp] theorem Tile.popLq_ctrs (t : Tile) (n : Nat) : (t.popLq n).ctrs = t.ctrs := rfl
@[simp] theorem Tile.popLq_bcbs (t : Tile) (n : Nat) : (t.popLq n).bcbs = t.bcbs := rfl
@[simp] theorem Tile.popLq_ents (t : Tile) (n : Nat) : (t.popLq n).ents = t.ents := rfl
@[simp] theorem Tile.popLq_laq (t : Tile) (n : Nat) : (t.popLq n).laq = t.laq := rfl
@[simp] theorem Tile.popLq_saq (t : Tile) (n : Nat) : (t.popLq n).saq = t.saq := rfl
@[simp] theorem Tile.popLq_ahead (t : Tile) (n : Nat) : (t.popLq n).ahead = t.ahead := rfl
@[simp] theorem Tile.popLq_sq (t : Tile) (n : Nat) : (t.popLq n).sq = t.sq := rfl
@[simp] theorem Tile.popLq_led (t : Tile) (n : Nat) : (t.popLq n).led = t.led := rfl
@[simp] theorem Tile.popLq_fence (t : Tile) (n : Nat) : (t.popLq n).fence = t.fence := rfl
@[simp] theorem Tile.popLq_used (t : Tile) (n : Nat) : (t.popLq n).used = t.used := rfl
@[simp] theorem Tile.popLq_back (t : Tile) (n : Nat) : (t.popLq n).back = t.back := rfl
@[simp] theorem Tile.popLq_chain (t : Tile) (n : Nat) : (t.popLq n).chain = t.chain := rfl
@[simp] theorem Tile.popLq_async (t : Tile) (n : Nat) : (t.popLq n).async = t.async := rfl
@[simp] theorem Tile.popLq_comm (t : Tile) (n : Nat) : (t.popLq n).comm = t.comm := rfl
@[simp] theorem Tile.popLq_shaped (t : Tile) (n : Nat) : (t.popLq n).shaped = t.shaped := rfl
@[simp] theorem Tile.popLq_tmq (t : Tile) (n : Nat) : (t.popLq n).tmq = t.tmq := rfl
@[simp] theorem Tile.popLq_tlb (t : Tile) (n : Nat) : (t.popLq n).tlb = t.tlb := rfl
@[simp] theorem Tile.popLq_ids (t : Tile) (n : Nat) : (t.popLq n).ids = t.ids := rfl
@[simp] theorem Tile.popLq_inbox (t : Tile) (n : Nat) : (t.popLq n).inbox = t.inbox := rfl
@[simp] theorem Tile.popLq_coll (t : Tile) (n : Nat) : (t.popLq n).coll = t.coll := rfl
@[simp] theorem Tile.popLq_invals (t : Tile) (n : Nat) : (t.popLq n).invals = t.invals := rfl
@[simp] theorem Tile.popLq_qpts (t : Tile) (n : Nat) : (t.popLq n).qpts = t.qpts := rfl
@[simp] theorem Tile.popLq_drn (t : Tile) (n : Nat) : (t.popLq n).drn = t.drn := rfl
@[simp] theorem Tile.popLq_preq (t : Tile) (n : Nat) : (t.popLq n).preq = t.preq := rfl
@[simp] theorem Tile.popLq_boot (t : Tile) (n : Nat) : (t.popLq n).boot = t.boot := rfl
@[simp] theorem Tile.popLq_reqs (t : Tile) (n : Nat) : (t.popLq n).reqs = t.reqs := rfl
@[simp] theorem Tile.popLq_flaws (t : Tile) (n : Nat) : (t.popLq n).flaws = t.flaws := rfl
@[simp] theorem Tile.popLq_wdog (t : Tile) (n : Nat) : (t.popLq n).wdog = t.wdog := rfl
@[simp] theorem Tile.popLq_shaper (t : Tile) (n : Nat) : (t.popLq n).shaper = t.shaper := rfl

@[simp] theorem Tile.popLq_lq (t : Tile) (n : Nat) : (t.popLq n).lq = t.lq.drop n := rfl
@[simp] theorem Tile.popLq_slot (t : Tile) (n : Nat) (k : Slot) : (t.popLq n).slot k = t.slot k := by cases k <;> rfl

/-! ### Tile.atEnd -/

@[simp] theorem Tile.atEnd_cyc (t : Tile) (e : Eoc) : (t.atEnd e).cyc = t.cyc := rfl
@[simp] theorem Tile.atEnd_phase (t : Tile) (e : Eoc) : (t.atEnd e).phase = t.phase := rfl
@[simp] theorem Tile.atEnd_sc (t : Tile) (e : Eoc) : (t.atEnd e).sc = t.sc := rfl
@[simp] theorem Tile.atEnd_sa (t : Tile) (e : Eoc) : (t.atEnd e).sa = t.sa := rfl
@[simp] theorem Tile.atEnd_sv (t : Tile) (e : Eoc) : (t.atEnd e).sv = t.sv := rfl
@[simp] theorem Tile.atEnd_sm (t : Tile) (e : Eoc) : (t.atEnd e).sm = t.sm := rfl
@[simp] theorem Tile.atEnd_x (t : Tile) (e : Eoc) : (t.atEnd e).x = t.x := rfl
@[simp] theorem Tile.atEnd_hs (t : Tile) (e : Eoc) : (t.atEnd e).hs = t.hs := rfl
@[simp] theorem Tile.atEnd_hg (t : Tile) (e : Eoc) : (t.atEnd e).hg = t.hg := rfl
@[simp] theorem Tile.atEnd_istore (t : Tile) (e : Eoc) : (t.atEnd e).istore = t.istore := rfl
@[simp] theorem Tile.atEnd_istOld (t : Tile) (e : Eoc) : (t.atEnd e).istOld = t.istOld := rfl
@[simp] theorem Tile.atEnd_oldNow (t : Tile) (e : Eoc) : (t.atEnd e).oldNow = t.oldNow := rfl
@[simp] theorem Tile.atEnd_spad (t : Tile) (e : Eoc) : (t.atEnd e).spad = t.spad := rfl
@[simp] theorem Tile.atEnd_bfmt (t : Tile) (e : Eoc) : (t.atEnd e).bfmt = t.bfmt := rfl
@[simp] theorem Tile.atEnd_bscl (t : Tile) (e : Eoc) : (t.atEnd e).bscl = t.bscl := rfl
@[simp] theorem Tile.atEnd_tcfg (t : Tile) (e : Eoc) : (t.atEnd e).tcfg = t.tcfg := rfl
@[simp] theorem Tile.atEnd_trapc (t : Tile) (e : Eoc) : (t.atEnd e).trapc = t.trapc := rfl
@[simp] theorem Tile.atEnd_trappc (t : Tile) (e : Eoc) : (t.atEnd e).trappc = t.trappc := rfl
@[simp] theorem Tile.atEnd_trapv (t : Tile) (e : Eoc) : (t.atEnd e).trapv = t.trapv := rfl
@[simp] theorem Tile.atEnd_flags (t : Tile) (e : Eoc) : (t.atEnd e).flags = t.flags := rfl
@[simp] theorem Tile.atEnd_inh (t : Tile) (e : Eoc) : (t.atEnd e).inh = t.inh := rfl
@[simp] theorem Tile.atEnd_srseed (t : Tile) (e : Eoc) : (t.atEnd e).srseed = t.srseed := rfl
@[simp] theorem Tile.atEnd_sevm (t : Tile) (e : Eoc) : (t.atEnd e).sevm = t.sevm := rfl
@[simp] theorem Tile.atEnd_drnTab (t : Tile) (e : Eoc) : (t.atEnd e).drnTab = t.drnTab := rfl
@[simp] theorem Tile.atEnd_cntsel (t : Tile) (e : Eoc) : (t.atEnd e).cntsel = t.cntsel := rfl
@[simp] theorem Tile.atEnd_cnt (t : Tile) (e : Eoc) : (t.atEnd e).cnt = t.cnt := rfl
@[simp] theorem Tile.atEnd_tally (t : Tile) (e : Eoc) : (t.atEnd e).tally = t.tally := rfl
@[simp] theorem Tile.atEnd_past (t : Tile) (e : Eoc) : (t.atEnd e).past = t.past := rfl
@[simp] theorem Tile.atEnd_task (t : Tile) (e : Eoc) : (t.atEnd e).task = t.task := rfl
@[simp] theorem Tile.atEnd_owner (t : Tile) (e : Eoc) : (t.atEnd e).owner = t.owner := rfl
@[simp] theorem Tile.atEnd_iclrs (t : Tile) (e : Eoc) : (t.atEnd e).iclrs = t.iclrs := rfl
@[simp] theorem Tile.atEnd_nowV (t : Tile) (e : Eoc) : (t.atEnd e).nowV = t.nowV := rfl
@[simp] theorem Tile.atEnd_nowM (t : Tile) (e : Eoc) : (t.atEnd e).nowM = t.nowM := rfl
@[simp] theorem Tile.atEnd_nowC (t : Tile) (e : Eoc) : (t.atEnd e).nowC = t.nowC := rfl
@[simp] theorem Tile.atEnd_pend (t : Tile) (e : Eoc) : (t.atEnd e).pend = t.pend := rfl
@[simp] theorem Tile.atEnd_board (t : Tile) (e : Eoc) : (t.atEnd e).board = t.board := rfl
@[simp] theorem Tile.atEnd_reserved (t : Tile) (e : Eoc) : (t.atEnd e).reserved = t.reserved := rfl
@[simp] theorem Tile.atEnd_toks (t : Tile) (e : Eoc) : (t.atEnd e).toks = t.toks := rfl
@[simp] theorem Tile.atEnd_tpush (t : Tile) (e : Eoc) : (t.atEnd e).tpush = t.tpush := rfl
@[simp] theorem Tile.atEnd_vjobs (t : Tile) (e : Eoc) : (t.atEnd e).vjobs = t.vjobs := rfl
@[simp] theorem Tile.atEnd_vFree (t : Tile) (e : Eoc) : (t.atEnd e).vFree = t.vFree := rfl
@[simp] theorem Tile.atEnd_eng (t : Tile) (e : Eoc) : (t.atEnd e).eng = t.eng := rfl
@[simp] theorem Tile.atEnd_trapT (t : Tile) (e : Eoc) : (t.atEnd e).trapT = t.trapT := rfl
@[simp] theorem Tile.atEnd_heldC (t : Tile) (e : Eoc) : (t.atEnd e).heldC = t.heldC := rfl
@[simp] theorem Tile.atEnd_hEnded (t : Tile) (e : Eoc) : (t.atEnd e).hEnded = t.hEnded := rfl
@[simp] theorem Tile.atEnd_double (t : Tile) (e : Eoc) : (t.atEnd e).double = t.double := rfl
@[simp] theorem Tile.atEnd_hold (t : Tile) (e : Eoc) : (t.atEnd e).hold = t.hold := rfl
@[simp] theorem Tile.atEnd_killed (t : Tile) (e : Eoc) : (t.atEnd e).killed = t.killed := rfl
@[simp] theorem Tile.atEnd_bundle (t : Tile) (e : Eoc) : (t.atEnd e).bundle = t.bundle := rfl
@[simp] theorem Tile.atEnd_evs (t : Tile) (e : Eoc) : (t.atEnd e).evs = t.evs := rfl
@[simp] theorem Tile.atEnd_bars (t : Tile) (e : Eoc) : (t.atEnd e).bars = t.bars := rfl
@[simp] theorem Tile.atEnd_muts (t : Tile) (e : Eoc) : (t.atEnd e).muts = t.muts := rfl
@[simp] theorem Tile.atEnd_sems (t : Tile) (e : Eoc) : (t.atEnd e).sems = t.sems := rfl
@[simp] theorem Tile.atEnd_ctrs (t : Tile) (e : Eoc) : (t.atEnd e).ctrs = t.ctrs := rfl
@[simp] theorem Tile.atEnd_bcbs (t : Tile) (e : Eoc) : (t.atEnd e).bcbs = t.bcbs := rfl
@[simp] theorem Tile.atEnd_ents (t : Tile) (e : Eoc) : (t.atEnd e).ents = t.ents := rfl
@[simp] theorem Tile.atEnd_laq (t : Tile) (e : Eoc) : (t.atEnd e).laq = t.laq := rfl
@[simp] theorem Tile.atEnd_saq (t : Tile) (e : Eoc) : (t.atEnd e).saq = t.saq := rfl
@[simp] theorem Tile.atEnd_ahead (t : Tile) (e : Eoc) : (t.atEnd e).ahead = t.ahead := rfl
@[simp] theorem Tile.atEnd_lq (t : Tile) (e : Eoc) : (t.atEnd e).lq = t.lq := rfl
@[simp] theorem Tile.atEnd_sq (t : Tile) (e : Eoc) : (t.atEnd e).sq = t.sq := rfl
@[simp] theorem Tile.atEnd_led (t : Tile) (e : Eoc) : (t.atEnd e).led = t.led := rfl
@[simp] theorem Tile.atEnd_fence (t : Tile) (e : Eoc) : (t.atEnd e).fence = t.fence := rfl
@[simp] theorem Tile.atEnd_used (t : Tile) (e : Eoc) : (t.atEnd e).used = t.used := rfl
@[simp] theorem Tile.atEnd_back (t : Tile) (e : Eoc) : (t.atEnd e).back = t.back := rfl
@[simp] theorem Tile.atEnd_chain (t : Tile) (e : Eoc) : (t.atEnd e).chain = t.chain := rfl
@[simp] theorem Tile.atEnd_async (t : Tile) (e : Eoc) : (t.atEnd e).async = t.async := rfl
@[simp] theorem Tile.atEnd_comm (t : Tile) (e : Eoc) : (t.atEnd e).comm = t.comm := rfl
@[simp] theorem Tile.atEnd_shaped (t : Tile) (e : Eoc) : (t.atEnd e).shaped = t.shaped := rfl
@[simp] theorem Tile.atEnd_tmq (t : Tile) (e : Eoc) : (t.atEnd e).tmq = t.tmq := rfl
@[simp] theorem Tile.atEnd_tlb (t : Tile) (e : Eoc) : (t.atEnd e).tlb = t.tlb := rfl
@[simp] theorem Tile.atEnd_ids (t : Tile) (e : Eoc) : (t.atEnd e).ids = t.ids := rfl
@[simp] theorem Tile.atEnd_inbox (t : Tile) (e : Eoc) : (t.atEnd e).inbox = t.inbox := rfl
@[simp] theorem Tile.atEnd_coll (t : Tile) (e : Eoc) : (t.atEnd e).coll = t.coll := rfl
@[simp] theorem Tile.atEnd_invals (t : Tile) (e : Eoc) : (t.atEnd e).invals = t.invals := rfl
@[simp] theorem Tile.atEnd_qpts (t : Tile) (e : Eoc) : (t.atEnd e).qpts = t.qpts := rfl
@[simp] theorem Tile.atEnd_drn (t : Tile) (e : Eoc) : (t.atEnd e).drn = t.drn := rfl
@[simp] theorem Tile.atEnd_preq (t : Tile) (e : Eoc) : (t.atEnd e).preq = t.preq := rfl
@[simp] theorem Tile.atEnd_boot (t : Tile) (e : Eoc) : (t.atEnd e).boot = t.boot := rfl
@[simp] theorem Tile.atEnd_reqs (t : Tile) (e : Eoc) : (t.atEnd e).reqs = t.reqs := rfl
@[simp] theorem Tile.atEnd_flaws (t : Tile) (e : Eoc) : (t.atEnd e).flaws = t.flaws := rfl
@[simp] theorem Tile.atEnd_wdog (t : Tile) (e : Eoc) : (t.atEnd e).wdog = t.wdog := rfl
@[simp] theorem Tile.atEnd_shaper (t : Tile) (e : Eoc) : (t.atEnd e).shaper = t.shaper := rfl

@[simp] theorem Tile.atEnd_eoc (t : Tile) (e : Eoc) : (t.atEnd e).eoc = t.eoc ++ [e] := rfl
@[simp] theorem Tile.atEnd_slot (t : Tile) (e : Eoc) (k : Slot) : (t.atEnd e).slot k = t.slot k := by cases k <;> rfl

/-! ### Tile.count -/

@[simp] theorem Tile.count_cyc (t : Tile) (code slot n : Nat) : (t.count code slot n).cyc = t.cyc := rfl
@[simp] theorem Tile.count_phase (t : Tile) (code slot n : Nat) : (t.count code slot n).phase = t.phase := rfl
@[simp] theorem Tile.count_sc (t : Tile) (code slot n : Nat) : (t.count code slot n).sc = t.sc := rfl
@[simp] theorem Tile.count_sa (t : Tile) (code slot n : Nat) : (t.count code slot n).sa = t.sa := rfl
@[simp] theorem Tile.count_sv (t : Tile) (code slot n : Nat) : (t.count code slot n).sv = t.sv := rfl
@[simp] theorem Tile.count_sm (t : Tile) (code slot n : Nat) : (t.count code slot n).sm = t.sm := rfl
@[simp] theorem Tile.count_x (t : Tile) (code slot n : Nat) : (t.count code slot n).x = t.x := rfl
@[simp] theorem Tile.count_hs (t : Tile) (code slot n : Nat) : (t.count code slot n).hs = t.hs := rfl
@[simp] theorem Tile.count_hg (t : Tile) (code slot n : Nat) : (t.count code slot n).hg = t.hg := rfl
@[simp] theorem Tile.count_istore (t : Tile) (code slot n : Nat) : (t.count code slot n).istore = t.istore := rfl
@[simp] theorem Tile.count_istOld (t : Tile) (code slot n : Nat) : (t.count code slot n).istOld = t.istOld := rfl
@[simp] theorem Tile.count_oldNow (t : Tile) (code slot n : Nat) : (t.count code slot n).oldNow = t.oldNow := rfl
@[simp] theorem Tile.count_spad (t : Tile) (code slot n : Nat) : (t.count code slot n).spad = t.spad := rfl
@[simp] theorem Tile.count_bfmt (t : Tile) (code slot n : Nat) : (t.count code slot n).bfmt = t.bfmt := rfl
@[simp] theorem Tile.count_bscl (t : Tile) (code slot n : Nat) : (t.count code slot n).bscl = t.bscl := rfl
@[simp] theorem Tile.count_tcfg (t : Tile) (code slot n : Nat) : (t.count code slot n).tcfg = t.tcfg := rfl
@[simp] theorem Tile.count_trapc (t : Tile) (code slot n : Nat) : (t.count code slot n).trapc = t.trapc := rfl
@[simp] theorem Tile.count_trappc (t : Tile) (code slot n : Nat) : (t.count code slot n).trappc = t.trappc := rfl
@[simp] theorem Tile.count_trapv (t : Tile) (code slot n : Nat) : (t.count code slot n).trapv = t.trapv := rfl
@[simp] theorem Tile.count_flags (t : Tile) (code slot n : Nat) : (t.count code slot n).flags = t.flags := rfl
@[simp] theorem Tile.count_inh (t : Tile) (code slot n : Nat) : (t.count code slot n).inh = t.inh := rfl
@[simp] theorem Tile.count_srseed (t : Tile) (code slot n : Nat) : (t.count code slot n).srseed = t.srseed := rfl
@[simp] theorem Tile.count_sevm (t : Tile) (code slot n : Nat) : (t.count code slot n).sevm = t.sevm := rfl
@[simp] theorem Tile.count_drnTab (t : Tile) (code slot n : Nat) : (t.count code slot n).drnTab = t.drnTab := rfl
@[simp] theorem Tile.count_cntsel (t : Tile) (code slot n : Nat) : (t.count code slot n).cntsel = t.cntsel := rfl
@[simp] theorem Tile.count_cnt (t : Tile) (code slot n : Nat) : (t.count code slot n).cnt = t.cnt := rfl
@[simp] theorem Tile.count_past (t : Tile) (code slot n : Nat) : (t.count code slot n).past = t.past := rfl
@[simp] theorem Tile.count_task (t : Tile) (code slot n : Nat) : (t.count code slot n).task = t.task := rfl
@[simp] theorem Tile.count_owner (t : Tile) (code slot n : Nat) : (t.count code slot n).owner = t.owner := rfl
@[simp] theorem Tile.count_iclrs (t : Tile) (code slot n : Nat) : (t.count code slot n).iclrs = t.iclrs := rfl
@[simp] theorem Tile.count_nowV (t : Tile) (code slot n : Nat) : (t.count code slot n).nowV = t.nowV := rfl
@[simp] theorem Tile.count_nowM (t : Tile) (code slot n : Nat) : (t.count code slot n).nowM = t.nowM := rfl
@[simp] theorem Tile.count_nowC (t : Tile) (code slot n : Nat) : (t.count code slot n).nowC = t.nowC := rfl
@[simp] theorem Tile.count_pend (t : Tile) (code slot n : Nat) : (t.count code slot n).pend = t.pend := rfl
@[simp] theorem Tile.count_board (t : Tile) (code slot n : Nat) : (t.count code slot n).board = t.board := rfl
@[simp] theorem Tile.count_reserved (t : Tile) (code slot n : Nat) : (t.count code slot n).reserved = t.reserved := rfl
@[simp] theorem Tile.count_eoc (t : Tile) (code slot n : Nat) : (t.count code slot n).eoc = t.eoc := rfl
@[simp] theorem Tile.count_toks (t : Tile) (code slot n : Nat) : (t.count code slot n).toks = t.toks := rfl
@[simp] theorem Tile.count_tpush (t : Tile) (code slot n : Nat) : (t.count code slot n).tpush = t.tpush := rfl
@[simp] theorem Tile.count_vjobs (t : Tile) (code slot n : Nat) : (t.count code slot n).vjobs = t.vjobs := rfl
@[simp] theorem Tile.count_vFree (t : Tile) (code slot n : Nat) : (t.count code slot n).vFree = t.vFree := rfl
@[simp] theorem Tile.count_eng (t : Tile) (code slot n : Nat) : (t.count code slot n).eng = t.eng := rfl
@[simp] theorem Tile.count_trapT (t : Tile) (code slot n : Nat) : (t.count code slot n).trapT = t.trapT := rfl
@[simp] theorem Tile.count_heldC (t : Tile) (code slot n : Nat) : (t.count code slot n).heldC = t.heldC := rfl
@[simp] theorem Tile.count_hEnded (t : Tile) (code slot n : Nat) : (t.count code slot n).hEnded = t.hEnded := rfl
@[simp] theorem Tile.count_double (t : Tile) (code slot n : Nat) : (t.count code slot n).double = t.double := rfl
@[simp] theorem Tile.count_hold (t : Tile) (code slot n : Nat) : (t.count code slot n).hold = t.hold := rfl
@[simp] theorem Tile.count_killed (t : Tile) (code slot n : Nat) : (t.count code slot n).killed = t.killed := rfl
@[simp] theorem Tile.count_bundle (t : Tile) (code slot n : Nat) : (t.count code slot n).bundle = t.bundle := rfl
@[simp] theorem Tile.count_evs (t : Tile) (code slot n : Nat) : (t.count code slot n).evs = t.evs := rfl
@[simp] theorem Tile.count_bars (t : Tile) (code slot n : Nat) : (t.count code slot n).bars = t.bars := rfl
@[simp] theorem Tile.count_muts (t : Tile) (code slot n : Nat) : (t.count code slot n).muts = t.muts := rfl
@[simp] theorem Tile.count_sems (t : Tile) (code slot n : Nat) : (t.count code slot n).sems = t.sems := rfl
@[simp] theorem Tile.count_ctrs (t : Tile) (code slot n : Nat) : (t.count code slot n).ctrs = t.ctrs := rfl
@[simp] theorem Tile.count_bcbs (t : Tile) (code slot n : Nat) : (t.count code slot n).bcbs = t.bcbs := rfl
@[simp] theorem Tile.count_ents (t : Tile) (code slot n : Nat) : (t.count code slot n).ents = t.ents := rfl
@[simp] theorem Tile.count_laq (t : Tile) (code slot n : Nat) : (t.count code slot n).laq = t.laq := rfl
@[simp] theorem Tile.count_saq (t : Tile) (code slot n : Nat) : (t.count code slot n).saq = t.saq := rfl
@[simp] theorem Tile.count_ahead (t : Tile) (code slot n : Nat) : (t.count code slot n).ahead = t.ahead := rfl
@[simp] theorem Tile.count_lq (t : Tile) (code slot n : Nat) : (t.count code slot n).lq = t.lq := rfl
@[simp] theorem Tile.count_sq (t : Tile) (code slot n : Nat) : (t.count code slot n).sq = t.sq := rfl
@[simp] theorem Tile.count_led (t : Tile) (code slot n : Nat) : (t.count code slot n).led = t.led := rfl
@[simp] theorem Tile.count_fence (t : Tile) (code slot n : Nat) : (t.count code slot n).fence = t.fence := rfl
@[simp] theorem Tile.count_used (t : Tile) (code slot n : Nat) : (t.count code slot n).used = t.used := rfl
@[simp] theorem Tile.count_back (t : Tile) (code slot n : Nat) : (t.count code slot n).back = t.back := rfl
@[simp] theorem Tile.count_chain (t : Tile) (code slot n : Nat) : (t.count code slot n).chain = t.chain := rfl
@[simp] theorem Tile.count_async (t : Tile) (code slot n : Nat) : (t.count code slot n).async = t.async := rfl
@[simp] theorem Tile.count_comm (t : Tile) (code slot n : Nat) : (t.count code slot n).comm = t.comm := rfl
@[simp] theorem Tile.count_shaped (t : Tile) (code slot n : Nat) : (t.count code slot n).shaped = t.shaped := rfl
@[simp] theorem Tile.count_tmq (t : Tile) (code slot n : Nat) : (t.count code slot n).tmq = t.tmq := rfl
@[simp] theorem Tile.count_tlb (t : Tile) (code slot n : Nat) : (t.count code slot n).tlb = t.tlb := rfl
@[simp] theorem Tile.count_ids (t : Tile) (code slot n : Nat) : (t.count code slot n).ids = t.ids := rfl
@[simp] theorem Tile.count_inbox (t : Tile) (code slot n : Nat) : (t.count code slot n).inbox = t.inbox := rfl
@[simp] theorem Tile.count_coll (t : Tile) (code slot n : Nat) : (t.count code slot n).coll = t.coll := rfl
@[simp] theorem Tile.count_invals (t : Tile) (code slot n : Nat) : (t.count code slot n).invals = t.invals := rfl
@[simp] theorem Tile.count_qpts (t : Tile) (code slot n : Nat) : (t.count code slot n).qpts = t.qpts := rfl
@[simp] theorem Tile.count_drn (t : Tile) (code slot n : Nat) : (t.count code slot n).drn = t.drn := rfl
@[simp] theorem Tile.count_preq (t : Tile) (code slot n : Nat) : (t.count code slot n).preq = t.preq := rfl
@[simp] theorem Tile.count_boot (t : Tile) (code slot n : Nat) : (t.count code slot n).boot = t.boot := rfl
@[simp] theorem Tile.count_reqs (t : Tile) (code slot n : Nat) : (t.count code slot n).reqs = t.reqs := rfl
@[simp] theorem Tile.count_flaws (t : Tile) (code slot n : Nat) : (t.count code slot n).flaws = t.flaws := rfl
@[simp] theorem Tile.count_wdog (t : Tile) (code slot n : Nat) : (t.count code slot n).wdog = t.wdog := rfl
@[simp] theorem Tile.count_shaper (t : Tile) (code slot n : Nat) : (t.count code slot n).shaper = t.shaper := rfl

@[simp] theorem Tile.count_slot (t : Tile) (code slot n : Nat) (k : Slot) : (t.count code slot n).slot k = t.slot k := by cases k <;> rfl

/-! ### Tile.countMove -/

@[simp] theorem Tile.countMove_cyc (t : Tile) (code slot n : Nat) : (t.countMove code slot n).cyc = t.cyc := by
  unfold Tile.countMove; split <;> rfl
@[simp] theorem Tile.countMove_phase (t : Tile) (code slot n : Nat) : (t.countMove code slot n).phase = t.phase := by
  unfold Tile.countMove; split <;> rfl
@[simp] theorem Tile.countMove_sc (t : Tile) (code slot n : Nat) : (t.countMove code slot n).sc = t.sc := by
  unfold Tile.countMove; split <;> rfl
@[simp] theorem Tile.countMove_sa (t : Tile) (code slot n : Nat) : (t.countMove code slot n).sa = t.sa := by
  unfold Tile.countMove; split <;> rfl
@[simp] theorem Tile.countMove_sv (t : Tile) (code slot n : Nat) : (t.countMove code slot n).sv = t.sv := by
  unfold Tile.countMove; split <;> rfl
@[simp] theorem Tile.countMove_sm (t : Tile) (code slot n : Nat) : (t.countMove code slot n).sm = t.sm := by
  unfold Tile.countMove; split <;> rfl
@[simp] theorem Tile.countMove_x (t : Tile) (code slot n : Nat) : (t.countMove code slot n).x = t.x := by
  unfold Tile.countMove; split <;> rfl
@[simp] theorem Tile.countMove_hs (t : Tile) (code slot n : Nat) : (t.countMove code slot n).hs = t.hs := by
  unfold Tile.countMove; split <;> rfl
@[simp] theorem Tile.countMove_hg (t : Tile) (code slot n : Nat) : (t.countMove code slot n).hg = t.hg := by
  unfold Tile.countMove; split <;> rfl
@[simp] theorem Tile.countMove_istore (t : Tile) (code slot n : Nat) : (t.countMove code slot n).istore = t.istore := by
  unfold Tile.countMove; split <;> rfl
@[simp] theorem Tile.countMove_istOld (t : Tile) (code slot n : Nat) : (t.countMove code slot n).istOld = t.istOld := by
  unfold Tile.countMove; split <;> rfl
@[simp] theorem Tile.countMove_oldNow (t : Tile) (code slot n : Nat) : (t.countMove code slot n).oldNow = t.oldNow := by
  unfold Tile.countMove; split <;> rfl
@[simp] theorem Tile.countMove_spad (t : Tile) (code slot n : Nat) : (t.countMove code slot n).spad = t.spad := by
  unfold Tile.countMove; split <;> rfl
@[simp] theorem Tile.countMove_bfmt (t : Tile) (code slot n : Nat) : (t.countMove code slot n).bfmt = t.bfmt := by
  unfold Tile.countMove; split <;> rfl
@[simp] theorem Tile.countMove_bscl (t : Tile) (code slot n : Nat) : (t.countMove code slot n).bscl = t.bscl := by
  unfold Tile.countMove; split <;> rfl
@[simp] theorem Tile.countMove_tcfg (t : Tile) (code slot n : Nat) : (t.countMove code slot n).tcfg = t.tcfg := by
  unfold Tile.countMove; split <;> rfl
@[simp] theorem Tile.countMove_trapc (t : Tile) (code slot n : Nat) : (t.countMove code slot n).trapc = t.trapc := by
  unfold Tile.countMove; split <;> rfl
@[simp] theorem Tile.countMove_trappc (t : Tile) (code slot n : Nat) : (t.countMove code slot n).trappc = t.trappc := by
  unfold Tile.countMove; split <;> rfl
@[simp] theorem Tile.countMove_trapv (t : Tile) (code slot n : Nat) : (t.countMove code slot n).trapv = t.trapv := by
  unfold Tile.countMove; split <;> rfl
@[simp] theorem Tile.countMove_flags (t : Tile) (code slot n : Nat) : (t.countMove code slot n).flags = t.flags := by
  unfold Tile.countMove; split <;> rfl
@[simp] theorem Tile.countMove_inh (t : Tile) (code slot n : Nat) : (t.countMove code slot n).inh = t.inh := by
  unfold Tile.countMove; split <;> rfl
@[simp] theorem Tile.countMove_srseed (t : Tile) (code slot n : Nat) : (t.countMove code slot n).srseed = t.srseed := by
  unfold Tile.countMove; split <;> rfl
@[simp] theorem Tile.countMove_sevm (t : Tile) (code slot n : Nat) : (t.countMove code slot n).sevm = t.sevm := by
  unfold Tile.countMove; split <;> rfl
@[simp] theorem Tile.countMove_drnTab (t : Tile) (code slot n : Nat) : (t.countMove code slot n).drnTab = t.drnTab := by
  unfold Tile.countMove; split <;> rfl
@[simp] theorem Tile.countMove_cntsel (t : Tile) (code slot n : Nat) : (t.countMove code slot n).cntsel = t.cntsel := by
  unfold Tile.countMove; split <;> rfl
@[simp] theorem Tile.countMove_past (t : Tile) (code slot n : Nat) : (t.countMove code slot n).past = t.past := by
  unfold Tile.countMove; split <;> rfl
@[simp] theorem Tile.countMove_task (t : Tile) (code slot n : Nat) : (t.countMove code slot n).task = t.task := by
  unfold Tile.countMove; split <;> rfl
@[simp] theorem Tile.countMove_owner (t : Tile) (code slot n : Nat) : (t.countMove code slot n).owner = t.owner := by
  unfold Tile.countMove; split <;> rfl
@[simp] theorem Tile.countMove_iclrs (t : Tile) (code slot n : Nat) : (t.countMove code slot n).iclrs = t.iclrs := by
  unfold Tile.countMove; split <;> rfl
@[simp] theorem Tile.countMove_nowV (t : Tile) (code slot n : Nat) : (t.countMove code slot n).nowV = t.nowV := by
  unfold Tile.countMove; split <;> rfl
@[simp] theorem Tile.countMove_nowM (t : Tile) (code slot n : Nat) : (t.countMove code slot n).nowM = t.nowM := by
  unfold Tile.countMove; split <;> rfl
@[simp] theorem Tile.countMove_nowC (t : Tile) (code slot n : Nat) : (t.countMove code slot n).nowC = t.nowC := by
  unfold Tile.countMove; split <;> rfl
@[simp] theorem Tile.countMove_pend (t : Tile) (code slot n : Nat) : (t.countMove code slot n).pend = t.pend := by
  unfold Tile.countMove; split <;> rfl
@[simp] theorem Tile.countMove_board (t : Tile) (code slot n : Nat) : (t.countMove code slot n).board = t.board := by
  unfold Tile.countMove; split <;> rfl
@[simp] theorem Tile.countMove_reserved (t : Tile) (code slot n : Nat) : (t.countMove code slot n).reserved = t.reserved := by
  unfold Tile.countMove; split <;> rfl
@[simp] theorem Tile.countMove_eoc (t : Tile) (code slot n : Nat) : (t.countMove code slot n).eoc = t.eoc := by
  unfold Tile.countMove; split <;> rfl
@[simp] theorem Tile.countMove_toks (t : Tile) (code slot n : Nat) : (t.countMove code slot n).toks = t.toks := by
  unfold Tile.countMove; split <;> rfl
@[simp] theorem Tile.countMove_tpush (t : Tile) (code slot n : Nat) : (t.countMove code slot n).tpush = t.tpush := by
  unfold Tile.countMove; split <;> rfl
@[simp] theorem Tile.countMove_vjobs (t : Tile) (code slot n : Nat) : (t.countMove code slot n).vjobs = t.vjobs := by
  unfold Tile.countMove; split <;> rfl
@[simp] theorem Tile.countMove_vFree (t : Tile) (code slot n : Nat) : (t.countMove code slot n).vFree = t.vFree := by
  unfold Tile.countMove; split <;> rfl
@[simp] theorem Tile.countMove_eng (t : Tile) (code slot n : Nat) : (t.countMove code slot n).eng = t.eng := by
  unfold Tile.countMove; split <;> rfl
@[simp] theorem Tile.countMove_trapT (t : Tile) (code slot n : Nat) : (t.countMove code slot n).trapT = t.trapT := by
  unfold Tile.countMove; split <;> rfl
@[simp] theorem Tile.countMove_heldC (t : Tile) (code slot n : Nat) : (t.countMove code slot n).heldC = t.heldC := by
  unfold Tile.countMove; split <;> rfl
@[simp] theorem Tile.countMove_hEnded (t : Tile) (code slot n : Nat) : (t.countMove code slot n).hEnded = t.hEnded := by
  unfold Tile.countMove; split <;> rfl
@[simp] theorem Tile.countMove_double (t : Tile) (code slot n : Nat) : (t.countMove code slot n).double = t.double := by
  unfold Tile.countMove; split <;> rfl
@[simp] theorem Tile.countMove_hold (t : Tile) (code slot n : Nat) : (t.countMove code slot n).hold = t.hold := by
  unfold Tile.countMove; split <;> rfl
@[simp] theorem Tile.countMove_killed (t : Tile) (code slot n : Nat) : (t.countMove code slot n).killed = t.killed := by
  unfold Tile.countMove; split <;> rfl
@[simp] theorem Tile.countMove_bundle (t : Tile) (code slot n : Nat) : (t.countMove code slot n).bundle = t.bundle := by
  unfold Tile.countMove; split <;> rfl
@[simp] theorem Tile.countMove_evs (t : Tile) (code slot n : Nat) : (t.countMove code slot n).evs = t.evs := by
  unfold Tile.countMove; split <;> rfl
@[simp] theorem Tile.countMove_bars (t : Tile) (code slot n : Nat) : (t.countMove code slot n).bars = t.bars := by
  unfold Tile.countMove; split <;> rfl
@[simp] theorem Tile.countMove_muts (t : Tile) (code slot n : Nat) : (t.countMove code slot n).muts = t.muts := by
  unfold Tile.countMove; split <;> rfl
@[simp] theorem Tile.countMove_sems (t : Tile) (code slot n : Nat) : (t.countMove code slot n).sems = t.sems := by
  unfold Tile.countMove; split <;> rfl
@[simp] theorem Tile.countMove_ctrs (t : Tile) (code slot n : Nat) : (t.countMove code slot n).ctrs = t.ctrs := by
  unfold Tile.countMove; split <;> rfl
@[simp] theorem Tile.countMove_bcbs (t : Tile) (code slot n : Nat) : (t.countMove code slot n).bcbs = t.bcbs := by
  unfold Tile.countMove; split <;> rfl
@[simp] theorem Tile.countMove_ents (t : Tile) (code slot n : Nat) : (t.countMove code slot n).ents = t.ents := by
  unfold Tile.countMove; split <;> rfl
@[simp] theorem Tile.countMove_laq (t : Tile) (code slot n : Nat) : (t.countMove code slot n).laq = t.laq := by
  unfold Tile.countMove; split <;> rfl
@[simp] theorem Tile.countMove_saq (t : Tile) (code slot n : Nat) : (t.countMove code slot n).saq = t.saq := by
  unfold Tile.countMove; split <;> rfl
@[simp] theorem Tile.countMove_ahead (t : Tile) (code slot n : Nat) : (t.countMove code slot n).ahead = t.ahead := by
  unfold Tile.countMove; split <;> rfl
@[simp] theorem Tile.countMove_lq (t : Tile) (code slot n : Nat) : (t.countMove code slot n).lq = t.lq := by
  unfold Tile.countMove; split <;> rfl
@[simp] theorem Tile.countMove_sq (t : Tile) (code slot n : Nat) : (t.countMove code slot n).sq = t.sq := by
  unfold Tile.countMove; split <;> rfl
@[simp] theorem Tile.countMove_led (t : Tile) (code slot n : Nat) : (t.countMove code slot n).led = t.led := by
  unfold Tile.countMove; split <;> rfl
@[simp] theorem Tile.countMove_fence (t : Tile) (code slot n : Nat) : (t.countMove code slot n).fence = t.fence := by
  unfold Tile.countMove; split <;> rfl
@[simp] theorem Tile.countMove_used (t : Tile) (code slot n : Nat) : (t.countMove code slot n).used = t.used := by
  unfold Tile.countMove; split <;> rfl
@[simp] theorem Tile.countMove_back (t : Tile) (code slot n : Nat) : (t.countMove code slot n).back = t.back := by
  unfold Tile.countMove; split <;> rfl
@[simp] theorem Tile.countMove_chain (t : Tile) (code slot n : Nat) : (t.countMove code slot n).chain = t.chain := by
  unfold Tile.countMove; split <;> rfl
@[simp] theorem Tile.countMove_async (t : Tile) (code slot n : Nat) : (t.countMove code slot n).async = t.async := by
  unfold Tile.countMove; split <;> rfl
@[simp] theorem Tile.countMove_comm (t : Tile) (code slot n : Nat) : (t.countMove code slot n).comm = t.comm := by
  unfold Tile.countMove; split <;> rfl
@[simp] theorem Tile.countMove_shaped (t : Tile) (code slot n : Nat) : (t.countMove code slot n).shaped = t.shaped := by
  unfold Tile.countMove; split <;> rfl
@[simp] theorem Tile.countMove_tmq (t : Tile) (code slot n : Nat) : (t.countMove code slot n).tmq = t.tmq := by
  unfold Tile.countMove; split <;> rfl
@[simp] theorem Tile.countMove_tlb (t : Tile) (code slot n : Nat) : (t.countMove code slot n).tlb = t.tlb := by
  unfold Tile.countMove; split <;> rfl
@[simp] theorem Tile.countMove_ids (t : Tile) (code slot n : Nat) : (t.countMove code slot n).ids = t.ids := by
  unfold Tile.countMove; split <;> rfl
@[simp] theorem Tile.countMove_inbox (t : Tile) (code slot n : Nat) : (t.countMove code slot n).inbox = t.inbox := by
  unfold Tile.countMove; split <;> rfl
@[simp] theorem Tile.countMove_coll (t : Tile) (code slot n : Nat) : (t.countMove code slot n).coll = t.coll := by
  unfold Tile.countMove; split <;> rfl
@[simp] theorem Tile.countMove_invals (t : Tile) (code slot n : Nat) : (t.countMove code slot n).invals = t.invals := by
  unfold Tile.countMove; split <;> rfl
@[simp] theorem Tile.countMove_qpts (t : Tile) (code slot n : Nat) : (t.countMove code slot n).qpts = t.qpts := by
  unfold Tile.countMove; split <;> rfl
@[simp] theorem Tile.countMove_drn (t : Tile) (code slot n : Nat) : (t.countMove code slot n).drn = t.drn := by
  unfold Tile.countMove; split <;> rfl
@[simp] theorem Tile.countMove_preq (t : Tile) (code slot n : Nat) : (t.countMove code slot n).preq = t.preq := by
  unfold Tile.countMove; split <;> rfl
@[simp] theorem Tile.countMove_boot (t : Tile) (code slot n : Nat) : (t.countMove code slot n).boot = t.boot := by
  unfold Tile.countMove; split <;> rfl
@[simp] theorem Tile.countMove_reqs (t : Tile) (code slot n : Nat) : (t.countMove code slot n).reqs = t.reqs := by
  unfold Tile.countMove; split <;> rfl
@[simp] theorem Tile.countMove_flaws (t : Tile) (code slot n : Nat) : (t.countMove code slot n).flaws = t.flaws := by
  unfold Tile.countMove; split <;> rfl
@[simp] theorem Tile.countMove_wdog (t : Tile) (code slot n : Nat) : (t.countMove code slot n).wdog = t.wdog := by
  unfold Tile.countMove; split <;> rfl
@[simp] theorem Tile.countMove_shaper (t : Tile) (code slot n : Nat) : (t.countMove code slot n).shaper = t.shaper := by
  unfold Tile.countMove; split <;> rfl
@[simp] theorem Tile.countMove_slot (t : Tile) (code slot n : Nat) (k : Slot) : (t.countMove code slot n).slot k = t.slot k := by
  unfold Tile.countMove; split <;> (cases k <;> rfl)

/-! ### Tile.sched -/

@[simp] theorem Tile.sched_cyc (t : Tile) (k : Slot) (c : Nat) (w : Tgt) : (t.sched k c w).cyc = t.cyc := rfl
@[simp] theorem Tile.sched_phase (t : Tile) (k : Slot) (c : Nat) (w : Tgt) : (t.sched k c w).phase = t.phase := rfl
@[simp] theorem Tile.sched_sc (t : Tile) (k : Slot) (c : Nat) (w : Tgt) : (t.sched k c w).sc = t.sc := rfl
@[simp] theorem Tile.sched_sa (t : Tile) (k : Slot) (c : Nat) (w : Tgt) : (t.sched k c w).sa = t.sa := rfl
@[simp] theorem Tile.sched_sv (t : Tile) (k : Slot) (c : Nat) (w : Tgt) : (t.sched k c w).sv = t.sv := rfl
@[simp] theorem Tile.sched_sm (t : Tile) (k : Slot) (c : Nat) (w : Tgt) : (t.sched k c w).sm = t.sm := rfl
@[simp] theorem Tile.sched_x (t : Tile) (k : Slot) (c : Nat) (w : Tgt) : (t.sched k c w).x = t.x := rfl
@[simp] theorem Tile.sched_hs (t : Tile) (k : Slot) (c : Nat) (w : Tgt) : (t.sched k c w).hs = t.hs := rfl
@[simp] theorem Tile.sched_hg (t : Tile) (k : Slot) (c : Nat) (w : Tgt) : (t.sched k c w).hg = t.hg := rfl
@[simp] theorem Tile.sched_istore (t : Tile) (k : Slot) (c : Nat) (w : Tgt) : (t.sched k c w).istore = t.istore := rfl
@[simp] theorem Tile.sched_istOld (t : Tile) (k : Slot) (c : Nat) (w : Tgt) : (t.sched k c w).istOld = t.istOld := rfl
@[simp] theorem Tile.sched_oldNow (t : Tile) (k : Slot) (c : Nat) (w : Tgt) : (t.sched k c w).oldNow = t.oldNow := rfl
@[simp] theorem Tile.sched_spad (t : Tile) (k : Slot) (c : Nat) (w : Tgt) : (t.sched k c w).spad = t.spad := rfl
@[simp] theorem Tile.sched_bfmt (t : Tile) (k : Slot) (c : Nat) (w : Tgt) : (t.sched k c w).bfmt = t.bfmt := rfl
@[simp] theorem Tile.sched_bscl (t : Tile) (k : Slot) (c : Nat) (w : Tgt) : (t.sched k c w).bscl = t.bscl := rfl
@[simp] theorem Tile.sched_tcfg (t : Tile) (k : Slot) (c : Nat) (w : Tgt) : (t.sched k c w).tcfg = t.tcfg := rfl
@[simp] theorem Tile.sched_trapc (t : Tile) (k : Slot) (c : Nat) (w : Tgt) : (t.sched k c w).trapc = t.trapc := rfl
@[simp] theorem Tile.sched_trappc (t : Tile) (k : Slot) (c : Nat) (w : Tgt) : (t.sched k c w).trappc = t.trappc := rfl
@[simp] theorem Tile.sched_trapv (t : Tile) (k : Slot) (c : Nat) (w : Tgt) : (t.sched k c w).trapv = t.trapv := rfl
@[simp] theorem Tile.sched_flags (t : Tile) (k : Slot) (c : Nat) (w : Tgt) : (t.sched k c w).flags = t.flags := rfl
@[simp] theorem Tile.sched_inh (t : Tile) (k : Slot) (c : Nat) (w : Tgt) : (t.sched k c w).inh = t.inh := rfl
@[simp] theorem Tile.sched_srseed (t : Tile) (k : Slot) (c : Nat) (w : Tgt) : (t.sched k c w).srseed = t.srseed := rfl
@[simp] theorem Tile.sched_sevm (t : Tile) (k : Slot) (c : Nat) (w : Tgt) : (t.sched k c w).sevm = t.sevm := rfl
@[simp] theorem Tile.sched_drnTab (t : Tile) (k : Slot) (c : Nat) (w : Tgt) : (t.sched k c w).drnTab = t.drnTab := rfl
@[simp] theorem Tile.sched_cntsel (t : Tile) (k : Slot) (c : Nat) (w : Tgt) : (t.sched k c w).cntsel = t.cntsel := rfl
@[simp] theorem Tile.sched_cnt (t : Tile) (k : Slot) (c : Nat) (w : Tgt) : (t.sched k c w).cnt = t.cnt := rfl
@[simp] theorem Tile.sched_tally (t : Tile) (k : Slot) (c : Nat) (w : Tgt) : (t.sched k c w).tally = t.tally := rfl
@[simp] theorem Tile.sched_past (t : Tile) (k : Slot) (c : Nat) (w : Tgt) : (t.sched k c w).past = t.past := rfl
@[simp] theorem Tile.sched_task (t : Tile) (k : Slot) (c : Nat) (w : Tgt) : (t.sched k c w).task = t.task := rfl
@[simp] theorem Tile.sched_owner (t : Tile) (k : Slot) (c : Nat) (w : Tgt) : (t.sched k c w).owner = t.owner := rfl
@[simp] theorem Tile.sched_iclrs (t : Tile) (k : Slot) (c : Nat) (w : Tgt) : (t.sched k c w).iclrs = t.iclrs := rfl
@[simp] theorem Tile.sched_nowV (t : Tile) (k : Slot) (c : Nat) (w : Tgt) : (t.sched k c w).nowV = t.nowV := rfl
@[simp] theorem Tile.sched_nowM (t : Tile) (k : Slot) (c : Nat) (w : Tgt) : (t.sched k c w).nowM = t.nowM := rfl
@[simp] theorem Tile.sched_nowC (t : Tile) (k : Slot) (c : Nat) (w : Tgt) : (t.sched k c w).nowC = t.nowC := rfl
@[simp] theorem Tile.sched_board (t : Tile) (k : Slot) (c : Nat) (w : Tgt) : (t.sched k c w).board = t.board := rfl
@[simp] theorem Tile.sched_reserved (t : Tile) (k : Slot) (c : Nat) (w : Tgt) : (t.sched k c w).reserved = t.reserved := rfl
@[simp] theorem Tile.sched_eoc (t : Tile) (k : Slot) (c : Nat) (w : Tgt) : (t.sched k c w).eoc = t.eoc := rfl
@[simp] theorem Tile.sched_toks (t : Tile) (k : Slot) (c : Nat) (w : Tgt) : (t.sched k c w).toks = t.toks := rfl
@[simp] theorem Tile.sched_tpush (t : Tile) (k : Slot) (c : Nat) (w : Tgt) : (t.sched k c w).tpush = t.tpush := rfl
@[simp] theorem Tile.sched_vjobs (t : Tile) (k : Slot) (c : Nat) (w : Tgt) : (t.sched k c w).vjobs = t.vjobs := rfl
@[simp] theorem Tile.sched_vFree (t : Tile) (k : Slot) (c : Nat) (w : Tgt) : (t.sched k c w).vFree = t.vFree := rfl
@[simp] theorem Tile.sched_eng (t : Tile) (k : Slot) (c : Nat) (w : Tgt) : (t.sched k c w).eng = t.eng := rfl
@[simp] theorem Tile.sched_trapT (t : Tile) (k : Slot) (c : Nat) (w : Tgt) : (t.sched k c w).trapT = t.trapT := rfl
@[simp] theorem Tile.sched_heldC (t : Tile) (k : Slot) (c : Nat) (w : Tgt) : (t.sched k c w).heldC = t.heldC := rfl
@[simp] theorem Tile.sched_hEnded (t : Tile) (k : Slot) (c : Nat) (w : Tgt) : (t.sched k c w).hEnded = t.hEnded := rfl
@[simp] theorem Tile.sched_double (t : Tile) (k : Slot) (c : Nat) (w : Tgt) : (t.sched k c w).double = t.double := rfl
@[simp] theorem Tile.sched_hold (t : Tile) (k : Slot) (c : Nat) (w : Tgt) : (t.sched k c w).hold = t.hold := rfl
@[simp] theorem Tile.sched_killed (t : Tile) (k : Slot) (c : Nat) (w : Tgt) : (t.sched k c w).killed = t.killed := rfl
@[simp] theorem Tile.sched_bundle (t : Tile) (k : Slot) (c : Nat) (w : Tgt) : (t.sched k c w).bundle = t.bundle := rfl
@[simp] theorem Tile.sched_evs (t : Tile) (k : Slot) (c : Nat) (w : Tgt) : (t.sched k c w).evs = t.evs := rfl
@[simp] theorem Tile.sched_bars (t : Tile) (k : Slot) (c : Nat) (w : Tgt) : (t.sched k c w).bars = t.bars := rfl
@[simp] theorem Tile.sched_muts (t : Tile) (k : Slot) (c : Nat) (w : Tgt) : (t.sched k c w).muts = t.muts := rfl
@[simp] theorem Tile.sched_sems (t : Tile) (k : Slot) (c : Nat) (w : Tgt) : (t.sched k c w).sems = t.sems := rfl
@[simp] theorem Tile.sched_ctrs (t : Tile) (k : Slot) (c : Nat) (w : Tgt) : (t.sched k c w).ctrs = t.ctrs := rfl
@[simp] theorem Tile.sched_bcbs (t : Tile) (k : Slot) (c : Nat) (w : Tgt) : (t.sched k c w).bcbs = t.bcbs := rfl
@[simp] theorem Tile.sched_ents (t : Tile) (k : Slot) (c : Nat) (w : Tgt) : (t.sched k c w).ents = t.ents := rfl
@[simp] theorem Tile.sched_laq (t : Tile) (k : Slot) (c : Nat) (w : Tgt) : (t.sched k c w).laq = t.laq := rfl
@[simp] theorem Tile.sched_saq (t : Tile) (k : Slot) (c : Nat) (w : Tgt) : (t.sched k c w).saq = t.saq := rfl
@[simp] theorem Tile.sched_ahead (t : Tile) (k : Slot) (c : Nat) (w : Tgt) : (t.sched k c w).ahead = t.ahead := rfl
@[simp] theorem Tile.sched_lq (t : Tile) (k : Slot) (c : Nat) (w : Tgt) : (t.sched k c w).lq = t.lq := rfl
@[simp] theorem Tile.sched_sq (t : Tile) (k : Slot) (c : Nat) (w : Tgt) : (t.sched k c w).sq = t.sq := rfl
@[simp] theorem Tile.sched_led (t : Tile) (k : Slot) (c : Nat) (w : Tgt) : (t.sched k c w).led = t.led := rfl
@[simp] theorem Tile.sched_fence (t : Tile) (k : Slot) (c : Nat) (w : Tgt) : (t.sched k c w).fence = t.fence := rfl
@[simp] theorem Tile.sched_used (t : Tile) (k : Slot) (c : Nat) (w : Tgt) : (t.sched k c w).used = t.used := rfl
@[simp] theorem Tile.sched_back (t : Tile) (k : Slot) (c : Nat) (w : Tgt) : (t.sched k c w).back = t.back := rfl
@[simp] theorem Tile.sched_chain (t : Tile) (k : Slot) (c : Nat) (w : Tgt) : (t.sched k c w).chain = t.chain := rfl
@[simp] theorem Tile.sched_async (t : Tile) (k : Slot) (c : Nat) (w : Tgt) : (t.sched k c w).async = t.async := rfl
@[simp] theorem Tile.sched_comm (t : Tile) (k : Slot) (c : Nat) (w : Tgt) : (t.sched k c w).comm = t.comm := rfl
@[simp] theorem Tile.sched_shaped (t : Tile) (k : Slot) (c : Nat) (w : Tgt) : (t.sched k c w).shaped = t.shaped := rfl
@[simp] theorem Tile.sched_tmq (t : Tile) (k : Slot) (c : Nat) (w : Tgt) : (t.sched k c w).tmq = t.tmq := rfl
@[simp] theorem Tile.sched_tlb (t : Tile) (k : Slot) (c : Nat) (w : Tgt) : (t.sched k c w).tlb = t.tlb := rfl
@[simp] theorem Tile.sched_ids (t : Tile) (k : Slot) (c : Nat) (w : Tgt) : (t.sched k c w).ids = t.ids := rfl
@[simp] theorem Tile.sched_inbox (t : Tile) (k : Slot) (c : Nat) (w : Tgt) : (t.sched k c w).inbox = t.inbox := rfl
@[simp] theorem Tile.sched_coll (t : Tile) (k : Slot) (c : Nat) (w : Tgt) : (t.sched k c w).coll = t.coll := rfl
@[simp] theorem Tile.sched_invals (t : Tile) (k : Slot) (c : Nat) (w : Tgt) : (t.sched k c w).invals = t.invals := rfl
@[simp] theorem Tile.sched_qpts (t : Tile) (k : Slot) (c : Nat) (w : Tgt) : (t.sched k c w).qpts = t.qpts := rfl
@[simp] theorem Tile.sched_drn (t : Tile) (k : Slot) (c : Nat) (w : Tgt) : (t.sched k c w).drn = t.drn := rfl
@[simp] theorem Tile.sched_preq (t : Tile) (k : Slot) (c : Nat) (w : Tgt) : (t.sched k c w).preq = t.preq := rfl
@[simp] theorem Tile.sched_boot (t : Tile) (k : Slot) (c : Nat) (w : Tgt) : (t.sched k c w).boot = t.boot := rfl
@[simp] theorem Tile.sched_reqs (t : Tile) (k : Slot) (c : Nat) (w : Tgt) : (t.sched k c w).reqs = t.reqs := rfl
@[simp] theorem Tile.sched_flaws (t : Tile) (k : Slot) (c : Nat) (w : Tgt) : (t.sched k c w).flaws = t.flaws := rfl
@[simp] theorem Tile.sched_wdog (t : Tile) (k : Slot) (c : Nat) (w : Tgt) : (t.sched k c w).wdog = t.wdog := rfl
@[simp] theorem Tile.sched_shaper (t : Tile) (k : Slot) (c : Nat) (w : Tgt) : (t.sched k c w).shaper = t.shaper := rfl

@[simp] theorem Tile.sched_pend (t : Tile) (k : Slot) (c : Nat) (w : Tgt) : (t.sched k c w).pend = t.pend ++ [⟨c, k, t.cyc, (t.slot k).pc.toNat, w⟩] := rfl
@[simp] theorem Tile.sched_slot (t : Tile) (k j : Slot) (c : Nat) (w : Tgt) : (t.sched k c w).slot j = t.slot j := by cases j <;> rfl

/-! ### Tile.takeToken -/

@[simp] theorem Tile.takeToken_cyc (t : Tile) (k : Slot) (a : Tok) (r : Option Nat) : (t.takeToken k a r).cyc = t.cyc := by cases a <;> rfl
@[simp] theorem Tile.takeToken_phase (t : Tile) (k : Slot) (a : Tok) (r : Option Nat) : (t.takeToken k a r).phase = t.phase := by cases a <;> rfl
@[simp] theorem Tile.takeToken_sc (t : Tile) (k : Slot) (a : Tok) (r : Option Nat) : (t.takeToken k a r).sc = t.sc := by cases a <;> rfl
@[simp] theorem Tile.takeToken_sa (t : Tile) (k : Slot) (a : Tok) (r : Option Nat) : (t.takeToken k a r).sa = t.sa := by cases a <;> rfl
@[simp] theorem Tile.takeToken_sv (t : Tile) (k : Slot) (a : Tok) (r : Option Nat) : (t.takeToken k a r).sv = t.sv := by cases a <;> rfl
@[simp] theorem Tile.takeToken_sm (t : Tile) (k : Slot) (a : Tok) (r : Option Nat) : (t.takeToken k a r).sm = t.sm := by cases a <;> rfl
@[simp] theorem Tile.takeToken_x (t : Tile) (k : Slot) (a : Tok) (r : Option Nat) : (t.takeToken k a r).x = t.x := by cases a <;> rfl
@[simp] theorem Tile.takeToken_hs (t : Tile) (k : Slot) (a : Tok) (r : Option Nat) : (t.takeToken k a r).hs = t.hs := by cases a <;> rfl
@[simp] theorem Tile.takeToken_hg (t : Tile) (k : Slot) (a : Tok) (r : Option Nat) : (t.takeToken k a r).hg = t.hg := by cases a <;> rfl
@[simp] theorem Tile.takeToken_istore (t : Tile) (k : Slot) (a : Tok) (r : Option Nat) : (t.takeToken k a r).istore = t.istore := by cases a <;> rfl
@[simp] theorem Tile.takeToken_istOld (t : Tile) (k : Slot) (a : Tok) (r : Option Nat) : (t.takeToken k a r).istOld = t.istOld := by cases a <;> rfl
@[simp] theorem Tile.takeToken_oldNow (t : Tile) (k : Slot) (a : Tok) (r : Option Nat) : (t.takeToken k a r).oldNow = t.oldNow := by cases a <;> rfl
@[simp] theorem Tile.takeToken_spad (t : Tile) (k : Slot) (a : Tok) (r : Option Nat) : (t.takeToken k a r).spad = t.spad := by cases a <;> rfl
@[simp] theorem Tile.takeToken_bfmt (t : Tile) (k : Slot) (a : Tok) (r : Option Nat) : (t.takeToken k a r).bfmt = t.bfmt := by cases a <;> rfl
@[simp] theorem Tile.takeToken_bscl (t : Tile) (k : Slot) (a : Tok) (r : Option Nat) : (t.takeToken k a r).bscl = t.bscl := by cases a <;> rfl
@[simp] theorem Tile.takeToken_tcfg (t : Tile) (k : Slot) (a : Tok) (r : Option Nat) : (t.takeToken k a r).tcfg = t.tcfg := by cases a <;> rfl
@[simp] theorem Tile.takeToken_trapc (t : Tile) (k : Slot) (a : Tok) (r : Option Nat) : (t.takeToken k a r).trapc = t.trapc := by cases a <;> rfl
@[simp] theorem Tile.takeToken_trappc (t : Tile) (k : Slot) (a : Tok) (r : Option Nat) : (t.takeToken k a r).trappc = t.trappc := by cases a <;> rfl
@[simp] theorem Tile.takeToken_trapv (t : Tile) (k : Slot) (a : Tok) (r : Option Nat) : (t.takeToken k a r).trapv = t.trapv := by cases a <;> rfl
@[simp] theorem Tile.takeToken_flags (t : Tile) (k : Slot) (a : Tok) (r : Option Nat) : (t.takeToken k a r).flags = t.flags := by cases a <;> rfl
@[simp] theorem Tile.takeToken_inh (t : Tile) (k : Slot) (a : Tok) (r : Option Nat) : (t.takeToken k a r).inh = t.inh := by cases a <;> rfl
@[simp] theorem Tile.takeToken_srseed (t : Tile) (k : Slot) (a : Tok) (r : Option Nat) : (t.takeToken k a r).srseed = t.srseed := by cases a <;> rfl
@[simp] theorem Tile.takeToken_sevm (t : Tile) (k : Slot) (a : Tok) (r : Option Nat) : (t.takeToken k a r).sevm = t.sevm := by cases a <;> rfl
@[simp] theorem Tile.takeToken_drnTab (t : Tile) (k : Slot) (a : Tok) (r : Option Nat) : (t.takeToken k a r).drnTab = t.drnTab := by cases a <;> rfl
@[simp] theorem Tile.takeToken_cntsel (t : Tile) (k : Slot) (a : Tok) (r : Option Nat) : (t.takeToken k a r).cntsel = t.cntsel := by cases a <;> rfl
@[simp] theorem Tile.takeToken_cnt (t : Tile) (k : Slot) (a : Tok) (r : Option Nat) : (t.takeToken k a r).cnt = t.cnt := by cases a <;> rfl
@[simp] theorem Tile.takeToken_tally (t : Tile) (k : Slot) (a : Tok) (r : Option Nat) : (t.takeToken k a r).tally = t.tally := by cases a <;> rfl
@[simp] theorem Tile.takeToken_past (t : Tile) (k : Slot) (a : Tok) (r : Option Nat) : (t.takeToken k a r).past = t.past := by cases a <;> rfl
@[simp] theorem Tile.takeToken_task (t : Tile) (k : Slot) (a : Tok) (r : Option Nat) : (t.takeToken k a r).task = t.task := by cases a <;> rfl
@[simp] theorem Tile.takeToken_owner (t : Tile) (k : Slot) (a : Tok) (r : Option Nat) : (t.takeToken k a r).owner = t.owner := by cases a <;> rfl
@[simp] theorem Tile.takeToken_iclrs (t : Tile) (k : Slot) (a : Tok) (r : Option Nat) : (t.takeToken k a r).iclrs = t.iclrs := by cases a <;> rfl
@[simp] theorem Tile.takeToken_nowV (t : Tile) (k : Slot) (a : Tok) (r : Option Nat) : (t.takeToken k a r).nowV = t.nowV := by cases a <;> rfl
@[simp] theorem Tile.takeToken_nowM (t : Tile) (k : Slot) (a : Tok) (r : Option Nat) : (t.takeToken k a r).nowM = t.nowM := by cases a <;> rfl
@[simp] theorem Tile.takeToken_nowC (t : Tile) (k : Slot) (a : Tok) (r : Option Nat) : (t.takeToken k a r).nowC = t.nowC := by cases a <;> rfl
@[simp] theorem Tile.takeToken_pend (t : Tile) (k : Slot) (a : Tok) (r : Option Nat) : (t.takeToken k a r).pend = t.pend := by cases a <;> rfl
@[simp] theorem Tile.takeToken_board (t : Tile) (k : Slot) (a : Tok) (r : Option Nat) : (t.takeToken k a r).board = t.board := by cases a <;> rfl
@[simp] theorem Tile.takeToken_reserved (t : Tile) (k : Slot) (a : Tok) (r : Option Nat) : (t.takeToken k a r).reserved = t.reserved := by cases a <;> rfl
@[simp] theorem Tile.takeToken_eoc (t : Tile) (k : Slot) (a : Tok) (r : Option Nat) : (t.takeToken k a r).eoc = t.eoc := by cases a <;> rfl
@[simp] theorem Tile.takeToken_vjobs (t : Tile) (k : Slot) (a : Tok) (r : Option Nat) : (t.takeToken k a r).vjobs = t.vjobs := by cases a <;> rfl
@[simp] theorem Tile.takeToken_vFree (t : Tile) (k : Slot) (a : Tok) (r : Option Nat) : (t.takeToken k a r).vFree = t.vFree := by cases a <;> rfl
@[simp] theorem Tile.takeToken_eng (t : Tile) (k : Slot) (a : Tok) (r : Option Nat) : (t.takeToken k a r).eng = t.eng := by cases a <;> rfl
@[simp] theorem Tile.takeToken_trapT (t : Tile) (k : Slot) (a : Tok) (r : Option Nat) : (t.takeToken k a r).trapT = t.trapT := by cases a <;> rfl
@[simp] theorem Tile.takeToken_heldC (t : Tile) (k : Slot) (a : Tok) (r : Option Nat) : (t.takeToken k a r).heldC = t.heldC := by cases a <;> rfl
@[simp] theorem Tile.takeToken_hEnded (t : Tile) (k : Slot) (a : Tok) (r : Option Nat) : (t.takeToken k a r).hEnded = t.hEnded := by cases a <;> rfl
@[simp] theorem Tile.takeToken_double (t : Tile) (k : Slot) (a : Tok) (r : Option Nat) : (t.takeToken k a r).double = t.double := by cases a <;> rfl
@[simp] theorem Tile.takeToken_hold (t : Tile) (k : Slot) (a : Tok) (r : Option Nat) : (t.takeToken k a r).hold = t.hold := by cases a <;> rfl
@[simp] theorem Tile.takeToken_killed (t : Tile) (k : Slot) (a : Tok) (r : Option Nat) : (t.takeToken k a r).killed = t.killed := by cases a <;> rfl
@[simp] theorem Tile.takeToken_bundle (t : Tile) (k : Slot) (a : Tok) (r : Option Nat) : (t.takeToken k a r).bundle = t.bundle := by cases a <;> rfl
@[simp] theorem Tile.takeToken_evs (t : Tile) (k : Slot) (a : Tok) (r : Option Nat) : (t.takeToken k a r).evs = t.evs := by cases a <;> rfl
@[simp] theorem Tile.takeToken_bars (t : Tile) (k : Slot) (a : Tok) (r : Option Nat) : (t.takeToken k a r).bars = t.bars := by cases a <;> rfl
@[simp] theorem Tile.takeToken_muts (t : Tile) (k : Slot) (a : Tok) (r : Option Nat) : (t.takeToken k a r).muts = t.muts := by cases a <;> rfl
@[simp] theorem Tile.takeToken_sems (t : Tile) (k : Slot) (a : Tok) (r : Option Nat) : (t.takeToken k a r).sems = t.sems := by cases a <;> rfl
@[simp] theorem Tile.takeToken_ctrs (t : Tile) (k : Slot) (a : Tok) (r : Option Nat) : (t.takeToken k a r).ctrs = t.ctrs := by cases a <;> rfl
@[simp] theorem Tile.takeToken_bcbs (t : Tile) (k : Slot) (a : Tok) (r : Option Nat) : (t.takeToken k a r).bcbs = t.bcbs := by cases a <;> rfl
@[simp] theorem Tile.takeToken_ents (t : Tile) (k : Slot) (a : Tok) (r : Option Nat) : (t.takeToken k a r).ents = t.ents := by cases a <;> rfl
@[simp] theorem Tile.takeToken_laq (t : Tile) (k : Slot) (a : Tok) (r : Option Nat) : (t.takeToken k a r).laq = t.laq := by cases a <;> rfl
@[simp] theorem Tile.takeToken_saq (t : Tile) (k : Slot) (a : Tok) (r : Option Nat) : (t.takeToken k a r).saq = t.saq := by cases a <;> rfl
@[simp] theorem Tile.takeToken_ahead (t : Tile) (k : Slot) (a : Tok) (r : Option Nat) : (t.takeToken k a r).ahead = t.ahead := by cases a <;> rfl
@[simp] theorem Tile.takeToken_lq (t : Tile) (k : Slot) (a : Tok) (r : Option Nat) : (t.takeToken k a r).lq = t.lq := by cases a <;> rfl
@[simp] theorem Tile.takeToken_sq (t : Tile) (k : Slot) (a : Tok) (r : Option Nat) : (t.takeToken k a r).sq = t.sq := by cases a <;> rfl
@[simp] theorem Tile.takeToken_led (t : Tile) (k : Slot) (a : Tok) (r : Option Nat) : (t.takeToken k a r).led = t.led := by cases a <;> rfl
@[simp] theorem Tile.takeToken_fence (t : Tile) (k : Slot) (a : Tok) (r : Option Nat) : (t.takeToken k a r).fence = t.fence := by cases a <;> rfl
@[simp] theorem Tile.takeToken_used (t : Tile) (k : Slot) (a : Tok) (r : Option Nat) : (t.takeToken k a r).used = t.used := by cases a <;> rfl
@[simp] theorem Tile.takeToken_back (t : Tile) (k : Slot) (a : Tok) (r : Option Nat) : (t.takeToken k a r).back = t.back := by cases a <;> rfl
@[simp] theorem Tile.takeToken_chain (t : Tile) (k : Slot) (a : Tok) (r : Option Nat) : (t.takeToken k a r).chain = t.chain := by cases a <;> rfl
@[simp] theorem Tile.takeToken_async (t : Tile) (k : Slot) (a : Tok) (r : Option Nat) : (t.takeToken k a r).async = t.async := by cases a <;> rfl
@[simp] theorem Tile.takeToken_comm (t : Tile) (k : Slot) (a : Tok) (r : Option Nat) : (t.takeToken k a r).comm = t.comm := by cases a <;> rfl
@[simp] theorem Tile.takeToken_shaped (t : Tile) (k : Slot) (a : Tok) (r : Option Nat) : (t.takeToken k a r).shaped = t.shaped := by cases a <;> rfl
@[simp] theorem Tile.takeToken_tmq (t : Tile) (k : Slot) (a : Tok) (r : Option Nat) : (t.takeToken k a r).tmq = t.tmq := by cases a <;> rfl
@[simp] theorem Tile.takeToken_tlb (t : Tile) (k : Slot) (a : Tok) (r : Option Nat) : (t.takeToken k a r).tlb = t.tlb := by cases a <;> rfl
@[simp] theorem Tile.takeToken_ids (t : Tile) (k : Slot) (a : Tok) (r : Option Nat) : (t.takeToken k a r).ids = t.ids := by cases a <;> rfl
@[simp] theorem Tile.takeToken_inbox (t : Tile) (k : Slot) (a : Tok) (r : Option Nat) : (t.takeToken k a r).inbox = t.inbox := by cases a <;> rfl
@[simp] theorem Tile.takeToken_coll (t : Tile) (k : Slot) (a : Tok) (r : Option Nat) : (t.takeToken k a r).coll = t.coll := by cases a <;> rfl
@[simp] theorem Tile.takeToken_invals (t : Tile) (k : Slot) (a : Tok) (r : Option Nat) : (t.takeToken k a r).invals = t.invals := by cases a <;> rfl
@[simp] theorem Tile.takeToken_qpts (t : Tile) (k : Slot) (a : Tok) (r : Option Nat) : (t.takeToken k a r).qpts = t.qpts := by cases a <;> rfl
@[simp] theorem Tile.takeToken_drn (t : Tile) (k : Slot) (a : Tok) (r : Option Nat) : (t.takeToken k a r).drn = t.drn := by cases a <;> rfl
@[simp] theorem Tile.takeToken_preq (t : Tile) (k : Slot) (a : Tok) (r : Option Nat) : (t.takeToken k a r).preq = t.preq := by cases a <;> rfl
@[simp] theorem Tile.takeToken_boot (t : Tile) (k : Slot) (a : Tok) (r : Option Nat) : (t.takeToken k a r).boot = t.boot := by cases a <;> rfl
@[simp] theorem Tile.takeToken_reqs (t : Tile) (k : Slot) (a : Tok) (r : Option Nat) : (t.takeToken k a r).reqs = t.reqs := by cases a <;> rfl
@[simp] theorem Tile.takeToken_flaws (t : Tile) (k : Slot) (a : Tok) (r : Option Nat) : (t.takeToken k a r).flaws = t.flaws := by cases a <;> rfl
@[simp] theorem Tile.takeToken_wdog (t : Tile) (k : Slot) (a : Tok) (r : Option Nat) : (t.takeToken k a r).wdog = t.wdog := by cases a <;> rfl
@[simp] theorem Tile.takeToken_shaper (t : Tile) (k : Slot) (a : Tok) (r : Option Nat) : (t.takeToken k a r).shaper = t.shaper := by cases a <;> rfl

@[simp] theorem Tile.takeToken_slot (t : Tile) (k j : Slot) (a : Tok) (r : Option Nat) : (t.takeToken k a r).slot j = t.slot j := by cases a <;> cases j <;> rfl


end Sys2Proof.Machine
end

