-- ==== Sys2Proof/Laws/Parts.lean ====
section
/-! SUPPORT. What an update of a die, a party or a port leaves and changes: one lemma for each field, and what is read at the
updated number and at another. -/

namespace Sys2Proof.Machine

/-! ### State.setDie -/

@[simp] theorem State.setDie_agenda (s : State) (d : Nat) (x : DieSt) : (s.setDie d x).agenda = s.agenda := rfl
@[simp] theorem State.setDie_free (s : State) (d : Nat) (x : DieSt) : (s.setDie d x).free = s.free := rfl
@[simp] theorem State.setDie_cur (s : State) (d : Nat) (x : DieSt) : (s.setDie d x).cur = s.cur := rfl
@[simp] theorem State.setDie_tiles (s : State) (d : Nat) (x : DieSt) : (s.setDie d x).tiles = s.tiles := rfl
@[simp] theorem State.setDie_rings (s : State) (d : Nat) (x : DieSt) : (s.setDie d x).rings = s.rings := rfl
@[simp] theorem State.setDie_pval (s : State) (d : Nat) (x : DieSt) : (s.setDie d x).pval = s.pval := rfl
@[simp] theorem State.setDie_group (s : State) (d : Nat) (x : DieSt) : (s.setDie d x).group = s.group := rfl
@[simp] theorem State.setDie_member (s : State) (d : Nat) (x : DieSt) : (s.setDie d x).member = s.member := rfl
@[simp] theorem State.setDie_slew (s : State) (d : Nat) (x : DieSt) : (s.setDie d x).slew = s.slew := rfl
@[simp] theorem State.setDie_clkmask (s : State) (d : Nat) (x : DieSt) : (s.setDie d x).clkmask = s.clkmask := rfl
@[simp] theorem State.setDie_paths (s : State) (d : Nat) (x : DieSt) : (s.setDie d x).paths = s.paths := rfl
@[simp] theorem State.setDie_homes (s : State) (d : Nat) (x : DieSt) : (s.setDie d x).homes = s.homes := rfl
@[simp] theorem State.setDie_parties (s : State) (d : Nat) (x : DieSt) : (s.setDie d x).parties = s.parties := rfl
@[simp] theorem State.setDie_links (s : State) (d : Nat) (x : DieSt) : (s.setDie d x).links = s.links := rfl
@[simp] theorem State.setDie_dmem (s : State) (d : Nat) (x : DieSt) : (s.setDie d x).dmem = s.dmem := rfl
@[simp] theorem State.setDie_poison (s : State) (d : Nat) (x : DieSt) : (s.setDie d x).poison = s.poison := rfl
@[simp] theorem State.setDie_hmem (s : State) (d : Nat) (x : DieSt) : (s.setDie d x).hmem = s.hmem := rfl
@[simp] theorem State.setDie_pcie (s : State) (d : Nat) (x : DieSt) : (s.setDie d x).pcie = s.pcie := rfl
@[simp] theorem State.setDie_errs (s : State) (d : Nat) (x : DieSt) : (s.setDie d x).errs = s.errs := rfl
@[simp] theorem State.setDie_matrix (s : State) (d : Nat) (x : DieSt) : (s.setDie d x).matrix = s.matrix := rfl
@[simp] theorem State.setDie_ids (s : State) (d : Nat) (x : DieSt) : (s.setDie d x).ids = s.ids := rfl
@[simp] theorem State.setDie_parts (s : State) (d : Nat) (x : DieSt) : (s.setDie d x).parts = s.parts := rfl
@[simp] theorem State.setDie_dbg (s : State) (d : Nat) (x : DieSt) : (s.setDie d x).dbg = s.dbg := rfl
@[simp] theorem State.setDie_trained (s : State) (d : Nat) (x : DieSt) : (s.setDie d x).trained = s.trained := rfl
@[simp] theorem State.setDie_full (s : State) (d : Nat) (x : DieSt) : (s.setDie d x).full = s.full := rfl
@[simp] theorem State.setDie_dcnt (s : State) (d : Nat) (x : DieSt) : (s.setDie d x).dcnt = s.dcnt := rfl
@[simp] theorem State.setDie_survey (s : State) (d : Nat) (x : DieSt) : (s.setDie d x).survey = s.survey := rfl
@[simp] theorem State.setDie_irqs (s : State) (d : Nat) (x : DieSt) : (s.setDie d x).irqs = s.irqs := rfl
@[simp] theorem State.setDie_recs (s : State) (d : Nat) (x : DieSt) : (s.setDie d x).recs = s.recs := rfl
@[simp] theorem State.setDie_rinfo (s : State) (d : Nat) (x : DieSt) : (s.setDie d x).rinfo = s.rinfo := rfl
@[simp] theorem State.setDie_pool (s : State) (d : Nat) (x : DieSt) : (s.setDie d x).pool = s.pool := rfl
@[simp] theorem State.setDie_resv (s : State) (d : Nat) (x : DieSt) : (s.setDie d x).resv = s.resv := rfl
@[simp] theorem State.setDie_runs (s : State) (d : Nat) (x : DieSt) : (s.setDie d x).runs = s.runs := rfl
@[simp] theorem State.setDie_saved (s : State) (d : Nat) (x : DieSt) : (s.setDie d x).saved = s.saved := rfl
@[simp] theorem State.setDie_psets (s : State) (d : Nat) (x : DieSt) : (s.setDie d x).psets = s.psets := rfl
@[simp] theorem State.setDie_oldTags (s : State) (d : Nat) (x : DieSt) : (s.setDie d x).oldTags = s.oldTags := rfl
@[simp] theorem State.setDie_views (s : State) (d : Nat) (x : DieSt) : (s.setDie d x).views = s.views := rfl
@[simp] theorem State.setDie_wd (s : State) (d : Nat) (x : DieSt) : (s.setDie d x).wd = s.wd := rfl
@[simp] theorem State.setDie_frings (s : State) (d : Nat) (x : DieSt) : (s.setDie d x).frings = s.frings := rfl
@[simp] theorem State.setDie_invs (s : State) (d : Nat) (x : DieSt) : (s.setDie d x).invs = s.invs := rfl
@[simp] theorem State.setDie_invn (s : State) (d : Nat) (x : DieSt) : (s.setDie d x).invn = s.invn := rfl
@[simp] theorem State.setDie_mig (s : State) (d : Nat) (x : DieSt) : (s.setDie d x).mig = s.mig := rfl
@[simp] theorem State.setDie_queues (s : State) (d : Nat) (x : DieSt) : (s.setDie d x).queues = s.queues := rfl
@[simp] theorem State.setDie_sevcnt (s : State) (d : Nat) (x : DieSt) : (s.setDie d x).sevcnt = s.sevcnt := rfl
@[simp] theorem State.setDie_jseq (s : State) (d : Nat) (x : DieSt) : (s.setDie d x).jseq = s.jseq := rfl
@[simp] theorem State.setDie_jown (s : State) (d : Nat) (x : DieSt) : (s.setDie d x).jown = s.jown := rfl
@[simp] theorem State.setDie_viral (s : State) (d : Nat) (x : DieSt) : (s.setDie d x).viral = s.viral := rfl
@[simp] theorem State.setDie_asm (s : State) (d : Nat) (x : DieSt) : (s.setDie d x).asm = s.asm := rfl
@[simp] theorem State.setDie_caps (s : State) (d : Nat) (x : DieSt) : (s.setDie d x).caps = s.caps := rfl
@[simp] theorem State.setDie_sees (s : State) (d : Nat) (x : DieSt) : (s.setDie d x).sees = s.sees := rfl
@[simp] theorem State.setDie_snap (s : State) (d : Nat) (x : DieSt) : (s.setDie d x).snap = s.snap := rfl
@[simp] theorem State.setDie_taken (s : State) (d : Nat) (x : DieSt) : (s.setDie d x).taken = s.taken := rfl
@[simp] theorem State.setDie_kept (s : State) (d : Nat) (x : DieSt) : (s.setDie d x).kept = s.kept := rfl
@[simp] theorem State.setDie_rest (s : State) (d : Nat) (x : DieSt) : (s.setDie d x).rest = s.rest := rfl
@[simp] theorem State.setDie_wipe (s : State) (d : Nat) (x : DieSt) : (s.setDie d x).wipe = s.wipe := rfl
@[simp] theorem State.setDie_nv (s : State) (d : Nat) (x : DieSt) : (s.setDie d x).nv = s.nv := rfl
@[simp] theorem State.setDie_ports (s : State) (d : Nat) (x : DieSt) : (s.setDie d x).ports = s.ports := rfl
@[simp] theorem State.setDie_fab (s : State) (d : Nat) (x : DieSt) : (s.setDie d x).fab = s.fab := rfl

@[simp] theorem State.setDie_die_same (s : State) (d : Nat) (x : DieSt) : (s.setDie d x).die d = x := by
  simp [State.setDie, State.die]

theorem State.setDie_die_ne (s : State) (x : DieSt) (a b : Nat) (h : a ≠ b) : (s.setDie b x).die a = s.die a :=
  tget_tset_ne _ _ _ _ _ h

/-! ### State.setParty -/

@[simp] theorem State.setParty_agenda (s : State) (p : Nat) (x : Party) : (s.setParty p x).agenda = s.agenda := rfl
@[simp] theorem State.setParty_free (s : State) (p : Nat) (x : Party) : (s.setParty p x).free = s.free := rfl
@[simp] theorem State.setParty_cur (s : State) (p : Nat) (x : Party) : (s.setParty p x).cur = s.cur := rfl
@[simp] theorem State.setParty_tiles (s : State) (p : Nat) (x : Party) : (s.setParty p x).tiles = s.tiles := rfl
@[simp] theorem State.setParty_rings (s : State) (p : Nat) (x : Party) : (s.setParty p x).rings = s.rings := rfl
@[simp] theorem State.setParty_pval (s : State) (p : Nat) (x : Party) : (s.setParty p x).pval = s.pval := rfl
@[simp] theorem State.setParty_group (s : State) (p : Nat) (x : Party) : (s.setParty p x).group = s.group := rfl
@[simp] theorem State.setParty_member (s : State) (p : Nat) (x : Party) : (s.setParty p x).member = s.member := rfl
@[simp] theorem State.setParty_slew (s : State) (p : Nat) (x : Party) : (s.setParty p x).slew = s.slew := rfl
@[simp] theorem State.setParty_clkmask (s : State) (p : Nat) (x : Party) : (s.setParty p x).clkmask = s.clkmask := rfl
@[simp] theorem State.setParty_paths (s : State) (p : Nat) (x : Party) : (s.setParty p x).paths = s.paths := rfl
@[simp] theorem State.setParty_homes (s : State) (p : Nat) (x : Party) : (s.setParty p x).homes = s.homes := rfl
@[simp] theorem State.setParty_dies (s : State) (p : Nat) (x : Party) : (s.setParty p x).dies = s.dies := rfl
@[simp] theorem State.setParty_links (s : State) (p : Nat) (x : Party) : (s.setParty p x).links = s.links := rfl
@[simp] theorem State.setParty_dmem (s : State) (p : Nat) (x : Party) : (s.setParty p x).dmem = s.dmem := rfl
@[simp] theorem State.setParty_poison (s : State) (p : Nat) (x : Party) : (s.setParty p x).poison = s.poison := rfl
@[simp] theorem State.setParty_hmem (s : State) (p : Nat) (x : Party) : (s.setParty p x).hmem = s.hmem := rfl
@[simp] theorem State.setParty_pcie (s : State) (p : Nat) (x : Party) : (s.setParty p x).pcie = s.pcie := rfl
@[simp] theorem State.setParty_errs (s : State) (p : Nat) (x : Party) : (s.setParty p x).errs = s.errs := rfl
@[simp] theorem State.setParty_matrix (s : State) (p : Nat) (x : Party) : (s.setParty p x).matrix = s.matrix := rfl
@[simp] theorem State.setParty_ids (s : State) (p : Nat) (x : Party) : (s.setParty p x).ids = s.ids := rfl
@[simp] theorem State.setParty_parts (s : State) (p : Nat) (x : Party) : (s.setParty p x).parts = s.parts := rfl
@[simp] theorem State.setParty_dbg (s : State) (p : Nat) (x : Party) : (s.setParty p x).dbg = s.dbg := rfl
@[simp] theorem State.setParty_trained (s : State) (p : Nat) (x : Party) : (s.setParty p x).trained = s.trained := rfl
@[simp] theorem State.setParty_full (s : State) (p : Nat) (x : Party) : (s.setParty p x).full = s.full := rfl
@[simp] theorem State.setParty_dcnt (s : State) (p : Nat) (x : Party) : (s.setParty p x).dcnt = s.dcnt := rfl
@[simp] theorem State.setParty_survey (s : State) (p : Nat) (x : Party) : (s.setParty p x).survey = s.survey := rfl
@[simp] theorem State.setParty_irqs (s : State) (p : Nat) (x : Party) : (s.setParty p x).irqs = s.irqs := rfl
@[simp] theorem State.setParty_recs (s : State) (p : Nat) (x : Party) : (s.setParty p x).recs = s.recs := rfl
@[simp] theorem State.setParty_rinfo (s : State) (p : Nat) (x : Party) : (s.setParty p x).rinfo = s.rinfo := rfl
@[simp] theorem State.setParty_pool (s : State) (p : Nat) (x : Party) : (s.setParty p x).pool = s.pool := rfl
@[simp] theorem State.setParty_resv (s : State) (p : Nat) (x : Party) : (s.setParty p x).resv = s.resv := rfl
@[simp] theorem State.setParty_runs (s : State) (p : Nat) (x : Party) : (s.setParty p x).runs = s.runs := rfl
@[simp] theorem State.setParty_saved (s : State) (p : Nat) (x : Party) : (s.setParty p x).saved = s.saved := rfl
@[simp] theorem State.setParty_psets (s : State) (p : Nat) (x : Party) : (s.setParty p x).psets = s.psets := rfl
@[simp] theorem State.setParty_oldTags (s : State) (p : Nat) (x : Party) : (s.setParty p x).oldTags = s.oldTags := rfl
@[simp] theorem State.setParty_views (s : State) (p : Nat) (x : Party) : (s.setParty p x).views = s.views := rfl
@[simp] theorem State.setParty_wd (s : State) (p : Nat) (x : Party) : (s.setParty p x).wd = s.wd := rfl
@[simp] theorem State.setParty_frings (s : State) (p : Nat) (x : Party) : (s.setParty p x).frings = s.frings := rfl
@[simp] theorem State.setParty_invs (s : State) (p : Nat) (x : Party) : (s.setParty p x).invs = s.invs := rfl
@[simp] theorem State.setParty_invn (s : State) (p : Nat) (x : Party) : (s.setParty p x).invn = s.invn := rfl
@[simp] theorem State.setParty_mig (s : State) (p : Nat) (x : Party) : (s.setParty p x).mig = s.mig := rfl
@[simp] theorem State.setParty_queues (s : State) (p : Nat) (x : Party) : (s.setParty p x).queues = s.queues := rfl
@[simp] theorem State.setParty_sevcnt (s : State) (p : Nat) (x : Party) : (s.setParty p x).sevcnt = s.sevcnt := rfl
@[simp] theorem State.setParty_jseq (s : State) (p : Nat) (x : Party) : (s.setParty p x).jseq = s.jseq := rfl
@[simp] theorem State.setParty_jown (s : State) (p : Nat) (x : Party) : (s.setParty p x).jown = s.jown := rfl
@[simp] theorem State.setParty_viral (s : State) (p : Nat) (x : Party) : (s.setParty p x).viral = s.viral := rfl
@[simp] theorem State.setParty_asm (s : State) (p : Nat) (x : Party) : (s.setParty p x).asm = s.asm := rfl
@[simp] theorem State.setParty_caps (s : State) (p : Nat) (x : Party) : (s.setParty p x).caps = s.caps := rfl
@[simp] theorem State.setParty_sees (s : State) (p : Nat) (x : Party) : (s.setParty p x).sees = s.sees := rfl
@[simp] theorem State.setParty_snap (s : State) (p : Nat) (x : Party) : (s.setParty p x).snap = s.snap := rfl
@[simp] theorem State.setParty_taken (s : State) (p : Nat) (x : Party) : (s.setParty p x).taken = s.taken := rfl
@[simp] theorem State.setParty_kept (s : State) (p : Nat) (x : Party) : (s.setParty p x).kept = s.kept := rfl
@[simp] theorem State.setParty_rest (s : State) (p : Nat) (x : Party) : (s.setParty p x).rest = s.rest := rfl
@[simp] theorem State.setParty_wipe (s : State) (p : Nat) (x : Party) : (s.setParty p x).wipe = s.wipe := rfl
@[simp] theorem State.setParty_nv (s : State) (p : Nat) (x : Party) : (s.setParty p x).nv = s.nv := rfl
@[simp] theorem State.setParty_ports (s : State) (p : Nat) (x : Party) : (s.setParty p x).ports = s.ports := rfl
@[simp] theorem State.setParty_fab (s : State) (p : Nat) (x : Party) : (s.setParty p x).fab = s.fab := rfl

@[simp] theorem State.setParty_party_same (s : State) (p : Nat) (x : Party) : (s.setParty p x).party p = x := by
  simp [State.setParty, State.party]

theorem State.setParty_party_ne (s : State) (x : Party) (a b : Nat) (h : a ≠ b) : (s.setParty b x).party a = s.party a :=
  tget_tset_ne _ _ _ _ _ h

/-! ### State.setPort -/

@[simp] theorem State.setPort_agenda (s : State) (p : Nat) (x : Port) : (s.setPort p x).agenda = s.agenda := rfl
@[simp] theorem State.setPort_free (s : State) (p : Nat) (x : Port) : (s.setPort p x).free = s.free := rfl
@[simp] theorem State.setPort_cur (s : State) (p : Nat) (x : Port) : (s.setPort p x).cur = s.cur := rfl
@[simp] theorem State.setPort_tiles (s : State) (p : Nat) (x : Port) : (s.setPort p x).tiles = s.tiles := rfl
@[simp] theorem State.setPort_rings (s : State) (p : Nat) (x : Port) : (s.setPort p x).rings = s.rings := rfl
@[simp] theorem State.setPort_pval (s : State) (p : Nat) (x : Port) : (s.setPort p x).pval = s.pval := rfl
@[simp] theorem State.setPort_group (s : State) (p : Nat) (x : Port) : (s.setPort p x).group = s.group := rfl
@[simp] theorem State.setPort_member (s : State) (p : Nat) (x : Port) : (s.setPort p x).member = s.member := rfl
@[simp] theorem State.setPort_slew (s : State) (p : Nat) (x : Port) : (s.setPort p x).slew = s.slew := rfl
@[simp] theorem State.setPort_clkmask (s : State) (p : Nat) (x : Port) : (s.setPort p x).clkmask = s.clkmask := rfl
@[simp] theorem State.setPort_paths (s : State) (p : Nat) (x : Port) : (s.setPort p x).paths = s.paths := rfl
@[simp] theorem State.setPort_homes (s : State) (p : Nat) (x : Port) : (s.setPort p x).homes = s.homes := rfl
@[simp] theorem State.setPort_dies (s : State) (p : Nat) (x : Port) : (s.setPort p x).dies = s.dies := rfl
@[simp] theorem State.setPort_parties (s : State) (p : Nat) (x : Port) : (s.setPort p x).parties = s.parties := rfl
@[simp] theorem State.setPort_links (s : State) (p : Nat) (x : Port) : (s.setPort p x).links = s.links := rfl
@[simp] theorem State.setPort_dmem (s : State) (p : Nat) (x : Port) : (s.setPort p x).dmem = s.dmem := rfl
@[simp] theorem State.setPort_poison (s : State) (p : Nat) (x : Port) : (s.setPort p x).poison = s.poison := rfl
@[simp] theorem State.setPort_hmem (s : State) (p : Nat) (x : Port) : (s.setPort p x).hmem = s.hmem := rfl
@[simp] theorem State.setPort_pcie (s : State) (p : Nat) (x : Port) : (s.setPort p x).pcie = s.pcie := rfl
@[simp] theorem State.setPort_errs (s : State) (p : Nat) (x : Port) : (s.setPort p x).errs = s.errs := rfl
@[simp] theorem State.setPort_matrix (s : State) (p : Nat) (x : Port) : (s.setPort p x).matrix = s.matrix := rfl
@[simp] theorem State.setPort_ids (s : State) (p : Nat) (x : Port) : (s.setPort p x).ids = s.ids := rfl
@[simp] theorem State.setPort_parts (s : State) (p : Nat) (x : Port) : (s.setPort p x).parts = s.parts := rfl
@[simp] theorem State.setPort_dbg (s : State) (p : Nat) (x : Port) : (s.setPort p x).dbg = s.dbg := rfl
@[simp] theorem State.setPort_trained (s : State) (p : Nat) (x : Port) : (s.setPort p x).trained = s.trained := rfl
@[simp] theorem State.setPort_full (s : State) (p : Nat) (x : Port) : (s.setPort p x).full = s.full := rfl
@[simp] theorem State.setPort_dcnt (s : State) (p : Nat) (x : Port) : (s.setPort p x).dcnt = s.dcnt := rfl
@[simp] theorem State.setPort_survey (s : State) (p : Nat) (x : Port) : (s.setPort p x).survey = s.survey := rfl
@[simp] theorem State.setPort_irqs (s : State) (p : Nat) (x : Port) : (s.setPort p x).irqs = s.irqs := rfl
@[simp] theorem State.setPort_recs (s : State) (p : Nat) (x : Port) : (s.setPort p x).recs = s.recs := rfl
@[simp] theorem State.setPort_rinfo (s : State) (p : Nat) (x : Port) : (s.setPort p x).rinfo = s.rinfo := rfl
@[simp] theorem State.setPort_pool (s : State) (p : Nat) (x : Port) : (s.setPort p x).pool = s.pool := rfl
@[simp] theorem State.setPort_resv (s : State) (p : Nat) (x : Port) : (s.setPort p x).resv = s.resv := rfl
@[simp] theorem State.setPort_runs (s : State) (p : Nat) (x : Port) : (s.setPort p x).runs = s.runs := rfl
@[simp] theorem State.setPort_saved (s : State) (p : Nat) (x : Port) : (s.setPort p x).saved = s.saved := rfl
@[simp] theorem State.setPort_psets (s : State) (p : Nat) (x : Port) : (s.setPort p x).psets = s.psets := rfl
@[simp] theorem State.setPort_oldTags (s : State) (p : Nat) (x : Port) : (s.setPort p x).oldTags = s.oldTags := rfl
@[simp] theorem State.setPort_views (s : State) (p : Nat) (x : Port) : (s.setPort p x).views = s.views := rfl
@[simp] theorem State.setPort_wd (s : State) (p : Nat) (x : Port) : (s.setPort p x).wd = s.wd := rfl
@[simp] theorem State.setPort_frings (s : State) (p : Nat) (x : Port) : (s.setPort p x).frings = s.frings := rfl
@[simp] theorem State.setPort_invs (s : State) (p : Nat) (x : Port) : (s.setPort p x).invs = s.invs := rfl
@[simp] theorem State.setPort_invn (s : State) (p : Nat) (x : Port) : (s.setPort p x).invn = s.invn := rfl
@[simp] theorem State.setPort_mig (s : State) (p : Nat) (x : Port) : (s.setPort p x).mig = s.mig := rfl
@[simp] theorem State.setPort_queues (s : State) (p : Nat) (x : Port) : (s.setPort p x).queues = s.queues := rfl
@[simp] theorem State.setPort_sevcnt (s : State) (p : Nat) (x : Port) : (s.setPort p x).sevcnt = s.sevcnt := rfl
@[simp] theorem State.setPort_jseq (s : State) (p : Nat) (x : Port) : (s.setPort p x).jseq = s.jseq := rfl
@[simp] theorem State.setPort_jown (s : State) (p : Nat) (x : Port) : (s.setPort p x).jown = s.jown := rfl
@[simp] theorem State.setPort_viral (s : State) (p : Nat) (x : Port) : (s.setPort p x).viral = s.viral := rfl
@[simp] theorem State.setPort_asm (s : State) (p : Nat) (x : Port) : (s.setPort p x).asm = s.asm := rfl
@[simp] theorem State.setPort_caps (s : State) (p : Nat) (x : Port) : (s.setPort p x).caps = s.caps := rfl
@[simp] theorem State.setPort_sees (s : State) (p : Nat) (x : Port) : (s.setPort p x).sees = s.sees := rfl
@[simp] theorem State.setPort_snap (s : State) (p : Nat) (x : Port) : (s.setPort p x).snap = s.snap := rfl
@[simp] theorem State.setPort_taken (s : State) (p : Nat) (x : Port) : (s.setPort p x).taken = s.taken := rfl
@[simp] theorem State.setPort_kept (s : State) (p : Nat) (x : Port) : (s.setPort p x).kept = s.kept := rfl
@[simp] theorem State.setPort_rest (s : State) (p : Nat) (x : Port) : (s.setPort p x).rest = s.rest := rfl
@[simp] theorem State.setPort_wipe (s : State) (p : Nat) (x : Port) : (s.setPort p x).wipe = s.wipe := rfl
@[simp] theorem State.setPort_nv (s : State) (p : Nat) (x : Port) : (s.setPort p x).nv = s.nv := rfl
@[simp] theorem State.setPort_fab (s : State) (p : Nat) (x : Port) : (s.setPort p x).fab = s.fab := rfl

@[simp] theorem State.setPort_port_same (s : State) (p : Nat) (x : Port) : (s.setPort p x).port p = x := by
  simp [State.setPort, State.port]

theorem State.setPort_port_ne (s : State) (x : Port) (a b : Nat) (h : a ≠ b) : (s.setPort b x).port a = s.port a :=
  tget_tset_ne _ _ _ _ _ h

end Sys2Proof.Machine
end

