-- ==== Sys2Proof/Laws/Service.lean ====
section
/-! SUPPORT. What the shared operations of the package can do, once each: what the bring-up service lacks, what the host takes, what a
port sends, what the registers read. -/

namespace Sys2Proof.Machine

/-- The full service has every format. -/
@[simp] theorem State.lacks_of_full {s : State} (h : s.full = true) (f : Fmt) : s.lacks f = false := by simp [State.lacks, h]

/-- The full service offers every format of a word. -/
@[simp] theorem State.offers_of_full {s : State} (h : s.full = true) (ok : Fmt → Bool) (f : Fmt) : s.offers ok f = ok f := by
  simp [State.offers, h]

/-- Within a tile's cycle the errors wait for its end. -/
theorem State.settleStep_of_inCycle {s : State} (h : s.inCycle = true) : s.settleStep = s := by simp [State.settleStep, h]

/-- Between cycles they are acted on. -/
theorem State.settleStep_of_between {s : State} (h : s.inCycle = false) : s.settleStep = s.settleErrors := by
  simp [State.settleStep, h]

/-- A running slot waits in no other's place: its SYNC words are plain ones where the tile's bundle is free (03 R54). -/
theorem Tile.alone_of_inBundle {t : Tile} {k : Slot} (h : t.inBundle k = true) : t.alone k = (t.bundle == .free) := by
  simp [Tile.alone, Tile.guest, h]

/-- Nothing is lost while no party has been removed (12 R250). -/
theorem State.lostAt_of_clkmask {s : State} (h : s.clkmask = 0) (pa : Nat) : s.lostAt pa = false := by
  simp [State.lostAt, h, bitAt]

/-- Host memory is not behind a base die. -/
theorem State.lostAt_host (s : State) {pa : Nat} (h : hostBase ≤ pa) : s.lostAt pa = false := by
  simp [State.lostAt, Nat.not_lt.2 h]

/-- A die that is admitted is in service, or waits for the full service. -/
theorem State.served_cases (s : State) (d : Nat) : s.served d = 0 ∨ s.served d = 4 := by
  unfold State.served
  split <;> simp

/-- Bytes for the host are written, or refused with one report; device memory stays. -/
theorem State.toHost_cases (s : State) (fn : Nat) (addr : W64) (l : List Byte) :
    s.toHost fn addr l = { s with hmem := writeBytes s.hmem addr.toNat l } ∨
    s.toHost fn addr l = s.report 26 14 (unitParty 0) 0 0 0 := by
  unfold State.toHost
  split
  · exact .inl rfl
  · exact .inr rfl

@[simp] theorem State.toHost_dmem (s : State) (fn : Nat) (addr : W64) (l : List Byte) : (s.toHost fn addr l).dmem = s.dmem := by
  obtain h | h := s.toHost_cases fn addr l
  · rw [h]
  · rw [h]
    rfl

theorem State.toHost_wf {s : State} (fn : Nat) (addr : W64) (l : List Byte) (h : Memory.wf s.hmem = true) :
    Memory.wf (s.toHost fn addr l).hmem = true := by
  obtain e | e := s.toHost_cases fn addr l <;> rw [e]
  · exact Laws.wf_writeBytes _ _ h
  · exact h

/-- A notice is sent, noted as owed, or has no peer; memory stays. -/
theorem State.noticePort_cases (s : State) (p : Nat) :
    (∃ x l, s.noticePort p = { s.setPort p x with fab := { s.fab with notes := l } } ∧ p ∉ l) ∨
    (∃ l, s.noticePort p = { s with fab := { s.fab with notes := l } }) := by
  unfold State.noticePort
  split
  · split
    · exact .inl ⟨_, _, rfl, by simp⟩
    · split
      · exact .inr ⟨s.fab.notes, rfl⟩
      · exact .inr ⟨_, rfl⟩
  · exact .inr ⟨s.fab.notes, rfl⟩

/-- A reshape is begun: its mask and epoch, and nothing else but what is sent. -/
@[simp] theorem Port.propose_ini (x : Port) (m : BitVec 8) : (x.propose m).ini = some m := rfl
@[simp] theorem Port.propose_epoch (x : Port) (m : BitVec 8) : (x.propose m).epoch = (x.epoch + 1) % 256 := rfl
@[simp] theorem Port.propose_act (x : Port) (m : BitVec 8) : (x.propose m).act = x.act := rfl
@[simp] theorem Port.propose_replay (x : Port) (m : BitVec 8) : (x.propose m).replay = x.replay := rfl
@[simp] theorem Port.propose_exp (x : Port) (m : BitVec 8) : (x.propose m).exp = x.exp := rfl

/-- A queue's registers are 32 bytes. -/
@[simp] theorem Queue.bytes_length (x : Queue) : x.bytes.length = 32 := by
  simp [Queue.bytes, Laws.leBytes_length]

/-- What a read of BAR0 gives is as long as the read. -/
theorem State.bar0_length {s : State} {fn off n : Nat} {l : List Byte} (h : s.bar0 fn off n = some l) : l.length = n := by
  unfold State.bar0 at h
  split at h
  · exact nomatch h
  · cases h
    simp

/-- The first command of a burst is within its allowance. -/
theorem Shaper.overDuty_fresh {x : Shaper} {r f cyc : Nat} (h : x.fresh r cyc = true) : x.overDuty r f cyc = false := by
  simp [Shaper.overDuty, h]

end Sys2Proof.Machine
end

