-- ==== Sys2Proof/Laws/Words.lean ====
section
/-! SUPPORT. What a word does that issues, traps or stalls: the lemmas about runWord that the statements about single words rest on. -/

namespace Sys2Proof.Laws

open Sys2Proof.Machine Sys2Proof.Claim

/-- A word whose operands are ready and whose plan names no trap, no stall and no later check issues: its effect is made in
the state that done names. -/
theorem runWord_next {s : State} {srcs : List Src} {grds : List (Fin 8)} {sq : Bool} {v : List W64}
    {plan : Tile → List W64 → Plan} {p : Plan} (hp : plan (tl s) v = p) (h : Ready s srcs grds sq p.outs v)
    (ht : p.trap = none) (he : (bitAt (tl s).tcfg 1 && p.early) = false) (hw : p.wait = none) (ha : p.after = none) :
    runWord s ⟨srcs, grds, sq⟩ plan =
      .next (p.sys (done s srcs (if p.open_ then none else some (max p.retire (now s))) p.act p.flow)) := by
  obtain ⟨hpr, hm, hg, ⟨q, hq, hv⟩, hl, htok, hsq⟩ := h
  have hsq' : (if sq = true then (tl s).sqCheck else QAns.ok []) = .ok [] := by cases sq <;> simp_all
  have hlate : (if bitAt (tl s).tcfg 0 = true then
      (tl s).lateCode (slot s) srcs (grds ++ ctlGuards s.cur.ctl) p.outs else none) = none := by
    split
    · exact hl ‹_›
    · rfl
  have hst : (tl s).stallOf s.cur (.ok q) (.ok []) p = none := by
    unfold Tile.stallOf
    unfold slot at htok
    simp only [htok, hw, Bool.not_true, Bool.false_eq_true, if_false, reduceCtorEq]
  unfold runWord
  unfold tl pops slot at *
  simp only [hq, hv, hp, hpr, ht, he, hlate, hsq', hst, queueTrap, hm, hg, ha, Bool.false_eq_true, if_false, Bool.not_true]
  rfl

/-- The same of a word whose guards and SQ play no part. -/
theorem does_of {s : State} {i : Instr} {srcs : List Src} {outs : List (Out × Nat)} {r : Nat} {ok : List W64 → Prop}
    {act : List W64 → Tile → Tile} {plan : Tile → List W64 → Plan} (hi : exec i s = runWord s { srcs := srcs } plan)
    (h : ∀ v, ok v → ∃ p, plan (tl s) v = p ∧ p.outs = outs ∧ p.trap = none ∧ (bitAt (tl s).tcfg 1 && p.early) = false ∧
      p.wait = none ∧ p.after = none ∧ p.open_ = false ∧ max p.retire (now s) = r ∧ p.act = act v ∧ p.sys = id ∧
      p.flow = .seq) : Does s i srcs outs r ok act := by
  intro v hr ho
  obtain ⟨p, hp, houts, ht, he, hw, ha, hopen, hret, hact, hsys, hflow⟩ := h v ho
  subst houts
  rw [hi, runWord_next hp hr ht he hw ha, hsys, hopen, hret, hact, hflow]
  rfl

/-- A scalar word, by its function of its sources. -/
theorem scalarWord_next {s : State} {d : Dst} {lat : Nat} {srcs : List Src} {f : List W64 → W64} {v : List W64}
    (h : Ready s srcs [] (d == .sq) (dstOut d lat) v) :
    scalarWord s d lat srcs f = .next (done s srcs (some (now s + lat)) fun u => u.putDst (slot s) d lat (f v)) := by
  unfold scalarWord
  rw [runWord_next (p := { outs := dstOut d lat, act := fun t => t.putDst s.cur.slot d lat (f v), retire := now s + lat })
    rfl h rfl (by simp) rfl rfl]
  simp [slot]

/-- The same, where the function of the sources is written another way. -/
theorem gives_of {s : State} {i : Instr} {d : Dst} {lat : Nat} {srcs : List Src} {f g : List W64 → W64}
    (hi : exec i s = scalarWord s d lat srcs f) (hfg : ∀ v, f v = g v) : Gives s i d lat srcs g := by
  intro v h
  rw [hi, scalarWord_next h, hfg]

/-! ### Words that trap or stall -/

/-- A word whose operands are ready and whose plan names a trap takes it. -/
theorem runWord_trap {s : State} {srcs : List Src} {grds : List (Fin 8)} {sq : Bool} {outs : List (Out × Nat)}
    {v : List W64} {plan : Tile → List W64 → Plan} {r : TrapReq} (h : Ready s srcs grds sq outs v)
    (ht : (plan (tl s) v).trap = some r) : runWord s ⟨srcs, grds, sq⟩ plan =
      .next (s.takeTrap s.cur.tile s.cur.slot r.cause r.detail r.v (unitAt s)) := by
  obtain ⟨hpr, _, _, ⟨q, hq, hv⟩, _⟩ := h
  unfold runWord
  unfold tl pops unitAt slot at *
  simp only [hq, hv, hpr, ht, Bool.false_eq_true, if_false, if_true]
  rfl

/-- A word whose operands are ready and whose plan names a wait stalls on it, and joins what it waits for. -/
theorem runWord_wait {s : State} {srcs : List Src} {grds : List (Fin 8)} {sq : Bool} {v : List W64}
    {plan : Tile → List W64 → Plan} {p : Plan} {w : Wait} (hp : plan (tl s) v = p) (h : Ready s srcs grds sq p.outs v)
    (ht : p.trap = none) (he : (bitAt (tl s).tcfg 1 && p.early) = false) (hw : p.wait = some w) (hwt : w ≠ .token) :
    runWord s ⟨srcs, grds, sq⟩ plan = .next (s.setTile s.cur.tile ((p.join (tl s)).stallOn (slot s) w)) := by
  obtain ⟨hpr, hm, hg, ⟨q, hq, hv⟩, hl, htok, hsq⟩ := h
  have hsq' : (if sq = true then (tl s).sqCheck else QAns.ok []) = .ok [] := by cases sq <;> simp_all
  have hlate : (if bitAt (tl s).tcfg 0 = true then
      (tl s).lateCode (slot s) srcs (grds ++ ctlGuards s.cur.ctl) p.outs else none) = none := by
    split
    · exact hl ‹_›
    · rfl
  have hst : (tl s).stallOf s.cur (.ok q) (.ok []) p = some w := by
    unfold Tile.stallOf
    unfold slot at htok
    simp only [htok, hw, Bool.not_true, Bool.false_eq_true, if_false, reduceCtorEq]
  unfold runWord
  unfold tl pops slot at *
  simp only [hq, hv, hp, hpr, ht, he, hlate, hsq', hst, queueTrap, hm, hg, hw, Bool.false_eq_true, if_false, Bool.not_true,
    if_true]
  cases w <;> first | exact absurd rfl hwt | rfl

/-- What MayTrap says, in the form that takeTrap asks it. -/
theorem mayTrap_unfold {s : State} (hm : MayTrap s) :
    ¬ (s.tile s.cur.tile).trapT = some (s.tile s.cur.tile).cyc ∧ ¬ (s.tile s.cur.tile).inh = true ∧
      ¬ ((s.tile s.cur.tile).slot s.cur.slot).stub = true := by
  obtain ⟨ht, hi, hs⟩ := hm
  exact ⟨ht, by rw [show (s.tile s.cur.tile).inh = false from hi]; decide,
    by rw [show ((s.tile s.cur.tile).slot s.cur.slot).stub = false from hs]; decide⟩

/-- A trap with a value, taken where it may be: the handler is entered, and nothing else changes. -/
theorem takeTrap_may {s : State} (hm : MayTrap s) (cause : Cause) (detail : Nat) (v : W64) (pc : Nat)
    (hpipe : cause ≠ .pipe) (hpage : cause ≠ .page) : s.takeTrap s.cur.tile s.cur.slot cause detail (some v) pc =
      s.setTile s.cur.tile ((tl s).enterTrap (slot s) cause detail v pc) := by
  obtain ⟨ht, hi, hs⟩ := mayTrap_unfold hm
  unfold State.takeTrap
  dsimp only
  rw [if_neg ht, if_neg fun h => hs h.1, if_neg fun h => hi h.1]
  cases cause <;> first | exact absurd rfl hpipe | exact absurd rfl hpage | rfl

/-- A trap without a value: TRAPV is a free word (log 3). -/
theorem takeTrap_free {s : State} (hm : MayTrap s) (cause : Cause) (detail pc : Nat) (hpipe : cause ≠ .pipe)
    (hpage : cause ≠ .page) : s.takeTrap s.cur.tile s.cur.slot cause detail none pc =
      ({ s with free := s.free + 1 } : State).setTile s.cur.tile
        ((tl s).enterTrap (slot s) cause detail (Config.freeWord s.free) pc) := by
  obtain ⟨ht, hi, hs⟩ := mayTrap_unfold hm
  unfold State.takeTrap
  dsimp only
  rw [if_neg ht, if_neg fun h => hs h.1]
  dsimp only [State.freeWord]
  rw [if_neg fun h => hi h.1]
  cases cause <;> first | exact absurd rfl hpipe | exact absurd rfl hpage | rfl

theorem traps_of {s : State} {i : Instr} {srcs : List Src} {ok : List W64 → Prop} {plan : Tile → List W64 → Plan}
    {cause : Cause} {detail : Nat} {w : List W64 → W64} (hm : MayTrap s) (hi : exec i s = runWord s { srcs := srcs } plan)
    (h : ∀ v, ok v → (plan (tl s) v).trap = some ⟨cause, detail, some (w v)⟩) (hpipe : cause ≠ .pipe)
    (hpage : cause ≠ .page) : Traps s i srcs ok fun v => (tl s).enterTrap (slot s) cause detail (w v) (unitAt s) := by
  intro v hr ho
  refine ⟨_, hi.trans (runWord_trap hr (h v ho)), ?_, ?_, ?_⟩ <;> rw [takeTrap_may hm _ _ _ _ hpipe hpage]
  · exact State.tile_setTile _ _ _
  · exact fun n hn => State.tile_setTile_ne _ _ _ _ hn
  · rfl

theorem ills_of {s : State} {i : Instr} {srcs : List Src} {ok : List W64 → Prop} {plan : Tile → List W64 → Plan}
    (hi : exec i s = runWord s { srcs := srcs } plan) (h : ∀ v, ok v → (plan (tl s) v).trap = some ⟨.ill, 4, none⟩) :
    Ills s i srcs ok := by
  intro hm v hr ho
  refine ⟨_, hi.trans (runWord_trap hr (h v ho)), ?_, ?_, ?_⟩ <;> rw [takeTrap_free hm _ _ _ (by decide) (by decide)]
  · exact State.tile_setTile _ _ _
  · exact fun n hn => State.tile_setTile_ne _ _ _ _ hn
  · rfl

theorem stalls_of {s : State} {i : Instr} {srcs : List Src} {outs : List (Out × Nat)} {w : Wait} {ok : List W64 → Prop}
    {plan : Tile → List W64 → Plan} (hwt : w ≠ .token) (hi : exec i s = runWord s { srcs := srcs } plan)
    (h : ∀ v, ok v → ∃ p, plan (tl s) v = p ∧ p.outs = outs ∧ p.trap = none ∧ (bitAt (tl s).tcfg 1 && p.early) = false ∧
      p.wait = some w ∧ p.join (tl s) = tl s) : Stalls s i srcs outs w ok := by
  intro v hr ho
  obtain ⟨p, hp, houts, ht, he, hw, hj⟩ := h v ho
  subst houts
  rw [hi, runWord_wait hp hr ht he hw hwt, hj]

/-! ### Parts of a tile that issuing leaves alone -/

/-- Taking a token changes no scheduled write and no queue. -/
theorem takeToken_queues (t : Tile) (k : Slot) (tok : Tok) (r : Option Nat) :
    (t.takeToken k tok r).pend = t.pend ∧ (t.takeToken k tok r).ids = t.ids ∧ (t.takeToken k tok r).ents = t.ents ∧
    (t.takeToken k tok r).laq = t.laq ∧ (t.takeToken k tok r).saq = t.saq ∧ (t.takeToken k tok r).lq = t.lq := by
  unfold Tile.takeToken
  dsimp only
  refine ⟨?_, ?_, ?_, ?_, ?_, ?_⟩ <;> (repeat' split) <;> rfl

/-- Going on to the next word changes no scheduled write and no queue. -/
theorem advance_queues (t : Tile) (k : Slot) :
    (t.advance k .seq).pend = t.pend ∧ (t.advance k .seq).ids = t.ids ∧ (t.advance k .seq).ents = t.ents ∧
    (t.advance k .seq).laq = t.laq ∧ (t.advance k .seq).saq = t.saq ∧ (t.advance k .seq).lq = t.lq := by
  cases k <;> (unfold Tile.advance; dsimp only [Tile.setSlot]; refine ⟨?_, ?_, ?_, ?_, ?_, ?_⟩ <;> rfl)

end Sys2Proof.Laws
end

