-- ==== Sys2Proof/Tests/Slice0.lean ====
section
/-! SUPPORT. Tests: words written out from the spec's encodings, ill-formed terms that WellFormed refuses, a witness for each
statement that has hypotheses, and single steps worked out by hand. -/

-- One theorem after another: each waits for what stands before it, and waits for nothing else.
set_option Elab.async false

namespace Sys2Proof.Tests
open Sys2Proof.Machine Sys2Proof.Claim
/-- A word without control fields: HINT, OP and F0 to F4 (03 R40). -/
def bits (hint : BitVec 2) (op : BitVec 10) (f0 f1 f2 f3 f4 : BitVec 6) : W64 :=
  0#10 ++ 0#1 ++ 0#4 ++ 0#4 ++ 0#3 ++ hint ++ op ++ f0 ++ f1 ++ f2 ++ f3 ++ f4

/-- Each word decodes, in slot k, to the instruction beside it. -/
def reads (k : Slot) (l : List (W64 × Instr)) : Bool :=
  l.all fun p => (decode k p.1).toOption == some (Ctl.plain, p.2)

/-- Words of class 0x0, field by field (03 R61; 05 R97, R98). -/
theorem test_decode_class_0 : reads .c [
    (bits 0 0x000 4 5 50 0 0, .add (.s 4) (.s 5) .k),
    (bits 0 0x001 4 5 50 0 0, .sub (.s 4) (.s 5) .k),
    (bits 0 0x002 4 5 50 0 0, .mul (.s 4) (.s 5) .k),
    (bits 0 0x003 4 5 50 0 0, .mulh (.s 4) (.s 5) .k),
    (bits 0 0x004 4 5 50 0 0, .mulhs (.s 4) (.s 5) .k),
    (bits 0 0x005 4 5 50 0 0, .div (.s 4) (.s 5) .k),
    (bits 0 0x006 4 5 50 0 0, .divs (.s 4) (.s 5) .k),
    (bits 0 0x007 4 5 50 0 0, .rem (.s 4) (.s 5) .k),
    (bits 0 0x008 4 5 50 0 0, .rems (.s 4) (.s 5) .k),
    (bits 0 0x009 4 5 50 0 0, .min (.s 4) (.s 5) .k),
    (bits 0 0x00a 4 5 50 0 0, .mins (.s 4) (.s 5) .k),
    (bits 0 0x00b 4 5 50 0 0, .max (.s 4) (.s 5) .k),
    (bits 0 0x00c 4 5 50 0 0, .maxs (.s 4) (.s 5) .k),
    (bits 0 0x00d 49 33 48 40 0, .sel .sq 1 .lq (.x 0)),
    (bits 0 0x00e 7 0 0 1 2, .movk (.s 7) 66),
    (bits 0 0x00f 7 3 63 63 63, .movkh 7 0xFFFFF),
    (bits 0 0x010 47 31 0 0 0, .xmov (.x 7) (.s 31)),
    (bits 0 0x011 7 50 57 6 21, .rgn (.s 7) .k (.con 1) (.s 6) 5 true)] = true := by decide

/-- Words of class 0x1, field by field (03 R61; 05 R99). -/
theorem test_decode_class_1 : reads .a [
    (bits 0 0x040 4 5 6 0 0, .and (.s 4) (.s 5) (.s 6)),
    (bits 0 0x041 4 5 6 0 0, .or (.s 4) (.s 5) (.s 6)),
    (bits 0 0x042 4 5 6 0 0, .xor (.s 4) (.s 5) (.s 6)),
    (bits 0 0x043 4 5 6 0 0, .andn (.s 4) (.s 5) (.s 6)),
    (bits 0 0x044 4 5 6 0 0, .shl (.s 4) (.s 5) (.s 6)),
    (bits 0 0x045 4 5 6 0 0, .shr (.s 4) (.s 5) (.s 6)),
    (bits 0 0x046 4 5 6 0 0, .sra (.s 4) (.s 5) (.s 6)),
    (bits 0 0x047 4 5 6 0 0, .rot (.s 4) (.s 5) (.s 6)),
    (bits 0 0x048 4 5 0 0 0, .clz (.s 4) (.s 5)),
    (bits 0 0x049 4 5 0 0 0, .ctz (.s 4) (.s 5)),
    (bits 0 0x04a 4 5 0 0 0, .popc (.s 4) (.s 5)),
    (bits 0 0x04b 3 4 8 7 0, .extr (.s 3) (.s 4) 8 7),
    (bits 0 0x04c 3 4 0 63 0, .ins 3 (.s 4) 0 63),
    (bits 0 0x04d 1 2 3 0 0, .clmul (.s 1) (.s 2) (.s 3)),
    (bits 0 0x04e 1 2 3 0 0, .clmulh (.s 1) (.s 2) (.s 3)),
    (bits 0 0x04f 33 34 35 0 0, .gand 1 2 3),
    (bits 0 0x050 33 34 35 0 0, .gor 1 2 3),
    (bits 0 0x051 33 39 0 0 0, .gnot 1 7),
    (bits 0 0x058 39 5 57 0 0, .cmpEq 7 (.s 5) (.con 1)),
    (bits 0 0x059 39 5 57 0 0, .cmpNe 7 (.s 5) (.con 1)),
    (bits 0 0x05a 39 5 57 0 0, .cmpLt 7 (.s 5) (.con 1)),
    (bits 0 0x05b 39 5 57 0 0, .cmpLts 7 (.s 5) (.con 1)),
    (bits 0 0x05c 39 5 57 0 0, .cmpLe 7 (.s 5) (.con 1)),
    (bits 0 0x05d 39 5 57 0 0, .cmpLes 7 (.s 5) (.con 1))] = true := by decide

/-- Words of class 0x2, field by field (03 R61; 05 R106). -/
theorem test_decode_class_2 : reads .m [
    (bits 0 0x080 0 0 0 0 0, .nop),
    (bits 0 0x081 0 63 63 63 61, .br 0xFFFFFD),
    (bits 0 0x082 0 9 0 0 0, .bri (.s 9)),
    (bits 0 0x083 29 0 0 0 11, .call 29 11),
    (bits 0 0x084 0 29 0 0 0, .ret (.s 29)),
    (bits 0 0x085 0 3 0 0 4, .loop (.s 3) 4),
    (bits 0 0x087 0 0 0 0 0, .taskend)] = true := by decide

/-- Words of class 0x3, field by field (03 R61; 05 R117). -/
theorem test_decode_class_3 : reads .c [
    (bits 0 0x0c0 0 5 0 0 0, .trap (.s 5)),
    (bits 0 0x0c1 0 0 0 0 0, .eret),
    (bits 0 0x0c2 6 13 0 0 0, .mfsr (.s 6) 13),
    (bits 0 0x0c3 1 5 0 0 0, .mtsr 1 (.s 5)),
    (bits 0 0x0c3 7 5 0 0 0, .mtsrSrseed (.s 5)),
    (bits 0 0x0c3 27 5 0 0 0, .mtsrBfmt 11 (.s 5)),
    (bits 0 0x0c3 32 5 0 0 0, .mtsrBscl 0 (.s 5)),
    (bits 0 0x0c3 55 5 0 0 0, .mtsrCntsel 7 (.s 5)),
    (bits 0 0x0c4 0 0 0 0 0, .halt),
    (bits 0 0x0c5 0 0 0 0 0, .iclr)] = true := by decide

/-- Words of class 0x4, field by field (03 R61; 05 R120). -/
theorem test_decode_class_4 : reads .v [
    (bits 0 0x100 1 2 3 0 13, .vadd 1 2 3 ⟨.sr, true⟩),
    (bits 0 0x101 1 2 3 0 13, .vsub 1 2 3 ⟨.sr, true⟩),
    (bits 0 0x102 1 2 3 0 13, .vmul 1 2 3 ⟨.sr, true⟩),
    (bits 0 0x103 1 2 3 4 13, .vfma 1 2 3 4 ⟨.sr, true⟩),
    (bits 0 0x104 1 2 3 4 13, .vfms 1 2 3 4 ⟨.sr, true⟩),
    (bits 0 0x105 1 2 3 4 13, .vfnma 1 2 3 4 ⟨.sr, true⟩),
    (bits 0 0x106 1 2 3 0 13, .vmin 1 2 3 ⟨.sr, true⟩),
    (bits 0 0x107 1 2 3 0 13, .vmax 1 2 3 ⟨.sr, true⟩),
    (bits 0 0x108 1 2 0 0 4, .vabs 1 2 ⟨.rna, false⟩),
    (bits 0 0x109 1 2 0 0 8, .vneg 1 2 ⟨.rne, true⟩)] = true := by decide

/-- Words of class 0x5, field by field (03 R61; 05 R120). -/
theorem test_decode_class_5 : reads .v [
    (bits 0 0x140 1 2 3 0 0, .vand 1 2 3),
    (bits 0 0x141 1 2 3 0 0, .vor 1 2 3),
    (bits 0 0x142 1 2 3 0 0, .vxor 1 2 3),
    (bits 0 0x143 1 2 3 0 0, .vshl 1 2 3),
    (bits 0 0x144 1 2 3 0 0, .vshr 1 2 3),
    (bits 0 0x145 1 2 3 0 0, .vsra 1 2 3),
    (bits 0 0x148 1 2 3 0 0, .vcmpEq 1 2 3),
    (bits 0 0x149 1 2 3 0 0, .vcmpNe 1 2 3),
    (bits 0 0x14a 1 2 3 0 0, .vcmpLt 1 2 3),
    (bits 0 0x14b 1 2 3 0 0, .vcmpLts 1 2 3),
    (bits 0 0x14c 1 2 3 0 0, .vcmpLe 1 2 3),
    (bits 0 0x14d 1 2 3 0 0, .vcmpLes 1 2 3),
    (bits 0 0x150 1 2 3 4 0, .vsel 1 2 3 4),
    (bits 0 0x151 1 2 0 0 1, .vcvt 1 2 ⟨.rtz, false⟩),
    (bits 0 0x152 1 2 0 0 5, .vqnt 1 2 .sr),
    (bits 0 0x153 1 2 3 0 2, .vdqnt 1 2 3 ⟨.rup, false⟩)] = true := by decide

/-- Words of class 0x6, field by field (03 R61; 05 R120). -/
theorem test_decode_class_6 : reads .v [
    (bits 0 0x180 1 2 0 0 0, .vrcpe 1 2),
    (bits 0 0x181 1 2 0 0 0, .vrsqe 1 2),
    (bits 0 0x182 1 2 3 0 3, .vrcps 1 2 3 .rdn),
    (bits 0 0x183 1 2 3 0 4, .vrsqs 1 2 3 .rna),
    (bits 0 0x184 1 2 0 0 0, .vexp2e 1 2),
    (bits 0 0x185 1 2 0 0 0, .vlog2e 1 2),
    (bits 0 0x188 1 2 0 0 8, .vsum 1 2 ⟨.rne, true⟩),
    (bits 0 0x189 1 2 3 0 0, .vdot 1 2 3 ⟨.rne, false⟩),
    (bits 0 0x18a 1 2 0 0 0, .vmaxr 1 2),
    (bits 0 0x18b 1 2 0 0 0, .vminr 1 2)] = true := by decide

/-- Words of class 0x7, field by field (03 R61; 05 R120). -/
theorem test_decode_class_7 : reads .v [
    (bits 0 0x1c0 1 50 57 0 0, .viota 1 .k (.con 1)),
    (bits 0 0x1c1 1 9 0 0 0, .vfill 1 (.s 9)),
    (bits 0 0x1c2 1 2 0 0 0, .vcopy 1 2),
    (bits 0 0x1c3 12 13 14 15 5, .vpart 12 13 14 15 5),
    (bits 0 0x1c4 1 2 3 0 0, .vgath 1 2 3),
    (bits 0 0x1c5 1 2 3 0 0, .vscat 1 2 3)] = true := by decide

/-- Words of class 0x8, field by field (03 R61; 06 R149). -/
theorem test_decode_class_8 : reads .m [
    (bits 0 0x200 5 9 0 0 0, .mln 5 (.s 9)),
    (bits 0 0x201 0 1 2 0 0, .mopa 0 (.s 1) (.s 2)),
    (bits 0 0x202 0 0 0 2 0, .mopb 2 (.s 0) (.s 0)),
    (bits 0 0x203 0 3 1 0 0, .macc 3 true),
    (bits 0 0x204 1 2 3 0 0, .mlda true (.s 2) (.s 3)),
    (bits 0 0x205 0 2 3 0 0, .mldb false (.s 2) (.s 3)),
    (bits 0 0x206 0 9 0 0 0, .mgo (.s 9)),
    (bits 0 0x207 0 0 0 0 0, .mwait)] = true := by decide

/-- Words of class 0x9, field by field (03 R61; 06 R149). -/
theorem test_decode_class_9 : reads .m [
    (bits 0 0x240 0 1 2 7 9, .mdrain (.s 1) (.s 2) 3 true ⟨.rtz, true⟩),
    (bits 0 0x241 0 1 5 0 0, .mbya false 1 false 5 ⟨.rne, false⟩),
    (bits 0 0x242 1 2 3 4 5, .mxp (.s 1) (.s 2) (.s 3) (.s 4) (.s 5)),
    (bits 0 0x243 0 6 0 0 0, .msave (.s 6)),
    (bits 0 0x244 0 6 0 0 0, .mrest (.s 6)),
    (bits 0 0x245 3 57 0 0 0, .mstat 3 (.con 1))] = true := by decide

/-- Words of class 0xa, field by field (03 R61; 07 R170). -/
theorem test_decode_class_A : reads .m [
    (bits 0 0x280 0 3 0 0 0, .cset (.s 3)),
    (bits 0 0x281 0 2 0 0 0, .cldc (.s 2)),
    (bits 0 0x282 0 4 0 0 0, .crun (.s 4)),
    (bits 0 0x283 5 6 0 0 0, .cleaf (.s 5) (.s 6)),
    (bits 0 0x284 7 0 0 0 0, .cidx (.s 7)),
    (bits 0 0x285 8 56 0 0 0, .cstatContour 8 (.con 0))] = true := by decide

/-- Words of class 0xb, field by field (03 R61; 11 R223, R225, R232, R236; 03 R65). -/
theorem test_decode_class_B : reads .a [
    (bits 2 0x2c0 0 5 6 3 9, .ldB ⟨.s 5, .s 6, 3, ⟨.keep, 9⟩⟩),
    (bits 2 0x2c1 0 5 6 3 9, .ldH ⟨.s 5, .s 6, 3, ⟨.keep, 9⟩⟩),
    (bits 2 0x2c2 0 5 6 3 9, .ldW ⟨.s 5, .s 6, 3, ⟨.keep, 9⟩⟩),
    (bits 2 0x2c3 0 5 6 3 9, .ldD ⟨.s 5, .s 6, 3, ⟨.keep, 9⟩⟩),
    (bits 2 0x2c4 0 5 6 3 9, .ldsB ⟨.s 5, .s 6, 3, ⟨.keep, 9⟩⟩),
    (bits 2 0x2c5 0 5 6 3 9, .ldsH ⟨.s 5, .s 6, 3, ⟨.keep, 9⟩⟩),
    (bits 2 0x2c6 0 5 6 3 9, .ldsW ⟨.s 5, .s 6, 3, ⟨.keep, 9⟩⟩),
    (bits 2 0x2c8 0 5 6 3 9, .stB ⟨.s 5, .s 6, 3, ⟨.keep, 9⟩⟩),
    (bits 2 0x2c9 0 5 6 3 9, .stH ⟨.s 5, .s 6, 3, ⟨.keep, 9⟩⟩),
    (bits 2 0x2ca 0 5 6 3 9, .stW ⟨.s 5, .s 6, 3, ⟨.keep, 9⟩⟩),
    (bits 2 0x2cb 0 5 6 3 9, .stD ⟨.s 5, .s 6, 3, ⟨.keep, 9⟩⟩),
    (bits 2 0x2cc 0 5 6 3 9, .pf ⟨.s 5, .s 6, 3, ⟨.keep, 9⟩⟩),
    (bits 0 0x2cd 0 0 0 0 0, .qmark),
    (bits 2 0x2d0 1 2 3 4 9, .cpygs (.s 1) (.s 2) (.s 3) (.s 4) ⟨.keep, 9⟩),
    (bits 3 0x2d1 1 2 3 4 15, .cpysg (.s 1) (.s 2) (.s 3) (.s 4) ⟨.nordc, 15⟩),
    (bits 0 0x2d2 0 5 0 0 0, .chainTail (.s 5)),
    (bits 0 0x2d3 6 5 1 0 0, .chainWait 6 (.s 5) true),
    (bits 0 0x2d8 0 0 0 0 0, .fenceSlot),
    (bits 0 0x2d9 0 0 0 0 0, .fenceTile),
    (bits 0 0x2da 0 0 0 0 0, .fenceDie),
    (bits 0 0x2db 0 0 0 0 0, .fencePkg),
    (bits 0 0x2dc 0 0 0 0 0, .fenceSys),
    (bits 0 0x2e0 0 0 0 0 0, .acqSlot),
    (bits 0 0x2e1 0 0 0 0 0, .acqTile),
    (bits 0 0x2e2 0 0 0 0 0, .acqDie),
    (bits 0 0x2e3 0 0 0 0 0, .acqPkg),
    (bits 0 0x2e4 0 0 0 0 0, .acqSys),
    (bits 0 0x2e8 0 0 0 0 0, .relSlot),
    (bits 0 0x2e9 0 0 0 0 0, .relTile),
    (bits 0 0x2ea 0 0 0 0 0, .relDie),
    (bits 0 0x2eb 0 0 0 0 0, .relPkg),
    (bits 0 0x2ec 0 0 0 0 0, .relSys)] = true := by decide

/-- Words of class 0xc, field by field (03 R61; 11 R226; 03 R65). -/
theorem test_decode_class_C : reads .a [
    (bits 1 0x300 0 5 6 1 3, .aadd ⟨.s 5, .s 6, true, ⟨.stream, 3⟩⟩),
    (bits 1 0x301 0 5 6 1 3, .amin ⟨.s 5, .s 6, true, ⟨.stream, 3⟩⟩),
    (bits 1 0x302 0 5 6 1 3, .amins ⟨.s 5, .s 6, true, ⟨.stream, 3⟩⟩),
    (bits 1 0x303 0 5 6 1 3, .amax ⟨.s 5, .s 6, true, ⟨.stream, 3⟩⟩),
    (bits 1 0x304 0 5 6 1 3, .amaxs ⟨.s 5, .s 6, true, ⟨.stream, 3⟩⟩),
    (bits 1 0x305 0 5 6 1 3, .aand ⟨.s 5, .s 6, true, ⟨.stream, 3⟩⟩),
    (bits 1 0x306 0 5 6 1 3, .aor ⟨.s 5, .s 6, true, ⟨.stream, 3⟩⟩),
    (bits 1 0x307 0 5 6 1 3, .axor ⟨.s 5, .s 6, true, ⟨.stream, 3⟩⟩),
    (bits 1 0x308 0 5 6 1 3, .aswp ⟨.s 5, .s 6, true, ⟨.stream, 3⟩⟩),
    (bits 1 0x309 0 5 6 1 3, .acas ⟨.s 5, .s 6, true, ⟨.stream, 3⟩⟩),
    (bits 1 0x30a 0 5 6 0 3, .aaddF32 ⟨.s 5, .s 6, false, ⟨.stream, 3⟩⟩),
    (bits 1 0x30b 0 5 6 0 3, .aaddBf16 ⟨.s 5, .s 6, false, ⟨.stream, 3⟩⟩),
    (bits 1 0x310 0 5 6 1 3, .aaddNr ⟨.s 5, .s 6, true, ⟨.stream, 3⟩⟩),
    (bits 1 0x311 0 5 6 1 3, .aminNr ⟨.s 5, .s 6, true, ⟨.stream, 3⟩⟩),
    (bits 1 0x312 0 5 6 1 3, .aminsNr ⟨.s 5, .s 6, true, ⟨.stream, 3⟩⟩),
    (bits 1 0x313 0 5 6 1 3, .amaxNr ⟨.s 5, .s 6, true, ⟨.stream, 3⟩⟩),
    (bits 1 0x314 0 5 6 1 3, .amaxsNr ⟨.s 5, .s 6, true, ⟨.stream, 3⟩⟩),
    (bits 1 0x315 0 5 6 1 3, .aandNr ⟨.s 5, .s 6, true, ⟨.stream, 3⟩⟩),
    (bits 1 0x316 0 5 6 1 3, .aorNr ⟨.s 5, .s 6, true, ⟨.stream, 3⟩⟩),
    (bits 1 0x317 0 5 6 1 3, .axorNr ⟨.s 5, .s 6, true, ⟨.stream, 3⟩⟩),
    (bits 1 0x318 0 5 6 1 3, .aswpNr ⟨.s 5, .s 6, true, ⟨.stream, 3⟩⟩),
    (bits 1 0x319 0 5 6 1 3, .acasNr ⟨.s 5, .s 6, true, ⟨.stream, 3⟩⟩),
    (bits 1 0x31a 0 5 6 0 3, .aaddF32Nr ⟨.s 5, .s 6, false, ⟨.stream, 3⟩⟩),
    (bits 1 0x31b 0 5 6 0 3, .aaddBf16Nr ⟨.s 5, .s 6, false, ⟨.stream, 3⟩⟩)] = true := by decide

/-- Words of class 0xd, field by field (03 R61; 12 R252, R258, R259; 14 R322). -/
theorem test_decode_class_D : reads .a [
    (bits 0 0x340 4 5 6 0 0, .put (.s 4) (.s 5) (.s 6) ⟨.norm, 0⟩),
    (bits 0 0x341 4 5 6 0 7, .get (.s 4) (.s 5) (.s 6) ⟨.norm, 7⟩),
    (bits 0 0x342 7 3 57 0 0, .arradd 7 (.s 3) (.con 1)),
    (bits 0 0x343 0 3 57 0 0, .arrset (.s 3) (.con 1)),
    (bits 0 0x344 7 3 57 0 0, .arrw 7 (.s 3) (.con 1) false),
    (bits 0 0x345 7 3 4 0 0, .bcbPost 7 (.s 3) (.s 4)),
    (bits 0 0x346 7 3 4 1 0, .bcbWait 7 (.s 3) (.s 4) true),
    (bits 0 0x348 0 3 4 0 0, .ctbl (.s 3) (.s 4)),
    (bits 0 0x349 0 3 0 0 0, .cready (.s 3)),
    (bits 0 0x34a 7 3 4 0 0, .cevw 7 (.s 3) (.s 4)),
    (bits 0 0x34b 0 3 0 0 0, .cabort (.s 3)),
    (bits 0 0x34c 7 3 1 0 0, .cstatColl 7 (.s 3) true)] = true := by decide

/-- Words of class 0xe, field by field (03 R61; 13 R276). -/
theorem test_decode_class_E : reads .v [
    (bits 0 0x380 1 2 0 0 0, .bara 1 (.s 2)),
    (bits 0 0x381 0 2 3 0 0, .barw (.s 2) (.s 3)),
    (bits 0 0x382 1 2 0 0 0, .bars 1 (.s 2)),
    (bits 0 0x383 0 2 3 0 0, .barcfg (.s 2) (.s 3)),
    (bits 0 0x384 0 2 0 0 0, .mlock (.s 2)),
    (bits 0 0x385 1 2 0 0 0, .mtry 1 (.s 2)),
    (bits 0 0x386 0 2 0 0 0, .munlk (.s 2)),
    (bits 0 0x387 0 2 0 0 0, .semp (.s 2)),
    (bits 0 0x388 0 2 3 0 0, .semv (.s 2) (.s 3)),
    (bits 0 0x389 1 2 0 0 0, .semtry 1 (.s 2)),
    (bits 0 0x38a 1 2 3 0 0, .tokcnt 1 2 3),
    (bits 0 0x38b 0 57 0 0 0, .yield (.con 1)),
    (bits 0 0x38c 0 0 0 0 0, .qpt),
    (bits 0 0x38d 0 2 3 0 0, .dsend (.s 2) (.s 3)),
    (bits 0 0x390 1 2 3 20 0, .lrpatch 1 (.s 2) (.s 3) 20),
    (bits 0 0x391 1 2 0 0 0, .lrarm 1 (.s 2))] = true := by decide

/-! ### WellFormed refuses (03 R45 to R51, and the entries' limits) -/

theorem test_wf_lq_only_in_slot_c :
    wellFormed .v Ctl.plain (.add (.s 1) .lq (.s 2)) = false ∧ wellFormed .c Ctl.plain (.add (.s 1) .lq (.s 2)) = true ∧
    wellFormed .c Ctl.plain (.mlock .lq) = false := by decide

theorem test_wf_sq_only_in_slot_c :
    wellFormed .a Ctl.plain (.add .sq (.s 1) (.s 2)) = false ∧ wellFormed .m Ctl.plain (.xmov .sq (.s 2)) = false ∧
    wellFormed .c Ctl.plain (.xmov .sq (.s 2)) = true := by decide

theorem test_wf_slots :
    wellFormed .c Ctl.plain (.vadd 1 2 3 plainMode) = false ∧ wellFormed .v Ctl.plain .mwait = false ∧
    wellFormed .m Ctl.plain .qmark = false ∧ wellFormed .a Ctl.plain .eret = false ∧
    wellFormed .v Ctl.plain .iclr = false := by decide

theorem test_wf_system_registers :
    wellFormed .c Ctl.plain (.mfsr (.s 1) 14) = false ∧ wellFormed .c Ctl.plain (.mfsr (.s 1) 28) = false ∧
    wellFormed .c Ctl.plain (.mfsr (.s 1) 44) = false ∧ wellFormed .c Ctl.plain (.mtsr 15 (.s 1)) = false ∧
    wellFormed .c Ctl.plain (.mtsr 7 (.s 1)) = false ∧ wellFormed .c Ctl.plain (.mtsr 48 (.s 1)) = false ∧
    wellFormed .c Ctl.plain (.mtsr 56 (.s 1)) = true := by decide

theorem test_wf_bit_ranges :
    wellFormed .c Ctl.plain (.extr (.s 1) (.s 2) 1 63) = false ∧ wellFormed .c Ctl.plain (.extr (.s 1) (.s 2) 0 63) = true ∧
    wellFormed .c Ctl.plain (.ins 1 (.s 2) 63 1) = false ∧ wellFormed .c Ctl.plain (.loop (.s 1) 0) = false := by decide

theorem test_wf_operand_rules :
    wellFormed .v Ctl.plain (.vpart 1 2 3 1 0) = false ∧ wellFormed .v Ctl.plain (.vpart 1 2 3 4 4) = true ∧
    wellFormed .m Ctl.plain (.mopa 1 (.s 1) (.s 0)) = false ∧ wellFormed .m Ctl.plain (.mopb 2 (.s 0) (.s 0)) = true ∧
    wellFormed .m Ctl.plain (.mbya false 0 false 4 plainMode) = false ∧
    wellFormed .a Ctl.plain (.aaddF32 ⟨.s 1, .s 2, true, ⟨.norm, 0⟩⟩) = false ∧
    wellFormed .c Ctl.plain (.tokcnt 1 2 2) = false := by decide

theorem test_wf_prefixes :
    wellFormed .c { Ctl.plain with idle := 1 } (.pfxK 0) = false ∧
    wellFormed .v Ctl.plain (.pfxSm ⟨0, 1, 0⟩ ⟨0, 0, 0⟩ ⟨0, 0, 0⟩) = false ∧
    wellFormed .v Ctl.plain (.pfxSm ⟨1, 7, 0⟩ ⟨0, 0, 0⟩ ⟨0, 0, 0⟩) = false ∧
    wellFormed .v Ctl.plain (.pfxSm ⟨1, 3, 8⟩ ⟨0, 0, 0⟩ ⟨0, 0, 0⟩) = false ∧
    wellFormed .v Ctl.plain (.pfxSm ⟨3, 6, 63⟩ ⟨0, 0, 0⟩ ⟨0, 0, 0⟩) = true := by decide

theorem test_wf_events_have_no_word :
    wellFormed .c Ctl.plain (.start 0) = false ∧ wellFormed .a Ctl.plain (.deq 0 false) = false ∧
    wellFormed .a Ctl.plain (.fenceRetire 0) = false := by decide

/-- 03 R51: what the first failing step of a fetched word's checks is. -/
theorem test_decode_refuses :
    (match decode .c (bits 0 0x086 0 0 0 0 0) with | .error .unassigned => true | _ => false) = true ∧
    (match decode .a (bits 0 0x3C0 0 0 0 0 0) with | .error .unassigned => true | _ => false) = true ∧
    (match decode .a (bits 0 0x000 49 1 2 0 0) with | .error .illSlot => true | _ => false) = true ∧
    (match decode .c (bits 0 0x000 32 1 2 0 0) with | .error .badField => true | _ => false) = true ∧
    (match decode .c (bits 1 0x000 1 1 2 0 0) with | .error .badField => true | _ => false) = true := by decide

/-! ### Witnesses

A concrete state and operands that meet all the hypotheses of each statement together, clause by clause. -/

/-! ### Small states -/

/-- The word in hand stands in slot k of tile 0, which f has changed since reset. -/
def word (k : Slot) (f : Tile → Tile) : State := (State.reset.setTile 0 (f Tile.reset)).setCur 0 k Ctl.plain true false false

/-- Registers of slot k set. -/
def regs (k : Slot) (l : List (Fin 32 × W64)) (t : Tile) : Tile := l.foldl (fun t p => t.writeS k p.1 false p.2) t

/-- The values that a word in hand reads. -/
def vals (s : State) (srcs : List Src) : List W64 := (tl s).readSrcs s.cur srcs []

/-- A word that reads no LQ entry and moves no token has its operands, where no check for LATE is asked for. -/
theorem word_ready {s : State} {srcs : List Src} {grds : List (Fin 8)} {outs : List (Out × Nat)}
    (h0 : s.cur.probe = false ∧ s.cur.mayGo = true ∧ s.cur.gather = false ∧ s.cur.ctl.tok = .none := by decide) (h1 : pops srcs = 0 := by decide)
    (h2 : bitAt (tl s).tcfg 0 = false := by decide) : Ready s srcs grds false outs (vals s srcs) := by
  refine ⟨h0.1, h0.2.1, h0.2.2.1, ⟨[], by rw [h1]; rfl, rfl⟩, fun h => ?_, by rw [h0.2.2.2]; rfl, fun h => nomatch h⟩
  exact absurd h (by rw [h2]; decide)

/-- SQ takes a value: the entry that it fills is placed and translated. -/
def storeWaits (t : Tile) : Tile := { t with saq := [0], ents := [⟨0, .store 8, 0, 0, .norm, 1, [], .ok 0, false⟩] }

theorem word_ready_sq {srcs : List Src} {outs : List (Out × Nat)} (h1 : pops srcs = 0 := by decide) :
    Ready (word .c storeWaits) srcs [] true outs (vals (word .c storeWaits) srcs) :=
  ⟨rfl, rfl, rfl, ⟨[], by rw [h1]; rfl, rfl⟩, fun h => absurd h (by decide), rfl, fun _ => by decide⟩

/-! ### Each statement's hypotheses are met -/

theorem witness_ScalarArithmeticResults :
    (∃ v, Ready (word .v (regs .v [(1, 6), (2, 7)])) [.s 1, .s 2] [] (Dst.s 3 == .sq) (dstOut (.s 3) 1) v ∧ a v = 6 ∧ b v = 7) ∧
    (∃ v, Ready (word .c storeWaits) [.s 1, .con 1] [] (Dst.sq == .sq) (dstOut .sq 20) v) :=
  ⟨⟨_, word_ready, by decide⟩, ⟨_, word_ready_sq⟩⟩

theorem witness_ScalarMoveResults :
    (∃ v, Ready (word .c (regs .c [(1, 6)])) [.s 1, .s 2] [7] (Dst.s 31 == .sq) (dstOut (.s 31) 1) v) ∧
    (∃ v, Ready (word .c storeWaits) [.x 7] [] (Dst.sq == .sq) (dstOut .sq 1) v) ∧
    (∃ v, Ready (word .m id) [.s 1] [] false [(.x 7, 1)] v) ∧
    fld 0x0000000444146020 30 10 = 0x011 ∧ bitAt 0x0000000444146020 5 = true :=
  ⟨⟨_, word_ready⟩, ⟨_, word_ready_sq⟩, ⟨_, word_ready⟩, by decide⟩

theorem witness_ScalarLogicResults :
    (∃ v, Ready (word .a (regs .a [(1, 6)])) [.s 0, .s 1] [] (Dst.s 0 == .sq) (dstOut (.s 0) 1) v ∧ a v = 0 ∧ b v = 6) :=
  ⟨_, word_ready, by decide⟩

theorem witness_GuardWordResults :
    (∃ v, Ready (word .m (regs .m [(1, 6)])) [.s 1, .con 2] [] false [(.g 7, 1)] v) ∧
    (∃ v, Ready (word .m id) [] [0, 7] false [(.g 0, 1)] v) := ⟨⟨_, word_ready⟩, ⟨_, word_ready⟩⟩

/-- A tile with one write scheduled for cycle 5, in a cycle of its own. -/
def oneWrite (cyc : Nat) : Tile := { Tile.reset with cyc := cyc, pend := [⟨5, .c, 4, 0, .reg .c 31 false 9⟩] }

theorem witness_ScheduledWriteLands :
    (oneWrite 4).inh = false ∧ (oneWrite 4).pend = [⟨5, .c, 4, 0, .reg .c 31 false 9⟩] ∧ (oneWrite 4).cyc < 5 ∧
    5 ≤ (oneWrite 5).cyc ∧ (oneWrite 5).applyDue.readS .c 31 = 9 ∧ (oneWrite 4).applyDue.readS .c 31 = 0 ∧
    (oneWrite 5).applyDue.readS .a 31 = 0 := by decide

/-- Slot V at 0x8010, the last word of a loop. -/
def inLoop (left : Nat) : Tile := Tile.reset.setSlot .v { SlotSt.reset with pc := 0x8010, loops := [⟨0x8008, 0x8010, left⟩] }

theorem witness_NextWordOfASlot :
    (inLoop 1).inHandler .v = false ∧ (Tile.reset.slot .v).loops = [] ∧
    ((inLoop 2).slot .v).loops = [⟨0x8008, 0x8010, 2⟩] ∧ ((inLoop 2).slot .v).wordPc = 0x8010 ∧
    ((inLoop 2).advance .v .seq).sv.pc = 0x8008 ∧ ((inLoop 1).advance .v .seq).sv.pc = 0x8018 ∧
    (let l : List Loop := [⟨0x8010, 0x8010, 1⟩] ++ ⟨0x8000, 0x8010, 3⟩ :: [⟨0x8000, 0x8100, 2⟩]
     (∀ g ∈ [(⟨0x8010, 0x8010, 1⟩ : Loop)], g.stop = 0x8010 ∧ g.left ≤ 1) ∧
     (((inLoop 2).modSlot .v fun x => { x with loops := l }).advance .v .seq).sv.loops =
       [⟨0x8000, 0x8010, 2⟩, ⟨0x8000, 0x8100, 2⟩] ∧
     (((inLoop 2).modSlot .v fun x => { x with loops := [⟨0x8000, 0x8100, 2⟩] }).advance .v .seq).sv.pc = 0x8018) := by decide

theorem witness_BranchWordsTaken :
    (∃ v, Ready (word .c (regs .c [(1, 0x8000)])) [.s 1] [] false [] v ∧
      MayGoTo (word .c (regs .c [(1, 0x8000)])) ((a v).toNat % 2 ^ 18)) ∧
    (MayGoTo (word .c fun t => { t with inh := true }) 0 ∧
      Ready (word .c fun t => { t with inh := true }) [] [] false [(.s 29, 1)] []) ∧
    MayGoTo (word .v id) 0x3FFF8 :=
  ⟨⟨_, word_ready, by unfold MayGoTo; decide⟩, ⟨by unfold MayGoTo; decide, word_ready⟩, by unfold MayGoTo; decide⟩

theorem word_mayTrap : MayTrap (word .a (regs .a [(1, 0x8001), (2, 0x7FF8)])) := by unfold MayTrap; decide

theorem witness_BranchWordsTrap :
    (∃ v, Ready (word .a (regs .a [(1, 0x8001), (2, 0x7FF8)])) [.s 1] [] false [] v ∧ (a v).toNat % 8 ≠ 0) ∧
    (∃ v, Ready (word .a (regs .a [(1, 0x8001), (2, 0x7FF8)])) [.s 2] [] false [] v ∧ (a v).toNat % 8 = 0 ∧
      (a v).toNat % 2 ^ 18 < 0x8000) ∧
    (let s := word .a (regs .a [(1, 0x8001), (2, 0x7FF8)])
     let rel := (((wordAt s : Int) + 8 * (0xFFF#24).toInt) % 2 ^ 18).toNat
     Ready s [] [] false [] [] ∧ rel % 8 = 0 ∧ rel < 0x8000 ∧ 0 < rel) :=
  ⟨⟨_, word_ready, by decide⟩, ⟨_, word_ready, by decide⟩, word_ready, by decide⟩

theorem witness_LoopTaskendAndPrefixes :
    (let s := word .v (regs .v [(1, 0x100000000), (2, 1)])
     (∃ v, Ready s [.s 1] [] false [] v ∧ (a v).toNat % 2 ^ 32 = 0) ∧
     (∃ v, Ready s [.s 2] [] false [] v ∧ (a v).toNat % 2 ^ 32 ≠ 0) ∧ (tl s).inHandler (slot s) = false ∧
     ((tl s).slot (slot s)).stub = false ∧ wordAt s + 8 * (2 ^ 15 - 1) < 0x40000 ∧
     fld ((tl s).iword (wordAt s + 8 * (2 ^ 15 - 1))) 30 10 ≠ 0x0BE ∧
     fld ((tl s).iword (wordAt s + 8 * (2 ^ 15 - 1))) 30 10 ≠ 0x0BF ∧ ((tl s).slot (slot s)).loops.length < 4 ∧
     ((tl s).slot (slot s)).pre.k = none ∧ ((tl s).slot (slot s)).pre.sm = none) ∧
    (let s := word .c fun t => { t with inh := true }
     Ready s [] [] false [] [] ∧ (tl s).inHandler (slot s) = true) :=
  ⟨⟨⟨_, word_ready, by decide⟩, ⟨_, word_ready, by decide⟩, by decide, by decide, by decide, by decide, by decide, by decide,
    by decide, by decide⟩, ⟨word_ready, by decide⟩⟩

theorem witness_HandlerBankReadsAndWrites :
    (let t : Tile := { Tile.reset with inh := true }
     t.inh = true ∧ (t.writeS .c 24 (t.banked .c 24) 9).readS .c 24 = 9 ∧ (t.writeS .c 23 (t.banked .c 23) 9).sc.s.get 23 = 9 ∧
     (t.writeG .c 4 (t.gbanked .c 4) true).hg.get 0 = true) := by decide

theorem witness_EretReturns :
    (Ready (word .c fun t => { t with inh := true }) [] [] false [] [] ∧
      (tl (word .c fun t => { t with inh := true })).inh = true) ∧
    (Ready (word .c id) [] [] false [] [] ∧ MayTrap (word .c id)) :=
  ⟨⟨word_ready, by decide⟩, ⟨word_ready, by unfold MayTrap; decide⟩⟩

theorem witness_MtsrWordsWriteAtEndOfCycle :
    (let s := word .v (regs .v [(1, 5), (2, 0x22FFFFC), (3, 0xD01), (4, 15)])
     (∃ v, Ready s [.s 1] [] false [] v ∧ fld (a v) 0 4 ≠ 15 ∧ (fld (a v) 0 4 = RAW8 ∨ fld (a v) 0 4 = F32 ∨
       fld (a v) 0 4 = BF16)) ∧
     (∃ v, Ready s [.s 2] [] false [] v ∧ fld (a v) 24 2 ≠ 3 ∧ fld (a v) 0 22 % 4 = 0 ∧ fld (a v) 0 22 < 0x300000) ∧
     (∃ v, Ready s [.s 3] [] false [] v ∧ fld (a v) 8 8 ≤ 13) ∧
     MayTrap s ∧ ∃ v, Ready s [.s 4] [] false [] v ∧ fld (a v) 0 4 = 15) :=
  ⟨⟨_, word_ready, by decide⟩, ⟨_, word_ready, by decide⟩, ⟨_, word_ready, by decide⟩, by unfold MayTrap; decide,
    ⟨_, word_ready, by decide⟩⟩

/-- Slot A of a tile of partition 5, to which a debugger may be attached. -/
def ownedWord (l : List Nat) : State := { word .a fun t => { t with owner := some ⟨5, 0, 1⟩ } with dbg := l }

theorem witness_TrapHaltAndIclr :
    (ownedWord [5]).debugged (tl (ownedWord [5])) = true ∧ (ownedWord []).debugged (tl (ownedWord [])) = false ∧
    MayTrap (word .a id) ∧ (∃ v, Ready (word .a id) [.s 1] [] false [] v) ∧ Ready (word .a id) [] [] false [] [] ∧
    (let t (cyc : Nat) : Tile := { Tile.reset with cyc := cyc, iclrs := [5], istOld := [(0x8000, 9, 6), (0x8008, 9, 7)], oldNow := [(0x8000, 9)] }
     5 ∈ (t 7).iclrs ∧ (t 7).cyc < 5 + 3 ∧ (∀ i ∈ (t 7).iclrs, (t 7).cyc < i + 3) ∧ 5 + 3 ≤ (t 8).cyc ∧
     ((t 8).dropOld.istOld.map (·.1)) = [0x8008] ∧ (t 7).oldNow.find? (fun e => e.1 == 0x8000 % 0x40000) = some (0x8000, 9) ∧
     Tile.reset.oldNow = []) :=
  ⟨by decide, by decide, by unfold MayTrap; decide, ⟨_, word_ready⟩, word_ready, by decide⟩

/-- A region descriptor (05 R100). -/
def rg (base stride count fmt : Nat) (list : Bool := false) : W64 :=
  w64 (base + stride * 2 ^ 24 + count * 2 ^ 40 + fmt * 2 ^ 56 + if list then 2 ^ 60 else 0)

/-- Slot V with regions: 1 to 4 of F32, 5 to 7 of I32, 8 and 9 of I8, 10 of E4M3S, 11 of F32, 12 of one F32 element, 13 an index list,
14 to 17 lists of one bank each. -/
def regions : State := { word .v (regs .v [(1, rg 0x100 1 3 4), (2, rg 0x200 1 3 4), (3, rg 0x300 1 3 4), (4, rg 0x400 1 3 4),
  (5, rg 0x500 1 3 3), (6, rg 0x600 1 3 3), (7, rg 0x700 1 3 3), (8, rg 0x800 1 3 1), (9, rg 0x900 1 3 1),
  (10, rg 0xA00 1 32 11), (11, rg 0xB00 1 32 4), (12, rg 0xC00 1 1 4), (13, rg 0xD00 1 3 3 true),
  (14, rg 0x40000 1 3 3), (15, rg 0x80000 1 3 3), (16, rg 0xC0000 1 3 3), (17, rg 0x100000 1 3 3)]) with full := true }

/-- What Starts asks of a region word of its specification, beside its operands. -/
def mayStart (s : State) (w : VSpec) : Bool :=
  !w.bad && !w.lacking s && (checkRegions w.regs (if w.n = 0 then [] else w.tabs)).isNone && w.more.isNone &&
    !(bitAt (tl s).tcfg 1 && w.early (tl s)) && (w.n == 0 || decide ((tl s).vFree ≤ now s))

theorem witness_ElementwiseWordsStart :
    (let e (op : VOp) (rule : VRule) (real moves : Bool) (d : Fin 32) (l : List (Fin 32)) : Bool :=
       mayStart regions (elemSpec (tl regions) regions.cur op plainMode 3 rule real moves d l) &&
       mayStart regions (elemSpec (tl regions) regions.cur op plainMode 3 rule real moves 0 (l.map fun _ => 0))
     e .add .plain false false 1 [2, 3] && e .fma .plain false false 1 [2, 3, 4] && e .abs .plain false false 1 [2] &&
       e .and .bitwise false true 1 [2, 3] && e .shl .shift false false 5 [6, 7] && e (.cmp .lt) .cmp false false 8 [2, 3] &&
       e .sel .sel false true 1 [8, 2, 3] && e .cvt .plain false false 5 [2] && e .rcpe .plain true false 1 [2] &&
       e .rcps .plain false false 5 [6, 7] &&
       e .copy .copy false true 1 [2]) = true ∧
    (∃ v, Ready regions [.s 1, .s 2, .s 3] [] false [] v) ∧ (∃ v, Ready regions [.s 1, .s 2, .s 3, .s 4] [] false [] v) :=
  ⟨by decide, ⟨_, word_ready⟩, ⟨_, word_ready⟩⟩

theorem witness_OtherRegionWordsStart :
    (let t := tl regions
     let c := regions.cur
     [reduceSpec t c .sum plainMode 10 12 2 none, reduceSpec t c .dot plainMode 12 12 2 (some 3),
       reduceSpec t c .maxr plainMode 8 12 2 none, qntSpec t c 10 11 .rne, dqntSpec t c 11 10 0 plainMode,
       fillSpec t 2 5 (.iota 0 1), fillSpec t 1 5 (.fill 7), partSpec t [14, 15, 16, 17] 8, gathSpec t c 1 2 13,
       scatSpec t c 1 2 13].all (mayStart regions)) = true ∧
    (∃ v, Ready regions [.s 14, .s 15, .s 16, .s 17, .s 8] [] false (partSpec (tl regions) [14, 15, 16, 17] 8).outs v) :=
  ⟨by decide, ⟨_, word_ready⟩⟩

/-- A region word of n elements that issues in cycle 0. -/
def job (n : Nat) : VJob :=
  { op := .add, md := plainMode, dst := ((tl regions).vreg 5).r, srcs := [⟨((tl regions).vreg 6).r, noMod, none⟩,
      ⟨((tl regions).vreg 7).r, noMod, none⟩], iss := 0, pc := 0, lat := 3, ivl := 2, count := n, beat := 0, real := false, wide := false,
    seed := 0, vals := [], ints := [], fl := 0, lists := [] }

theorem witness_RegionWordWritesItsElements :
    (job 0).beat = 0 ∧ (job 64).iss = (tl regions).cyc ∧ (job 64).count ≤ 64 ∧ (job 64).md.rnd ≠ .sr ∧
    ((tl regions).startJob (job 2)).pend.map (·.at_) = [3] := by decide

theorem witness_IntegerElementResults :
    (job 3).srcs = [⟨((tl regions).vreg 6).r, noMod, none⟩, ⟨((tl regions).vreg 7).r, noMod, none⟩] ∧
    (job 3).real = false ∧ (job 3).wide = false ∧ (job 3).dst.fmt = I32 ∧ (job 3).md.ovf = false ∧
    ({ job 3 with md := ⟨.rne, true⟩ } : VJob).md.ovf = true := by decide

/-- An operand of BF16 rows of 96 bytes from a base on (06 R143). -/
def rowsAt (base : Nat) : Dsc := ⟨w64 base, w64 (96 + 5 * 2 ^ 44), 0⟩

/-- Slot M with registers, and with operands in the shadows. -/
def matrixWord : State := word .m fun t => { (regs .m [(1, 48), (2, w64 0x40000), (3, w64 (96 + 5 * 2 ^ 44)), (4, w64 0x80000)] t) with
  eng := { Eng.reset with sadsc := rowsAt 0, sbdsc := rowsAt 0x40000 } }

theorem witness_MatrixSetupWords :
    (∃ v, Ready matrixWord [.s 1, .s 2] [] false [] v) ∧ (∃ v, Ready matrixWord [.s 1] [] false [(.s 31, 2)] v) ∧
    (tl matrixWord).eng.busy = false ∧ (tl matrixWord).shaped = false ∧
    (let s := word .m fun t => { t with eng := { Eng.reset with cmd := some ⟨.other, 0, 0, some 9⟩ } }
     Ready s [] [] false [] [] ∧ (tl s).eng.busy = true) ∧
    (let t : Tile := { Tile.reset with cyc := 5, pend := [⟨5, .m, 4, 0, .shMacc 3 true⟩] }
     t.pend = [⟨5, .m, 4, 0, .shMacc 3 true⟩] ∧ 5 ≤ t.cyc) :=
  ⟨⟨_, word_ready⟩, ⟨_, word_ready⟩, by decide, by decide, ⟨word_ready, by decide⟩, by decide⟩

theorem witness_MgoStartsTheNest :
    (∃ v, Ready matrixWord [.s 1] [] false [] v ∧ (tl matrixWord).eng.busy = false ∧ (tl matrixWord).shaped = false ∧
      (tl matrixWord).nestTrap matrixWord.full ((tl matrixWord).mgoReq (a v)) = none) ∧ matrixWord.shapes = false ∧
    (let s := word .m fun t => { (regs .m [(1, 48)] t) with shaped := true }
     ∃ v, Ready s [.s 1] [] false [] v ∧ (tl s).shaped = true) :=
  ⟨⟨_, word_ready, by decide, by decide, by decide⟩, by decide, _, word_ready, by decide⟩

theorem witness_MatrixMoveWords :
    (∃ v, Ready matrixWord [.s 2, .s 3] [] false [] v ∧ ((tl matrixWord).dscTrap (matrixWord.offers loadFmt) ⟨a v, b v, 0⟩ fun _ => 96) = none ∧
      (tl matrixWord).rowsEarly ((tl matrixWord).geo (tl matrixWord).eng.tags false ⟨a v, b v, 0⟩) 96 = none ∧
      ((tl matrixWord).dscTrap (matrixWord.offers drainFmt) ⟨a v, b v, 0⟩ fun f => 32 * fmtBytes f) = none) ∧
    (tl matrixWord).eng.mode = false ∧ matrixWord.lacks 5 = false ∧ Ready matrixWord [] [] false [] [] ∧
    (∃ v, Ready matrixWord [.s 2, .s 3, .s 2, .s 3, .s 4] [] false [] v ∧ bitAt (tl matrixWord).tcfg 1 = false ∧
      placeTrap (nth v 4) 4 128 = none ∧
      (let g := (tl matrixWord).geo (tl matrixWord).eng.tags false ⟨nth v 2, nth v 3, 0⟩
       (⟨nth v 2, nth v 3, 0⟩ : Dsc).badBits = false ∧ (tl matrixWord).mixedBanks g = false ∧ g.noBank = false ∧
       matrixWord.offers moveFmt g.fmt = true ∧ g.spmapRow (32 * fmtBytes g.fmt) 0 = none ∧ g.alignBad = none)) :=
  ⟨⟨_, word_ready, by decide, by decide, by decide⟩, by decide, by decide, word_ready, ⟨_, word_ready, by decide, by decide, by decide⟩⟩

/-- Slot M with an image at 0: its magic, its version, tags of BF16 (06 R158). -/
def imageWord (eng : Eng) : State := word .m fun t => { t with eng := eng, spad := [(0, 0x31), (1, 0x56), (2, 0x53), (3, 0x4D),
  (4, 1), (248, 5), (249, 5), (250, 5), (251, 5)] }

/-- Slot M with the image at 0 of a nest that was suspended: its descriptors, its go operand and its flag. -/
def suspWord : State := word .m fun t => { t with eng := Eng.reset, spad := [(0, 0x31), (1, 0x56), (2, 0x53), (3, 0x4D), (4, 1), (6, 1),
  (130, 4), (136, 0x60), (141, 0x50), (154, 8), (160, 0x60), (165, 0x50), (240, 48), (248, 5), (249, 5), (250, 5), (251, 5)] }

theorem witness_EngineSaveAndRestore :
    (∃ v, Ready (imageWord { Eng.reset with cmd := some ⟨.mgo, 0, 0, some 9⟩ }) [.s 0] [] false [] v ∧
      (tl (imageWord { Eng.reset with cmd := some ⟨.mgo, 0, 0, some 9⟩ })).eng.save = none ∧ placeTrap (a v) 64 29184 = none) ∧
    (∃ v, Ready (imageWord Eng.reset) [.s 0] [] false [] v ∧ (tl (imageWord Eng.reset)).eng.busy = false ∧
      (tl (imageWord Eng.reset)).shaped = false ∧ placeTrap (a v) 64 29184 = none ∧ bitAt (tl (imageWord Eng.reset)).tcfg 1 = false ∧
      imageBad ((tl (imageWord Eng.reset)).spadImage (a v).toNat) = false ∧
      imageSusp ((tl (imageWord Eng.reset)).spadImage (a v).toNat) = false) ∧
    (let s := suspWord
     ∃ v, Ready s [.s 0] [] false [] v ∧ (tl s).eng.busy = false ∧ (tl s).shaped = false ∧ placeTrap (a v) 64 29184 = none ∧
      bitAt (tl s).tcfg 1 = false ∧ imageBad ((tl s).spadImage (a v).toNat) = false ∧
      imageSusp ((tl s).spadImage (a v).toNat) = true ∧
      (tl s).nestTrap s.full (imageNest ((tl s).spadImage (a v).toNat) (now s + 16)) = none) :=
  ⟨⟨_, word_ready, by decide, by decide⟩,
    ⟨_, word_ready, by decide, by decide, by decide, by decide, by decide +kernel, by decide⟩,
    ⟨_, word_ready, by decide, by decide, by decide, by decide, by decide +kernel, by decide, by decide +kernel⟩⟩

/-- Slot M in Contour mode, of one tree and one sample. -/
def contourWord : State := word .m fun t => { (regs .m [(1, 1), (2, rg 0x1000 1 1 1), (3, rg 0x2000 1 1 4), (4, 0x40000),
  (5, rg 0x3000 1 1 1)] t) with eng := { Eng.reset with mode := true, ccfg := w64 (1 + 2 ^ 14 + 2 ^ 22) } }

theorem witness_ContourWords :
    (∃ v, Ready (word .m (regs .m [(1, 1)])) [.s 1] [] false [] v ∧ (a v) &&& ~~~0x3FF7#64 = 0 ∧ bitAt (a v) 0 = true) ∧
    (∃ v, Ready contourWord [.s 0] [] false [] v ∧ (tl contourWord).cldcTrap (a v) = none ∧
      (tl contourWord).eng.mode = true ∧ (tl contourWord).eng.busy = false ∧ (tl contourWord).shaped = false) ∧
    (∃ v, Ready contourWord [.s 5] [] false [] v ∧ (tl contourWord).crunTrap (a v) = none ∧
      ((tl contourWord).regionOf false (a v)).r.count = 1) ∧
    (∃ v, Ready contourWord [.s 2] [] false [] v ∧ (let g := (tl contourWord).regionOf false (a v)
      regionTrap g (g.r.fmt == I8) ((tl contourWord).eng.ns * (tl contourWord).eng.nt)) = none) ∧
    (∃ v, Ready contourWord [.s 3, .s 4] [] false [] v ∧ (let g := (tl contourWord).regionOf false (a v)
      regionTrap g (g.r.fmt == F32) (tl contourWord).eng.ns) = none ∧ (b v).toNat % 4 = 0 ∧ (b v).toNat < 0x300000 ∧
      (b v).toNat % 0x40000 + 4 * (tl contourWord).eng.lw * (tl contourWord).eng.nt ≤ 0x40000) :=
  ⟨⟨_, word_ready, by decide⟩, ⟨_, word_ready, by decide⟩, ⟨_, word_ready, by decide⟩, ⟨_, word_ready, by decide⟩,
    ⟨_, word_ready, by decide⟩⟩

/-- Slot k of tile 0, which belongs to partition 5 and may use the classes 2 to 7. -/
def owned (k : Slot) (f : Tile → Tile) : State :=
  { word k (fun t => { f t with owner := some ⟨5, 0, 1⟩ }) with
    parts := [(5, { PartE.reset with valid := true, asid := 1, tcmask := 0xFC })] }

theorem witness_LoadsAndStoresPlaceEntries :
    (∃ v, Ready (word .a (regs .a [(1, 7), (2, 1)])) [.s 1, .s 2] [] false [] v ∧ (a v + (b v <<< 0)).toNat % 8 = 0) ∧
    (word .a id).cur.slot = .a ∧ (tl (word .a id)).hasRoom true true true = true := ⟨⟨_, word_ready, by decide⟩, by decide⟩

theorem witness_FarAtomicsPlaceEntries :
    ∃ v, Ready (word .a (regs .a [(1, 4), (2, 4)])) [.s 1, .s 2] [] false [] v ∧ (eaAtom v).toNat % 8 = 0 ∧
      (tl (word .a (regs .a [(1, 4), (2, 4)]))).hasRoom true true true = true := ⟨_, word_ready, by decide⟩

theorem witness_MisalignedAccessesTrap :
    MayTrap (word .a (regs .a [(1, 1)])) ∧ ∃ v, Ready (word .a (regs .a [(1, 1)])) [.s 1, .s 2] [] false [] v ∧
      (eaAtom v).toNat % 2 ≠ 0 := ⟨by unfold MayTrap; decide, _, word_ready, by decide⟩

theorem witness_MarkersAndFencesIssue :
    Ready (word .a id) [] [] false [] [] ∧ (tl (word .a id)).hasRoom true true false = true := ⟨word_ready, by decide⟩

/-- A tile whose FENCE of SYS scope has issued behind access 3. -/
def fenced (led : List Led) : State := State.reset.setTile 255 { Tile.reset with ids := 4, led := led, fence := some ⟨.sys, 0, 3, []⟩ }

theorem witness_FenceRetirement :
    ((fenced []).tile 255).fence = some ⟨.sys, 0, 3, []⟩ ∧ ((fenced []).tile 255).inh = false ∧
    ((fenced []).tile 255).performed 3 .sys = true ∧ ((fenced [⟨2, 4, false, true⟩]).tile 255).performed 3 .sys = false ∧
    ((fenced [⟨3, 0, false, true⟩]).tile 255).performed 3 .sys = true := by decide

theorem witness_ChainWords :
    (let s := word .a (regs .a [(1, w64 (0x100 + 4 * 2 ^ 24)), (2, 0x1000), (3, w64 (64 + 2 * 2 ^ 32)), (4, w64 (64 * 2 ^ 40 + 64)),
       (5, 0x40), (6, w64 (2 ^ 32 - 2 ^ 31 + 1))])
     (tl s).chain.held < 64 ∧
     (∃ v, Ready s [.s 1, .s 2, .s 3, .s 4] [] false [] v ∧ s.lacks (sdMfmt (nth v 0)) = false ∧
       copyTrap false false (nth v 0) (nth v 1) (nth v 2) (nth v 3) = none ∧ copyTrap true false (nth v 0) (nth v 1) (nth v 2) (nth v 3) = none) ∧
     (∃ v, Ready s [.s 5] [] false [] v ∧ (a v).toNat % 64 = 0 ∧ a v ≠ 0) ∧
     (∃ v, Ready s [.s 6] [] false [(.s 1, 1)] v ∧ ((tl s).chain.seq - (a v).setWidth 32).toNat < 2 ^ 31)) :=
  ⟨by decide, ⟨_, word_ready, by decide⟩, ⟨_, word_ready, by decide⟩, ⟨_, word_ready, by decide⟩⟩

theorem witness_PutAndGetEnterTheirQueue :
    (let s := owned .a (regs .a [(1, w64 (2 ^ 34 + 3 * 2 ^ 26)), (2, w64 (0x100 + 0x200 * 2 ^ 32)), (3, w64 (4096 + 2 * 2 ^ 27))])
     (tl s).tmq.length < 64 ∧ ∃ v, Ready s [.s 1, .s 2, .s 3] [] false [] v ∧
       putTrap s.pval (s.tcmask (tl s)) (a v) (b v) (c v) = none) := ⟨by decide, _, word_ready, by decide⟩

theorem witness_CounterWords :
    (let s := word .a (regs .a [(1, 1023), (2, 0xFFFFFFFF), (3, 63), (4, 0x80000001)])
     (∃ v, Ready s [.s 1, .s 2] [] false [(.s 5, 1)] v ∧ (a v).toNat < 1024 ∧ (b v).toNat < 2 ^ 32) ∧
     (∃ v, Ready s [.s 1, .s 4] [] false [(.s 5, 1)] v ∧ (b v).toNat < 2 ^ 32 ∧
       ((tl s).ctr (a v).toNat - (b v).setWidth 32).toNat < 2 ^ 31) ∧
     (∃ v, Ready s [.s 3, .s 4] [] false [(.s 5, 1)] v ∧ (a v).toNat < 64 ∧ (b v).toNat < 2 ^ 32 ∧
       (((tl s).bcb (a v).toNat).round - (b v).setWidth 32).toNat < 2 ^ 31)) :=
  ⟨⟨_, word_ready, by decide⟩, ⟨_, word_ready, by decide⟩, ⟨_, word_ready, by decide⟩⟩

theorem witness_CountersAndBarriersAtEndOfCycle :
    (let t : Tile := { Tile.reset with bcbs := [(1, ⟨5, true, 0, false⟩), (2, ⟨-1, true, 0, false⟩)] }
     (0 : Nat) ≠ 1 ∧ -2 ^ 47 ≤ (t.bcb 1).count - 5 ∧ (t.bcb 1).count - 5 < 2 ^ 47 ∧ (t.bcb 1).armed = true ∧ 0 ≤ (t.bcb 1).count ∧
     (t.bcb 2).count < 0) ∧
    (Slot.c ∉ (⟨4, 7, [.a]⟩ : Barrier).arr ∧ (⟨4, 7, [.a]⟩ : Barrier).arr.length + 1 < 4 ∧
      (⟨1, 7, []⟩ : Barrier).cfg ≤ (⟨1, 7, []⟩ : Barrier).arr.length + 1) := by decide

/-- Entry 7 of tile 0's table, in a state. -/
def collWord (x : CEnt) : State := owned .a fun t => { (regs .a [(1, 7), (2, 255), (3, 0x1000), (4, 7)] t) with
  coll := [(7, x)], spad := [(0x1007, 2)] }

theorem witness_CollectiveWords :
    (let s := collWord { CEnt.reset with state := 1 }
     (∃ v, Ready s [.s 2, .s 3] [] false [] v ∧ (a v).toNat < 256 ∧
       ctblTrap s.pval (s.tcmask (tl s)) (tl s) (a v).toNat (b v) = none) ∧
     (∃ v, Ready s [.s 1] [] false [] v ∧ ((tl s).cent (a v).toNat).state = 1 ∧ ((tl s).cent (a v).toNat).fired = false)) ∧
    (let s := collWord { CEnt.reset with state := 3 }
     ∃ v, Ready s [.s 1, .s 4] [] false [(.s 1, 1)] v ∧ (b v).toNat < 8 ∧ ((tl s).cent (a v).toNat).state = 3) ∧
    (let s := collWord { CEnt.reset with state := 2, srcreu := true, locl := true, allfin := true }
     ∃ v, Ready s [.s 1, .s 4] [] false [(.s 1, 1)] v ∧ (b v).toNat < 8 ∧
       ((tl s).cent (a v).toNat).events &&& (b v).toNat = (b v).toNat) :=
  ⟨⟨⟨_, word_ready, by decide, by decide +kernel⟩, ⟨_, word_ready, by decide⟩⟩, ⟨_, word_ready, by decide⟩, ⟨_, word_ready, by decide⟩⟩

theorem witness_CollectiveWords_stops :
    (let s := collWord CEnt.reset
     MayTrap s ∧ (∃ v, Ready s [.s 1] [] false [] v ∧ (a v).toNat < 256 ∧ ((tl s).cent (a v).toNat).state = 0) ∧
       ∃ v, Ready s [.s 1, .s 3] [] false [] v ∧ 8 ≤ (b v).toNat) ∧
    (let s := collWord { CEnt.reset with state := 1, fired := true }
     MayTrap s ∧ (∃ v, Ready s [.s 1] [] false [] v ∧ ((tl s).cent (a v).toNat).state = 1 ∧
       ((tl s).cent (a v).toNat).fired = true) ∧
       ∃ v, Ready s [.s 1, .s 4] [] false [(.s 1, 1)] v ∧ (b v).toNat < 8 ∧
         ((tl s).cent (a v).toNat).events &&& (b v).toNat ≠ (b v).toNat ∧ ((tl s).cent (a v).toNat).abrx = false) ∧
    (let x : Tm := ⟨0, 0, false, 0, 0, 0, 0, [], false, false, false, none⟩
     let s := word .a fun t => { (regs .a [(1, 7)] t) with coll := [(7, { CEnt.reset with state := 1 })], tmq := List.replicate 64 x }
     64 ≤ (tl s).tmq.length ∧ ∃ v, Ready s [.s 1] [] false [] v ∧ ((tl s).cent (a v).toNat).state = 1 ∧
       ((tl s).cent (a v).toNat).fired = false) ∧
    (let x := { CEnt.reset with img := (List.replicate 128 (0 : Byte)).set 4 8 |>.set 12 1 }
     x.npeer = 8 ∧ x.nwords = 1) :=
  ⟨⟨by unfold MayTrap; decide, ⟨_, word_ready, by decide⟩, ⟨_, word_ready, by decide⟩⟩,
    ⟨by unfold MayTrap; decide, ⟨_, word_ready, by decide⟩, ⟨_, word_ready, by decide⟩⟩,
    ⟨by decide, ⟨_, word_ready, by decide⟩⟩, by decide⟩

theorem witness_BarrierWords :
    (let s := word .v fun t => { (regs .v [(1, 255), (2, 4), (3, 6)] t).modSlot .v (fun x => { x with joined := true, mark := 6 }) with
       bars := [(255, ⟨4, 7, []⟩)] }
     (∃ v, Ready s [.s 1] [] false [(.s 5, 1)] v ∧ (a v).toNat < 256 ∧ ((tl s).slot (slot s)).joined = true ∧
       ((tl s).slot (slot s)).mark ≠ ((tl s).bar (a v).toNat).phase.toNat) ∧
     (∃ v, Ready s [.s 1, .s 3] [] false [] v ∧ 1 ≤ (((tl s).bar (a v).toNat).phase - (b v).setWidth 16).toNat ∧
       (((tl s).bar (a v).toNat).phase - (b v).setWidth 16).toNat < 2 ^ 15) ∧
     (∃ v, Ready s [.s 1, .s 2] [] false [] v ∧ 1 ≤ (b v).toNat ∧ (b v).toNat ≤ 4)) ∧
    (let s := word .v (regs .v [(1, 255)])
     ∃ v, Ready s [.s 1] [] false [(.s 5, 1)] v ∧ ((tl s).slot (slot s)).joined = false ∧
       slot s ∉ ((tl s).bar (a v).toNat).arr) :=
  ⟨⟨⟨_, word_ready, by decide⟩, ⟨_, word_ready, by decide⟩, ⟨_, word_ready, by decide⟩⟩, ⟨_, word_ready, by decide⟩⟩

theorem witness_MutexAndSemaphoreWords :
    (let s := word .m fun t => { (regs .m [(1, 15), (2, 0xFFFFFFFF), (3, 14)] t) with
       muts := [(14, ⟨some .m, []⟩)], sems := [(15, ⟨1, []⟩)] }
     ((tl s).slot (slot s)).joined = false ∧
     (∃ v, Ready s [.s 1] [] false [] v ∧ (a v).toNat < 16 ∧ ((tl s).mut_ (a v).toNat).owner = none ∧
       ((tl s).mut_ (a v).toNat).waiters = [] ∧ ((tl s).sem (a v).toNat).waiters = [] ∧ ((tl s).sem (a v).toNat).count ≠ 0) ∧
     (∃ v, Ready s [.s 3] [] false [] v ∧ (a v).toNat < 16 ∧ ((tl s).mut_ (a v).toNat).owner = some (slot s)) ∧
     (∃ v, Ready s [.s 1, .s 2] [] false [] v ∧ (b v).toNat < 2 ^ 32) ∧ Ready s [] [] false (dstOut (.s 5) 1) []) :=
  ⟨by decide, ⟨_, word_ready, by decide⟩, ⟨_, word_ready, by decide⟩, ⟨_, word_ready, by decide⟩, word_ready⟩

theorem witness_YieldQptDsend :
    (∃ v, Ready (word .c (regs .c [(1, 1)])) [.s 1] [] false [] v ∧ (a v).toNat ≤ 1) ∧
    Ready (word .c id) [] [] false [] [] ∧
    (let s := word .m fun t => t.modSlot .m fun x => { x with stub := true }
     ∃ v l, Ready s [.s 1, .s 2] [] false [] v ∧ ((tl s).slot (slot s)).stub = true ∧
       dsendArgs (tl s) (slot s) (a v) (b v) = some l ∧ bitAt (tl s).tcfg 1 = false ∧ (tl s).eng.busy = false) :=
  ⟨⟨_, word_ready, by decide⟩, word_ready, ⟨_, ([], none), word_ready, by decide⟩⟩

theorem witness_RecordWordsAnswered :
    (let s := word .v fun t => (regs .v [(1, 0xFFFF)] t).modSlot .v fun x => { x with joined := true, mark := 0 }
     ∃ v, Ready s [.s 1, .s 2] [] false [(.s 5, 1)] v ∧ (a v).toNat < 2 ^ 16 ∧ ((tl s).slot (slot s)).joined = true ∧
       ((tl s).slot (slot s)).mark ≤ 65552 + (tl s).cyc) ∧
    (let s := word .v fun t => (regs .v [(1, 0xFFFF)] t).modSlot .v fun x => { x with joined := true, mark := 65553 }
     ∃ v, Ready s [.s 1] [] false [(.s 5, 1)] v ∧ (a v).toNat < 2 ^ 16 ∧ ((tl s).slot (slot s)).joined = true ∧
       65552 + (tl s).cyc < ((tl s).slot (slot s)).mark) ∧
    (let s := word .v (regs .v [(1, 0xFFFF)])
     (∃ v, Ready s [.s 1, .s 2] [] false [(.s 5, 1)] v ∧ (a v).toNat < 2 ^ 16 ∧ ((tl s).slot (slot s)).joined = false) ∧
     ∃ v, Ready s [.s 1] [] false [(.s 5, 1)] v ∧ (a v).toNat < 2 ^ 16 ∧ (tl s).performed (tl s).ids .pkg = true) ∧
    (let s := word .v fun t => { (regs .v [(1, 0xFFFF)] t) with ids := 4, led := [⟨2, 3, false, true⟩] }
     ∃ v, Ready s [.s 1] [] false [(.s 5, 1)] v ∧ (a v).toNat < 2 ^ 16 ∧ (tl s).performed (tl s).ids .pkg = false) :=
  ⟨⟨_, word_ready, by decide⟩, ⟨_, word_ready, by decide⟩, ⟨⟨_, word_ready, by decide⟩, ⟨_, word_ready, by decide⟩⟩,
    ⟨_, word_ready, by decide⟩⟩

/-- A load and a store of 8 bytes at an address, with an alias class. -/
def ldAt (id cls va : Nat) : QEnt := ⟨id, .load 8 false, w64 va, cls, .norm, 0, [], .ok va, false⟩
def stAt (id cls va : Nat) : QEnt := ⟨id, .store 8, w64 va, cls, .norm, 1, [9], .ok va, false⟩

/-- Tile 255 with entries in its queues. -/
def queued (la sa : List QEnt) : Tile :=
  { Tile.reset with ents := la ++ sa, laq := la.map (·.id), saq := sa.map (·.id), ids := 9 }

theorem witness_QueueFrontsLeave :
    (let q : QEnt := ⟨1, .mark .qmark, 0, 0, .norm, 0, [], .pending, false⟩
     ({ queued [q] [] with saq := [1] } : Tile).markLeaves q = true) ∧
    ((queued [ldAt 2 1 0x104] [stAt 1 2 0x100]).laq.filterMap (queued [ldAt 2 1 0x104] [stAt 1 2 0x100]).ent = [ldAt 2 1 0x104] ∧
      (queued [ldAt 2 1 0x104] [stAt 1 2 0x100]).mayDeq (ldAt 2 1 0x104) = true ∧
      overlaps (stAt 1 2 0x100) (ldAt 2 1 0x104) = true) ∧
    (queued [ldAt 2 1 0x104] [stAt 1 0 0x100]).mayDeq (ldAt 2 1 0x104) = false ∧
    (queued [ldAt 2 1 0x108] [stAt 1 0 0x100]).mayDeq (ldAt 2 1 0x108) = true ∧
    (queued [ldAt 1 1 0x104] [stAt 2 2 0x100]).mayDeq (stAt 2 2 0x100) = true ∧
    (queued [{ ldAt 2 1 0x104 with kind := .pf }] []).mayDeq { ldAt 2 1 0x104 with kind := .pf } = true := by decide

/-- A leaf that maps 64 KiB at an address, with its flags. -/
def page (va flags : Nat) : TlbE := ⟨1, va, 0x10000, w64 (va + flags)⟩

/-- Tile 255 of partition 5, whose ASID is 1, with a load waiting to be translated. -/
def untranslated (va : Nat) (k : QKind) : State :=
  { State.reset.setTile 255 { queued [{ ldAt 0 0 va with kind := k, tr := .pending }] [] with
      owner := some ⟨5, 0, 1⟩, tlb := [page 0x10000 0x27, page 0x20000 0x23] } with
    parts := [(5, { PartE.reset with valid := true, asid := 1, ext := [(0, 0x20000)] })]
    dmem := [(0, 1), (2, 0x10), (0x100000, 3)]
    dies := [(3, { DieSt.reset with walks := [⟨255, 1, 0x1234, true⟩, ⟨255, 1, 0x100000000, true⟩] })] }

theorem witness_TranslationAndReturn :
    (let s := untranslated 0x1FFF8 (.load 8 false)
     ((s.tile 255).laq[0]?).bind (s.tile 255).ent = some { ldAt 0 0 0x1FFF8 with tr := .pending } ∧
     tlbFind (s.tile 255).tlb (s.asidOf (s.tile 255)) 0x1FFF8 = some (page 0x10000 0x27) ∧
     permit .read (page 0x10000 0x27) 0x1FFF8 = .inl 0x1FFF8 ∧ permit .write (page 0x20000 0x23) 0x20000 = .inr 2) ∧
    (let at_ (x : TlbE) : Nat := fld x.leaf 12 40 * 4096 + 0xFFFF % x.size
     at_ (page 0x10000 0x27) < hostBase ∧ bitAt (page 0x10000 0x27).leaf 3 = false ∧ bitAt (page 0x10000 0x27).leaf 2 = true ∧
     permit .atomic (page 0x10000 0x27) 0x1FFFF = .inr 2 ∧ permit .atomic (page 0x10000 0x2B) 0x1FFFF = .inr 2 ∧
     permit .atomic (page 0x10000 0x2F) 0x1FFFF = .inl 0x1FFFF ∧ permit .write (page 0x10000 0x27) 0x1FFFF = .inl 0x1FFFF) ∧
    fld (w64 (2 ^ 56)) 56 8 ≠ 0 ∧ bitAt (page 0 0x10).leaf 4 = true ∧
    (let s := untranslated 0 .pf
     ((s.die 3).walks.find? fun w => w.asid == 1 && w.va / 65536 == 0x1000 / 65536) = some ⟨255, 1, 0x1234, true⟩ ∧
     s.walk 1 0x1234 = .leaf ⟨1, 0, 0x100000000, 3⟩ ∧ s.walk 1 0x100000000 = .fault 1 none) ∧
    (bitAt (⟨1, 0, 0x100000000, 3⟩ : TlbE).leaf 5 = false ∧ bitAt (page 0x10000 0x27).leaf 5 = true ∧
     bitAt (page 0x10000 0x27).leaf 4 = false ∧ (page 0x10000 0x27).range.1 < hostBase ∧ page 0x10000 0x27 ∉ State.reset.mig) ∧
    (let t : Tile := { Tile.reset with lq := [⟨0, 0, 8, false, .waiting⟩], back := [(0, .val [1])] }
     (t.lq.find? fun e => e.val == .waiting) = some ⟨0, 0, 8, false, .waiting⟩ ∧ (t.back.find? fun b => b.1 == 0) = some (0, .val [1])) := by
  decide

/-- A packet for an end of party dstP. -/
def pkt (body : Body) (dstP dstE : Nat) : Pkt := ⟨0, body, dstP, dstE⟩
def acc (pa : Nat) (op : AccOp) : Acc := ⟨0, 255, pa, op, .norm, .entry 0, w64 pa⟩

/-- Packets on their way: on the mesh of die 3, at its port, between it and CD, and held by CD. -/
def moving (body : Body) : State := { State.reset with
  paths := [(pathKey 3 63 80, [pkt body 0 80]), (pathKey 3 63 64, [pkt body 4 64])]
  parties := [(0, { Party.reset with hold := [⟨4, 0, List.replicate 6 0, none, 0, pkt body 0 80⟩], reps := [⟨4, 1, 1⟩] }),
    (4, { Party.reset with out := [(63, [pkt body 0 80])] })]
  links := [(24, [⟨4, 0, List.replicate 6 0, none, 0, pkt body 0 80⟩])]
  dies := [(3, { DieSt.reset with rdc := [(0, List.replicate 128 0)] })] }

theorem witness_PacketMoves :
    (let s := moving (.req (acc 0 (.read 8)))
     tget s.paths [] (pathKey 3 63 80) = [pkt (.req (acc 0 (.read 8))) 0 80] ∧ (acc 0 (.read 8)).cached = true ∧
     (s.die 3).copyOf (lineOf 0) = some (List.replicate 128 0) ∧
     tget (s.party 4).out [] 63 = [pkt (.req (acc 0 (.read 8))) 0 80] ∧ bitAt s.clkmask 0 = false ∧
     s.maySend 4 0 (pkt (.req (acc 0 (.read 8))) 0 80) = true ∧
     ({ s with survey := some 0 } : State).maySend 4 0 (pkt (.req (acc 0 (.read 8))) 0 80) = false ∧
     tget s.links [] 24 = [⟨4, 0, List.replicate 6 0, none, 0, pkt (.req (acc 0 (.read 8))) 0 80⟩] ∧
     (s.party 0).ready s.clkmask ⟨4, 0, List.replicate 6 0, none, 0, pkt (.req (acc 0 (.read 8))) 0 80⟩ = true ∧
     (s.party 0).ready s.clkmask ⟨4, 0, [0, 0, 0, 0, 1, 0], none, 0, pkt (.req (acc 0 (.read 8))) 0 80⟩ = false ∧
     (s.party 0).ready s.clkmask ⟨4, 0, [0, 0, 1, 0, 0, 0], none, 0, pkt (.req (acc 0 (.read 8))) 0 80⟩ = false ∧
     (s.party 0).reps[0]? = some ⟨4, 1, 1⟩) ∧
    (let p := { Party.reset with dlv := vset (Vector.replicate 6 0) 4 16 }
     16 ≤ (vget p.dlv 4 - vget p.told 4).toNat ∧ (vget p.dlv 3 - vget p.told 3).toNat < 16) := by decide

/-- Die 3's home with a far access to one line, a near one behind it, and host accesses at CD. -/
def atHome (a b : Acc) : State := { State.reset with
  homes := [(3, [pkt (.req a) 4 64, pkt (.req b) 4 64])], dmem := [(0x180000080, 7)], hmem := [(0, 7)]
  pcie := [(0, pkt (.req { a with pa := hostBase }) 0 80), (0, pkt (.req { b with pa := hostBase }) 0 80)] }

theorem witness_HomesAndHostAccesses :
    (let s := atHome (acc 0x180000080 (.write [1])) (acc 0x1800000FF (.read 1))
     Memory.wf s.dmem = true ∧ Memory.wf s.hmem = true ∧
     (tget s.homes [] 3)[0]? = some (pkt (.req (acc 0x180000080 (.write [1]))) 4 64) ∧
     lineOf (acc 0x180000080 (.write [1])).pa = lineOf (acc 0x1800000FF (.read 1)).pa ∧ 0x180000080 + 1 ≤ hostBase) ∧
    (let s := atHome (acc 0x180000080 (.atom 0 true [1])) (acc 0x180000100 (.read 8))
     (s.touchL2 3 (acc 0x180000080 (.atom 0 true [1]))).poisoned 0x180000080 8 = false ∧ lineOf (acc 0x180000080 (.read 1)).pa ≠ lineOf (acc 0x180000100 (.read 8)).pa ∧
     0x180000080 + 8 ≤ hostBase ∧ (({ s with poison := [0xC000004] } : State).touchL2 3 (acc 0x180000080 (.read 8))).poisoned 0x180000080 8 = true ∧
     (s.die 3).l2 = []) ∧
    (inJournal 0 8 = false ∧ inJournal keptRange.1 1 = true ∧ keptRange.1 < hostBase) ∧
    (backed 0 = true ∧ backed 7 = true ∧ (State.reset.party 0).viral = false) ∧
    (let s := atHome (acc 0 (.read 8)) (acc 8 (.write [1]))
     s.pcie[0]? = some (0, pkt (.req { acc 0 (.read 8) with pa := hostBase }) 0 80) ∧
     s.pcie[1]? = some (0, pkt (.req { acc 8 (.write [1]) with pa := hostBase }) 0 80)) := by decide +kernel

/-- A copy command of one row of 64 bytes between scratchpad address 0x100 and global address 0x1000. -/
def copyOf (toMem : Bool) : CopyCmd :=
  ⟨7, 2, toMem, w64 0x100, w64 0x1000, w64 (64 + 2 ^ 32), 0, .norm, 0, Vector.replicate 12 0, 0, false, true, [], [], [], [], [], [], []⟩

/-- Tile 255 with a copy chain. -/
def chained (c : Chain) : Tile := { Tile.reset with owner := some ⟨5, 0, 1⟩, tlb := [page 0x10000 0x27], chain := c }

theorem witness_CopyEngineMoves :
    (let e : ChainEnt := ⟨0, true, .cmd true 0 0 0 0 .norm⟩
     let t := chained { Chain.reset with win := [e] }
     t.chain.win = [e] ∧ e.pub = true ∧ t.chainBegins = true ∧ t.chain.walk = none ∧ t.marksPass e.id false = true ∧
     t.storesDone e.id = true) ∧
    (let w : Walk := ⟨0, w64 0x10040, false⟩
     let s := { State.reset.setTile 255 (chained { Chain.reset with walk := some w }) with
       parts := [(5, { PartE.reset with valid := true, asid := 1 })] }
     let t := s.tile 255
     t.chain.walk = some w ∧ t.chainBegins = true ∧ fld w.addr 56 8 = 0 ∧
     tlbFind t.tlb (s.asidOf t) w.addr.toNat = some (page 0x10000 0x27) ∧
     permit .read (page 0x10000 0x27) w.addr.toNat = .inl 0x10040) ∧
    permit .read (page 0x10000 0x37) 0x10040 = .inr 3 ∧
    (let a : Acc := ⟨0, 255, 0, .read 64, .norm, .chain, 0⟩
     let p : Nat × Pkt := (80, ⟨0, .resp a (.val (List.replicate 64 0)) none, 4, 63⟩)
     let t := { chained { Chain.reset with walk := some ⟨0, 0, true⟩ } with inbox := [p] }
     t.chainBegins = true ∧ t.inbox = [p] ∧ p.2.body = .resp a (.val (List.replicate 64 0)) none ∧ a.who = .chain) ∧
    (let c := copyOf true
     let t := chained { Chain.reset with act := [c] }
     (t.chain.act.find? fun y => y.seq == c.seq) = some c ∧ t.chainRuns = true ∧ c.halt = false ∧ c.open_ = true ∧
     c.sector false 1 = some (0, 32, 64) ∧ c.asked.contains 1 = false ∧ t.pendingAt ((c.sRow 0 + 32) / 32 * 32) 32 = false) ∧
    (let c := { copyOf false with got := [(0, List.replicate 32 5)] }
     let t := chained { Chain.reset with act := [c] }
     c.sector true 0 = some (0, 0, 32) ∧ c.wrote.contains 0 = false ∧ c.make [] 0 0 32 = some (List.replicate 32 5) ∧ t.chainRuns = true) ∧
    (let c := { copyOf true with wrote := [0, 1], sent := [0, 1], done := [0, 1] }
     c.finished = true ∧ (chained { Chain.reset with act := [c] }).released c = true ∧ (copyOf true).finished = false) := by decide

/-- A command of 64 bytes in a tensor-move queue, and a packet of a kind in an inbox. -/
def tmOf (lvl : Nat) : Tm := ⟨3, 0, false, w64 (2 ^ 34), w64 (0x100 + 0x200 * 2 ^ 32), 64, lvl, [], false, false, false, none⟩
def netOf (kind : Nat) : Net := { Net.reset with kind := kind, ptag := 9 }
def received (x : Net) : Tile :=
  { Tile.reset with task := some ⟨0, 5, 0, 0, 8, 0⟩, inbox := [(80, ⟨0, .net x, 4, 63⟩)], tmq := [{ tmOf 1 with sent := true }] }
def partOfTag (tag : Nat) (t : Tile) : State :=
  { State.reset.setTile 255 t with parts := [(5, { PartE.reset with valid := true, asid := 1, ptag := tag, tcmask := 0xFF })] }

theorem witness_PutAndGetMoves :
    (let c := tmOf 0
     let t : Tile := { Tile.reset with tmq := [c] }
     t.tmHead = some c ∧ c.coll = none ∧ t.tmBegins c = true ∧ (c.acq && scopeInval c.scope && !c.inv) = false ∧ c.get = false ∧
     c.len = 64 ∧ t.pendingAt ((c.laddr + c.got) / 32 * 32) 32 = false ∧
     (({ c with data := [(0x100, List.replicate 32 0)] } : Tm).got ≠ c.len)) ∧
    (let c := tmOf 2
     let t : Tile := { Tile.reset with tmq := [c] }
     t.tmHead = some c ∧ c.coll = none ∧ c.lvl ≠ 0) ∧
    (let s := partOfTag 9 (received (netOf 0))
     (s.tile 255).arrived 0 0 = some (80, ⟨0, .net (netOf 0), 4, 63⟩, netOf 0) ∧ s.acceptCode 255 (netOf 0) 0 0 = 0) ∧
    (partOfTag 8 (received (netOf 0))).acceptCode 255 (netOf 0) 0 0 = 1 ∧
    (let x := { netOf 1 with saddr := 0x10, glen := 16 }
     let s := partOfTag 9 (received x)
     (s.tile 255).arrived 1 0 = some (80, ⟨0, .net x, 4, 63⟩, x) ∧ x.data = [] ∧ x.saddr % 32 + x.glen ≤ 32 ∧
     0 < x.glen ∧ (s.tile 255).pendingAt (x.saddr / 32 * 32) 32 = false ∧
     s.acceptCode 255 x x.saddr x.glen = 0 ∧ s.acceptCode 255 { x with glen := 0 } x.saddr 0 = 0 ∧
     (partOfTag 8 (received x)).acceptCode 255 x x.saddr x.glen = 1) ∧
    (let x := { netOf 2 with cmd := 3 }
     (received x).arrived 2 0 = some (80, ⟨0, .net x, 4, 63⟩, x) ∧ (received x).tm x.cmd = some { tmOf 1 with sent := true }) ∧
    (received (netOf 10)).arrived 10 0 = some (80, ⟨0, .net (netOf 10), 4, 63⟩, netOf 10) ∧ (netOf 10).spkg = State.reset.own ∧
    (let w : Async := ⟨1, 0, .spad 0 [1], .nothing⟩
     let t : Tile := { Tile.reset with async := [w] }
     t.async[0]? = some w ∧ t.comm ≤ w.prec + 1 ∧ inLane (t.async.take 0) w = true ∧ State.reset.servedRel 255 w = true ∧
     ({ t with comm := 4 } : Tile).comm > w.prec + 1) ∧
    (let s := { State.reset with fab := { Fab.reset with reqs := [⟨4, { Net.reset with dpkg := 512 }⟩], held := [513] } }
     s.fab.held.contains 512 = false ∧ s.fab.held.contains 513 = true) := by decide

/-- A port that is up with a flit on its eight lanes, and the flit read from them. -/
def wired (f : Flit) : Port := { Port.reset with up := true, act := 0xFF, inp := [stripe 0xFF f.bytes] }
def readBack (f : Flit) : Flit := (stripe 0xFF f.bytes).flit 0xFF

theorem witness_LinkMoves :
    (let f := readBack ⟨1, 0, 0, true, true, [], true⟩
     f.good = true ∧ sequenced f.type = true ∧ f.seq = Port.reset.exp) ∧
    ((stripe 0xFF [1]).flit 0xFF).good = false ∧
    (let f := readBack ⟨1, 4095, 0, true, true, [], true⟩
     f.good = true ∧ f.seq ≠ 0 ∧ 2048 ≤ (f.seq - 0).toNat) ∧
    (let f := readBack ⟨1, 2047, 0, true, true, [], true⟩
     f.good = true ∧ f.seq ≠ 0 ∧ (f.seq - 0).toNat < 2048) ∧
    Port.reset.owed.toList.all (· == 0) = true ∧
    (let f := readBack ⟨tyAckf, 0, 0, true, false, [], true⟩
     f.good = true ∧ f.type = tyAckf) ∧
    (let f := readBack ⟨8, 0, 0, true, false, [], true⟩
     f.good = true ∧ 8 ≤ f.type) ∧
    (let f := readBack ⟨tyRetry, 0, 0, true, false, [], true⟩
     f.good = true ∧ f.type = tyRetry) ∧
    0 < lanes 0xDF ∧ (List.replicate 72 (0 : Byte)).length = 72 := by decide +kernel

theorem witness_LinkMoves_reshape :
    (let f := (wholeOn 0xFE (⟨tyRshreq, 0, 0, true, false, [0xFE, 1], true⟩ : Flit).bytes).flit 0xFF
     let x : Port := { Port.reset with up := true, act := 0xFF }
     f.good = true ∧ f.type = tyRshreq ∧ x.older (f.pay.getD 1 0).toNat = false ∧ x.ans = none ∧
     4 ≤ lanes (f.pay.getD 0 0 &&& x.ini.getD x.act)) ∧
    (let f := (wholeOn 0x0F (⟨tyRshack, 0, 0, true, false, [0x0F, 1], true⟩ : Flit).bytes).flit 0xFF
     let x : Port := { Port.reset with up := true, act := 0xFF, ini := some 0x1F, epoch := 1 }
     f.good = true ∧ f.type = tyRshack ∧ x.ini = some 0x1F ∧ (f.pay.getD 1 0).toNat = x.epoch ∧ 4 ≤ lanes (f.pay.getD 0 0) ∧
     f.pay.getD 0 0 &&& 0x1F = f.pay.getD 0 0 ∧ f.pay.getD 0 0 &&& 0x17 ≠ f.pay.getD 0 0) ∧
    (let x := wired ⟨1, 0, 0, true, true, [], true⟩
     x.up = true ∧ x.ini = none ∧ x.act.getLsbD 7 = true ∧ 4 ≤ lanes (x.act &&& ~~~(1#8 <<< 7)) ∧
     lanes (0x0F#8 &&& ~~~(1#8 <<< 3)) < 4) ∧
    ({ State.reset with fab := { Fab.reset with topo := [(575, 512)] } } : State).peerOf 575 = some 512 := by decide +kernel

/-- Package 0 of a topology of two groups, with a packet at RD. -/
def routing (x : Net) : State := { State.reset with
  fab := { Fab.reset with topo := [(383, 512), (512 * 1024 + 383, 0)], rdq := [x], trees := [(1, [(383, 512), (512 * 1024 + 383, 0)])]
                          alive := [1], reqs := [⟨4, { Net.reset with dpkg := 512 }⟩] }
  ports := [(383, { Port.reset with up := true, act := 0xFF, room := Vector.replicate 24 8 })] }

theorem witness_RoutingMoves :
    (let x := { Net.reset with dpkg := 512 }
     let s := routing x
     s.fab.rdq[0]? = some x ∧ s.peerOf 383 = some 512 ∧ s.cutOff = false ∧ x.vc ≠ 2 ∧ x.igrp = none ∧
     s.minimal 512 x.dpkg = true ∧ s.carries x 383 = true ∧ s.carries x 575 = false ∧
     (s.port 383).takes { x with vc := 0 } = true ∧ (s.port 383).takes { x with vc := 1 } = true ∧
     (s.port 383).takes (s.livenessNet 512) = true ∧ isGlobal 383 = true ∧
     s.fab.trees.getLast? = some (1, [(383, 512), (512 * 1024 + 383, 0)])) ∧
    (let x := { Net.reset with dpkg := 512, vc := 2, tree := 1 }
     let s := routing x
     ({ s with ports := [] } : State).port 383 = Port.reset ∧ x.vc = 2 ∧ s.carries x 383 = true ∧
     (s.fab.trees.find? fun t => t.1 == x.tree) = some (1, [(383, 512), (512 * 1024 + 383, 0)]) ∧
     escapeHop [(383, 512), (512 * 1024 + 383, 0)] s.own 512 x.dpkg x.down = some true ∧ s.holdsBack x = false ∧
     ([(383, 512), (512 * 1024 + 383, 0)].find? fun k => k.1 == 1024 * s.own + 383) = some (383, 512) ∧
     (s.port 383).up = true ∧ ({ s with fab := { s.fab with topo := [] } } : State).peerOf 383 ≠ some 512) ∧
    (let s := { routing Net.reset with parties := [(5, { Party.reset with viral := true })] }
     (s.party 5).viral = true ∧ s.fab.notes.contains 383 = false ∧ (s.port 383).takes (s.noticeNet 512) = true ∧
     ({ s.fab with notes := [383] } : Fab).notes.contains 383 = true) ∧
    (let x := { Net.reset with dpkg := 512 }
     (routing x).holdsBack x = false ∧
     ({ routing x with fab := { (routing x).fab with dead := [512] } } : State).carries x 383 = false) ∧
    (let f := (routing Net.reset).fab
     f.trees.length < 4 ∧ (f.trees.all fun t => t.1 != 2) = true ∧ (f.rdq.all fun x => x.vc != 2 || x.tree != 9) = true ∧
     (f.trees.getLast?.map (·.1)) ≠ some 9 ∧ f.alive.contains (pkgGroup 512) = true ∧ Fab.reset.alive.contains (pkgGroup 512) = false ∧
     f.alive.contains 2 = false ∧ f.unreach.contains 2 = false ∧ 2 ≠ pkgGroup State.reset.own ∧
     (f.held.any fun q => pkgGroup q == 2) = false ∧ (({ f with held := [1024] } : Fab).held.any fun q => pkgGroup q == 2) = true) := by decide

/-- An armed entry of eight words with one peer, the tile itself, and a packet of its collective. -/
def armedEnt : CEnt := { CEnt.reset with
  img := [7, 0, 1, 1, 1, 1, 0, 2, 0, 1, 0, 0, 8, 0, 0, 0, 0, 2, 0, 0, 8, 0, 0, 0] ++ List.replicate 12 0 ++ [4] ++
    List.replicate 91 0
  state := 1 }
def collNetOf (kind : Nat) : Net := { netOf kind with cid := 7, step := 1, op := 1, daddr := 0x200, data := List.replicate 32 0, ent := 3 }
def member (x : CEnt) (p : Net) : Tile := { received p with coll := [(3, x)] }

theorem witness_CollectiveMoves :
    (let c : Tm := ⟨0, 0, false, w64 (2 ^ 34), 0, 0, 5, [], false, false, false, some (3, 0, 0)⟩
     let t : Tile := { Tile.reset with tmq := [c], coll := [(3, armedEnt)] }
     t.tmHead = some c ∧ c.data = [] ∧ t.marksPass c.id false = true ∧ (t.cent 3).piece 0 = (0x100, 32) ∧
     t.pendingAt ((t.cent 3).piece 0).1 32 = false ∧ 1 = (t.cent 3).packets) ∧
    (let p := collNetOf 3
     let s := partOfTag 9 (member armedEnt p)
     (s.tile 255).arrived 3 0 = some (80, ⟨0, .net p, 4, 63⟩, p) ∧ s.entryCode 255 p = 0 ∧ armedEnt.live p = true ∧
     armedEnt.tags.contains (p.src, p.seq) = false ∧ armedEnt.state ≠ 3 ∧ armedEnt.refuses p = 0 ∧
     ({ armedEnt with tags := [(0, 0)] } : CEnt).tags.contains (p.src, p.seq) = true) ∧
    (let p := collNetOf 4
     let s := partOfTag 9 (member { armedEnt with sent := [⟨0, 0, [], 0, 0, 0⟩] } p)
     (s.tile 255).arrived 4 0 = some (80, ⟨0, .net p, 4, 63⟩, p) ∧ armedEnt.rank = p.src ∧ s.tgtPkg (armedEnt.peer 0) = p.spkg ∧
     tgtTile (armedEnt.peer 0) = p.stile ∧ s.heldTarget (armedEnt.peer 0) = false ∧
     (s.modDie 0 fun x => { x with stat := 1 }).heldTarget (armedEnt.peer 0) = true) ∧
    (let s := partOfTag 9 (member armedEnt (collNetOf 5))
     s.namesPeer armedEnt (collNetOf 5).spkg (collNetOf 5).stile = true ∧ s.namesPeer armedEnt 3 0 = false) ∧
    armedEnt.fins.contains ((collNetOf 5).spkg * 256 + (collNetOf 5).stile) = false ∧
    (member armedEnt (collNetOf 5)).arrived 5 0 = some (80, ⟨0, .net (collNetOf 5), 4, 63⟩, collNetOf 5) ∧
    (member armedEnt (collNetOf 7)).arrived 7 0 = some (80, ⟨0, .net (collNetOf 7), 4, 63⟩, collNetOf 7) ∧
    (member armedEnt (collNetOf 6)).arrived 6 0 = some (80, ⟨0, .net (collNetOf 6), 4, 63⟩, collNetOf 6) ∧
    (let x := { CEnt.reset with due := true, state := 2 }
     x.due = true ∧ x.allfin = false ∧ x.isBarrier = true ∧ x.abrx = false) := by decide

theorem witness_CollectiveMoves_refused :
    (let p := collNetOf 3
     let w : Async := ⟨2, 0, .words 3 armedEnt.inc 8, .cack 3 armedEnt.inc p⟩
     ({ armedEnt with state := 3 } : CEnt).live p = true ∧ armedEnt.refuses { p with op := 0 } = 2 ∧
     armedEnt.live { p with step := 2 } = false ∧ (partOfTag 8 (member armedEnt p)).entryCode 255 p ≠ 0 ∧
     w.w = .words 3 armedEnt.inc 8 ∧ w.done = .cack 3 armedEnt.inc p ∧
     (((partOfTag 9 (member armedEnt p)).tile 255).cent 3).inc = armedEnt.inc) := by decide

/-- An image of 320 bytes: its header, then an empty bank block. -/
def imageHead : List Byte :=
  leBytes 4 0x4C455342 ++ leBytes 2 1 ++ leBytes 2 64 ++ (List.replicate 4 (leBytes 4 0x8000)).flatMap id ++ leBytes 8 0 ++
    leBytes 4 64 ++ leBytes 4 320 ++ leBytes 8 0

/-- A record of one quad of stage 0 and partition 5, that waits in the pool with its pages pinned. -/
def pooled (quads : Nat) : State := { State.reset with
  recs := writeBytes [] 0 (leBytes 8 (recReady + 1 * 2 ^ 8 + quads * 2 ^ 16 + 5 * 2 ^ 24 + 5 * 2 ^ 48) ++ leBytes 8 0x10000)
  rinfo := [(0, { RInfo.reset with saved := true, pins := [page 0x10000 0x27] })]
  pool := [⟨0, 0, 0⟩], dmem := writeBytes [] 0x10000 imageHead
  parts := [(5, { PartE.reset with valid := true, asid := 1, tiles := Vector.ofFn fun i => if i = 0 then 0xF else 0 })]
  resv := [⟨5, 9, [0]⟩] }

/-- Beside record 0, record 1 of two quads, that has waited long enough to reserve them, one of them busy. -/
def waited : State :=
  { (pooled 1).modTile 4 fun t => { t with task := some ⟨7, 5, 0, 0, 1, 0⟩ } with
    recs := writeBytes (pooled 1).recs 256 (leBytes 8 (recReady + 1 * 2 ^ 8 + 2 * 2 ^ 16 + 5 * 2 ^ 24 + 5 * 2 ^ 48))
    pool := [⟨1, 7, 63⟩, ⟨0, 0, 0⟩], resv := []
    parts := [(5, { PartE.reset with valid := true, asid := 1, tiles := Vector.ofFn fun i => if i = 0 then 0xFF else 0 })] }

def passed : State := { waited with pool := [⟨1, 7, 0⟩, ⟨0, 0, 0⟩] }

theorem waited_age : [1].foldl State.age waited = { passed with free := 1, resv := [⟨5, 1, [0, 1]⟩] } := by
  have h : waited.pool.find? (fun e => e.rcd == 1) = some ⟨1, 7, 63⟩ := by decide +kernel
  have hb : passed.bestSets 1 = [[0, 1]] := by decide +kernel
  have hr : (passed.resvOf (waited.recPart 1)).isSome = false := by decide +kernel
  have hp : ({ passed with free := passed.free + 1 } : State).recPart 1 = 5 := by decide +kernel
  have ha : State.age waited 1 = if (passed.resvOf (waited.recPart 1)).isSome then passed else passed.reserve 1 := by
    simp only [State.age, h]
    rfl
  rw [List.foldl_cons, List.foldl_nil, ha, hr, State.reserve, hb]
  simp only [State.freeNat, List.length_nil, Nat.zero_add, Nat.mod_one]
  rw [hp]
  rfl

theorem witness_TaskMoves_aged :
    waited.examine waited.poolOrder [] = some (0, some [0], [1]) ∧ waited.dispatches = true ∧
    ([1].foldl State.age waited).fit 0 = none ∧ ([1].foldl State.age waited).imageTaint 0 ⟨[page 0x10000 0x27],
      ⟨[0x8000, 0x8000, 0x8000, 0x8000], 64, 0, 0⟩, []⟩ = none ∧ waited.prepFor 0 = .ok ⟨[page 0x10000 0x27], ⟨[0x8000, 0x8000, 0x8000, 0x8000], 64, 0, 0⟩, []⟩ ∧
    (match ({ waited with rinfo := [], dmem := [] } : State).prepFor 0 with
      | .error _ => true
      | .ok _ => false) = true := by rw [waited_age]; decide +kernel

theorem witness_TaskMoves_dispatch :
    (let s := { pooled 1 with resv := [] }
     s.dispatches = true ∧ s.examine s.poolOrder [] = some (0, some [0], []) ∧
     s.fit 0 = some [0] ∧
     s.prepFor 0 = .ok ⟨[page 0x10000 0x27], ⟨[0x8000, 0x8000, 0x8000, 0x8000], 64, 0, 0⟩, []⟩ ∧
     s.imageTaint 0 ⟨[page 0x10000 0x27], ⟨[0x8000, 0x8000, 0x8000, 0x8000], 64, 0, 0⟩, []⟩ = none ∧
     ({ s with poison := [0x800] } : State).imageTaint 0 ⟨[page 0x10000 0x27], ⟨[0x8000, 0x8000, 0x8000, 0x8000], 64, 0, 0⟩, []⟩ =
       some 0x10000) ∧
    (let s := pooled 2
     s.examine s.poolOrder [] = some (0, none, []) ∧ s.resvOf 5 = some ⟨5, 9, [0]⟩) ∧
    ({ State.reset with trained := true } : State).dispatches = false := by decide +kernel

/-- Tile 255 bound to record 0 at rank 0, and the run of that record. -/
def bound (f : Tile → Tile) (x : Run → Run) : State :=
  { State.reset.setTile 255 (f { Tile.reset with task := some ⟨0, 5, 0, 0, 8, 0⟩ }) with
    full := true, runs := [x ⟨0, 5, [255], none, false, [], none⟩] }
def drainOfTile : Drain := ⟨11, 0, none, [], 0, [], none, false, none, none⟩
def drained (want : Bool) (image : Option Mem) (t : Tile) : Tile :=
  let t := allSlots.foldl (fun t k => t.modSlot k fun x => { x with drained := some 0 }) t
  { t with drn := some { drainOfTile with cap := some (t.captured (drainOfTile)), want := want, image := image } }

theorem witness_TaskMoves :
    (let b : Boot := ⟨0, [0x8000, 0x8000, 0x8000, 0x8000], false, 64, [], true⟩
     let s := bound (fun t => { t with boot := some b }) id
     (s.tile 255).boot = some b ∧ (s.tile 255).task = some ⟨0, 5, 0, 0, 8, 0⟩ ∧ b.restore = false ∧ b.loaded = true ∧
     s.startFmtBad 255 b.rcd = false ∧ (s.tile 255).async = [] ∧ ({ b with loaded := false } : Boot).loaded = false ∧
     ({ s with rinfo := [(0, { RInfo.reset with pins := [page 0 0x27] })], poison := [1] } : State).frameTaint
       { b with restore := true } 0 = some 0) ∧
    (let s := bound id id
     s.runs[0]? = some ⟨0, 5, [255], none, false, [], none⟩ ∧ (s.tile 255).over_ = true ∧ (s.party 0).viral = false) ∧
    (bound (fun t => { t with led := [⟨0, 0, true, true⟩] }) id).runs.all (fun x => x.tiles.all fun m =>
      ((bound (fun t => { t with led := [⟨0, 0, true, true⟩] }) id).tile m).over_) = false ∧
    (let s := bound id fun x => { x with dead := some ⟨2, 0, 0, 0, 0⟩ }
     s.runs[0]? = some ⟨0, 5, [255], none, false, [], some ⟨2, 0, 0, 0, 0⟩⟩ ∧ ((s.tile 255).still && (s.tile 255).written) = true) ∧
    (let s := bound (fun t => { t with reqs := [11], fence := some ⟨.sys, 0, 0, []⟩ }.modSlot .c fun x => { x with running := true }) id
     (s.tile 255).reqs = [11] ∧ (s.tile 255).hold = none ∧ (s.tile 255).boot = none ∧ (s.tile 255).phase = 0 ∧
     s.runOf 255 = some ⟨0, 5, [255], none, false, [], none⟩ ∧ (s.tile 255).killed = false ∧
     s.allEnded ⟨0, 5, [255], none, false, [], none⟩ = false ∧ (s.tile 255).drn = none) ∧
    (let s := bound (drained false none) id
     (s.tile 255).drn.isSome ∧ (s.tile 255).allDrained = true ∧ (s.tile 255).killed = false ∧ (s.tile 255).mayImage = true ∧
     ((s.run 0).all fun x => x.saves.contains 0) = false) ∧
    (let s := bound (drained true (some [])) id
     (s.tile 255).saveable = true ∧ ((s.tile 255).drn.map fun d => d.image.isSome && d.want) = some true) ∧
    (let s := bound (fun t => { t with invals := [⟨0, 1, 0, 0⟩] }) id
     (s.tile 255).invals = [⟨0, 1, 0, 0⟩] ∧ (s.tile 255).qpts = [] ∧ (s.tile 255).drn = none) ∧
    (let t := Tile.reset.modSlot .c fun x => { x with running := true, stall := some (.token, 0) }
     (t.slot .c).stall ≠ none ∧ (t.slot .c).running = true ∧ t.hold = none ∧ (t.slot .c).stub = false) ∧
    ((Tile.reset.modSlot .v fun x => { x with stub := true }).slot .v).stub = true ∧
    (let t := { Tile.reset with preq := some 11, inh := true }
     t.preq = some 11 ∧ t.inh = true ∧ t.hold = none ∧ t.killed = false ∧ t.phase = 0) := by decide +kernel

theorem witness_ErrorAndFreezeMoves :
    siteOk ⟨31, 0, 300, 0, 0, 0⟩ = false ∧
    (siteOk ⟨1, 2, 3, 4, 0, 0⟩ = true ∧ metBySlot ⟨1, 2, 3, 4, 0, 0⟩ = false) ∧
    (siteOk ⟨4, 2, 256, 4, 0x40, 0⟩ = true ∧ backed 0x40 = true) ∧
    (let s := bound id id
     siteOk ⟨0, 1, 255, 2, 0, 16⟩ = true ∧ metBySlot ⟨0, 1, 255, 2, 0, 16⟩ = true ∧ (s.tile 255).killed = false ∧
     (s.tile 255).task ≠ none ∧ (State.reset.tile 255).task = none ∧
     ((s.modTile 255 fun t => t.modSlot .v fun x => { x with running := true }).tile 255).sv.running = true ∧ slotOf 2 = .v) ∧
    (let f : InvF := ⟨⟨0, 1, 0, 0⟩, 1⟩
     let s := { State.reset with invs := [f] }
     s.invs[0]? = some f ∧ (s.tiles.all fun e => e.2.invals.all fun v => v.id != f.inv.id) = true) ∧
    (let s := { State.reset with frings := [(5, ⟨0, [[1]], false⟩)] }
     (s.party 0).viral = false ∧ (tget s.frings FRing.reset 5).held = [[1]]) ∧
    (let s := { State.reset with parties := [(0, { Party.reset with viral := true })] }
     (s.parties.any fun q => q.2.viral) = true ∧ (s.party 5).viral = false ∧ (s.party (ringParty 256)).viral = true ∧
     (tget s.rings Ring.reset 256).frozen = false ∧ (tget s.rings Ring.reset 261).frozen = false) ∧
    (let p : Nat × Pkt := (80, ⟨0, .freeze false false 0 [], 4, 63⟩)
     Tile.reset.phase = 0 ∧ ({ Tile.reset with inbox := [p] } : Tile).putsDone = true ∧
       ({ Tile.reset with inbox := [p] } : Tile).inbox.find? isFreeze = some p ∧ p.2.body = .freeze false false 0 []) ∧
    ({ Ring.reset with frozen := true } : Ring).frozen = true ∧
    (let s := { State.reset with viral := some ⟨0, 0, 5, 0, 0, 0, 0, false⟩, asm := some ⟨0, [], [], []⟩,
                                  parties := [(0, { Party.reset with viral := true })] }
     s.assembling = true ∧ s.viral = some ⟨0, 0, 5, 0, 0, 0, 0, false⟩ ∧
     (s.asm.getD ⟨s.oldest, [], [], []⟩).has 263 = false ∧ (262 : Nat) ≤ 263 ∧
     ((List.range 264).all (s.copySect (s.asm.getD ⟨s.oldest, [], [], []⟩) 263).1.has) = false) := by decide +kernel

theorem witness_RecoveryMoves :
    (let s := State.reset.modDie 3 fun x => { x with stat := 0, errs := 16, quies := some (false, true, [1, 2]) }
     (s.die 3).stat = 0 ∧ (s.party (partyOf 3)).viral = false ∧ (s.die 3).quies = some (false, true, [1, 2]) ∧ s.runsOn 3 = [] ∧
     16 ≤ (s.die 3).errs ∧ dieOf 255 = 3) ∧
    ((State.reset.modDie 3 fun x => { x with stat := 2, quies := some (true, false, []) }).die 3).quies = some (true, false, []) ∧
    (State.reset.modDie 3 fun x => { x with stat := 1 }).die 3 = { DieSt.reset with stat := 1 } ∧ (State.reset.die 3).errs < 16 ∧
    ((moving (.notice)).party 0).hold[0]? = some ⟨4, 0, List.replicate 6 0, none, 0, pkt .notice 0 80⟩ ∧ (State.reset.die 0).stat = 4 ∧
    (bitAt State.reset.clkmask 0 = false ∧ bitAt State.reset.clkmask 5 = false ∧ State.reset.survey = none ∧
      ({ State.reset with survey := some 32 } : State).survey = some 32) ∧
    (let x : Snap := ⟨1, 0x20, 0, 2, false, [], 1⟩
     let s := { State.reset with snap := some x }
     s.snap = some x ∧ x.begun = false ∧ s.snapReady x = true ∧ s.cutOff = false) ∧
    (let x : Snap := ⟨1, 0x20, 0, 2, true, [(0, 3)], 1⟩
     let s := { State.reset with
       snap := some x, fab := { Fab.reset with topo := [(7, 1)] }, ports := [(7, { Port.reset with up := true })] }
     x.wait[0]? = some (0, 3) ∧ s.peerOf 7 = some x.buddy ∧ (s.port 7).up = true ∧ pkgGroup 1 = pkgGroup s.own) := by
  decide +kernel

theorem witness_HostMoves :
    (({ State.reset with trained := true } : State).trained = true ∧ State.reset.full = false ∧ State.reset.runs = []) ∧
    (({ State.reset with full := true } : State).full = true ∧ (73728 : BitVec 17).toNat ≤ 73728 ∧ (383 : BitVec 9).toNat ≤ 383 ∧
      383 < (384 : BitVec 9).toNat) ∧
    (State.reset.queue (16 * 63 + 15)).stop = false ∧
    (({ State.reset with queues := [(1023, { Queue.reset with stop := true })] } : State).queue (16 * 63 + 15)).stop = true ∧
    (8 ≤ fld (8 : W64) 0 5 ∧ fld (20 : W64) 0 5 ≤ 20) := by decide

/-- The first packet of queue 15 of function 63, whose partition is 5, or of function 0. -/
def packets (fn : Nat) (h : List Byte) : State := { State.reset with
  hmem := writeBytes [] 0x1000 h
  queues := [(16 * fn + 15, { Queue.reset with base := 0x1000, size := 8, tail := 17 })]
  parts := [(5, { PartE.reset with valid := true, vf := fn, asid := 1 })] }
def head (cmd len a b : Nat) : List Byte := leBytes 1 cmd ++ leBytes 1 len ++ leBytes 2 0 ++ leBytes 4 a ++ leBytes 8 b

theorem witness_QueueCommands :
    (let s := packets 63 (head 0 1 0 0)
     (s.party 0).viral = false ∧ s.snapHolds 63 = false ∧
     (s.packet 63 15).map (fun x => (x.cmd, x.formErr 1 17 false)) = some (0, 0)) ∧
    ((packets 63 (head 0xFF 1 0 0)).packet 63 15).map (fun x => knownCmd x.cmd) = some false ∧
    ((packets 63 (head 4 1 9 0)).packet 63 15).map (fun x =>
      (x.cmd, x.formErr 1 1 false, (packets 63 (head 4 1 9 0)).recErr x (· == recRunning))) = some (4, 0, 6) := by decide +kernel

theorem witness_QueueCommands_more :
    ((packets 63 (head 5 1 65535 0)).packet 63 15).map (fun x =>
      (x.cmd, x.formErr 1 1 false, (packets 63 (head 5 1 65535 0)).recErr x fun _ => true)) = some (5, 0, 0) ∧
    ((packets 63 (head 0x22 1 0 0)).packet 63 15).map (fun x => (x.cmd, x.formErr 1 1 true)) = some (0x22, 4) ∧
    ((packets 0 (head 0x2A 2 (2 ^ 16 * 2) 0)).packet 0 15).map (fun x =>
      (x.cmd, x.formErr 2 2 true, x.a / 2 ^ 10 % 2 ^ 6, x.a / 2 ^ 18, x.lo 1, x.hi 1)) = some (0x2A, 0, 0, 0, 0, 0) ∧
    (packets 63 []).viral.all (fun v => v.done) = true ∧
    (let s := { State.reset with psets := [(5, PartE.reset, 1)] }
     s.psets.find? (fun y => y.1 == 5) = some (5, PartE.reset, 1) ∧ s.mayGrant 5 PartE.reset = true) := by decide +kernel

theorem witness_QueueCommands_fabset :
    ((packets 0 (head 0x2A 2 0x3FF 0x4020)).packet 0 15).map (fun x => (x.formErr 2 2 true, x.a % 1024, fld x.b 0 8, fld x.b 8 16)) =
      some (0, 0x3FF, 0x20, 0x40) ∧
    ((packets 0 (head 0x2A 2 575 0x20)).packet 0 15).map (fun x => (x.formErr 2 2 true, x.a % 1024, fld x.b 8 16)) = some (0, 575, 0) ∧
    ((packets 0 (head 0x2A 2 (2 ^ 16 + 576) 0)).packet 0 15).map (fun x => (x.a / 2 ^ 16 % 4, x.a % 1024)) = some (1, 576) ∧
    ((packets 0 (head 0x2A 2 (3 * 2 ^ 16) 0)).packet 0 15).map (fun x => x.a / 2 ^ 16 % 4) = some 3 ∧
    ((packets 0 (head 0x2A 2 1024 0)).packet 0 15).map (fun x => x.a / 2 ^ 10 % 2 ^ 6) = some 1 ∧
    ((packets 0 (head 0x2A 3 0 0)).packet 0 15).map (fun x => (x.cmd, x.formErr 2 2 true)) = some (0x2A, 1) ∧
    ((packets 63 (head 0 0 0 0)).packet 63 15).map (fun x => (x.cmd, x.formErr 1 17 false)) = some (0, 1) := by decide +kernel

theorem witness_DecodeOfEncode :
    wellFormed .v { Ctl.plain with idle := 15, sync := true, ga := ⟨true, 7⟩, gb := ⟨true, 0⟩ } (.vadd 31 30 29 ⟨.rne, true⟩) = true ∧
    wellFormed .c Ctl.plain (.br 0xFFFFFD#24) = true := by decide

theorem witness_StepRunsTheDecodedInstruction :
    (let s := State.reset.withFetchWord 64 0x0080000004172000
     let t := s.tile 0
     s.agenda = .tile 0 :: [] ∧ t.phase = 1 + Slot.num .c ∧ t.chain.stop = none ∧ t.flaws = [] ∧ t.wdog = none ∧ t.fence = none ∧
     t.active .c = true ∧ t.eligibleAt .c ≤ t.cyc ∧
     decode .c (t.fetch (t.slot .c).wordPc) = .ok ({ Ctl.plain with idle := 2 }, .add (.s 4) (.s 5) .k) ∧ t.alone .c = true ∧
     t.guards .c { Ctl.plain with idle := 2 } = true ∧ prefixOk { Prefixes.none with words := 1, k := some 0 } 0x0080000004172000 = true) ∧
    (let s := State.reset.withFetchWord 64 0x0000002F800160C0
     isPrefix ((s.tile 0).fetch ((s.tile 0).slot .c).wordPc) || isPrefix ((s.tile 0).fetch ((s.tile 0).slot .v).wordPc)) = true ∧
    (let s := { State.reset with agenda := [.event .trainingComplete] }
     s.agenda = [.event .trainingComplete] ∧ Instr.trainingComplete.isMove = true) := by decide +kernel

/-- A word of a bundle whose members all issue, with its guards true, and annulled. -/
theorem witness_StepRunsTheDecodedInstruction_bundle :
    let c (g : Fin 8) : Ctl := { Ctl.plain with sync := true, ga := ⟨false, g⟩ }
    let s (g : Fin 8) : State := State.reset.withFetchWord 64 ((encode (c g) (.add (.s 4) (.s 5) (.s 6))).getD 0).toNat
    let run (g : Fin 8) : List Slot := ((s g).tile 0).runners
    let t (g : Fin 8) : Tile := { (s g).tile 0 with bundle := .act (run g) }
    (run 0).contains .c = true ∧ (run 1).contains .c = true ∧ (t 0).guards .c (c 0) = true ∧ (t 1).guards .c (c 1) = false ∧
    decode .c ((t 0).fetch ((t 0).slot .c).wordPc) = .ok (c 0, .add (.s 4) (.s 5) (.s 6)) ∧
    decode .c ((t 1).fetch ((t 1).slot .c).wordPc) = .ok (c 1, .add (.s 4) (.s 5) (.s 6)) := by decide +kernel

theorem witness_MemoryStaysCanonical : ∃ t, step { State.reset with agenda := [.event .trainingComplete] } = .next t :=
  ⟨_, rfl⟩

/-! ### One step at a time

Values worked out by hand from the rules named. -/

/-- The state after an instruction. -/
def after (i : Instr) (s : State) : State :=
  match exec i s with
  | .next r => r
  | _ => s

/-- Writes that tile 0 has scheduled for scalar registers: register, cycle, value. -/
def writes (s : State) : List (Nat × Nat × W64) := (s.tile 0).pend.filterMap fun w =>
  match w.tgt with
  | .reg _ n _ v => some (n.val, w.at_, v)
  | _ => none
def guardWrites (s : State) : List (Nat × Bool) := (s.tile 0).pend.filterMap fun w =>
  match w.tgt with
  | .grd _ n _ v => some (n.val, v)
  | _ => none

/-- TRAPC and TRAPV of tile 0. -/
def trapOf (s : State) : W64 × W64 := ((s.tile 0).trapc, (s.tile 0).trapv)

/-- Slot C with three operands. -/
def abc (x y z : W64) : State := word .c (regs .c [(1, x), (2, y), (3, z)])

/-- 05 R97: sums and products are taken modulo 2^64. -/
theorem test_add_wraps : writes (after (.add (.s 4) (.s 1) (.s 2)) (abc (BitVec.allOnes 64) 1 0)) = [(4, 1, 0)] := by decide
/-- 05 R97: the high half of (-2) times 3. -/
theorem test_mulhs : writes (after (.mulhs (.s 4) (.s 1) (.s 2)) (abc (w64i (-2)) 3 0)) = [(4, 3, w64i (-1))] := by decide
theorem test_mulh : writes (after (.mulh (.s 4) (.s 1) (.s 2)) (abc (w64 (2 ^ 63)) 6 0)) = [(4, 3, 3)] := by decide
theorem test_div_by_zero : writes (after (.div (.s 4) (.s 1) (.s 2)) (abc 7 0 0)) = [(4, 20, BitVec.allOnes 64)] := by decide
/-- 05 R97: the quotient truncates, so -7 is -3 times 2 and -1. -/
theorem test_rems : writes (after (.rems (.s 4) (.s 1) (.s 2)) (abc (w64i (-7)) 2 0)) = [(4, 20, w64i (-1))] := by decide
/-- 05 R97: the most negative number over -1 is itself. -/
theorem test_divs_overflow :
    writes (after (.divs (.s 4) (.s 1) (.s 2)) (abc (w64 (2 ^ 63)) (w64i (-1)) 0)) = [(4, 20, w64 (2 ^ 63))] := by decide
/-- 05 R99: a shift counts modulo 64. -/
theorem test_sra_65 : writes (after (.sra (.s 4) (.s 1) (.s 2)) (abc (w64i (-5)) 65 0)) = [(4, 1, w64i (-3))] := by decide
theorem test_clz_zero : writes (after (.clz (.s 4) (.s 0)) (abc 0 0 0)) = [(4, 1, 64)] := by decide
theorem test_extr : writes (after (.extr (.s 4) (.s 1) 4 7) (abc 0xABCD 0 0)) = [(4, 1, 0xBC)] := by decide
/-- 05 R99: INS keeps the bits of its destination outside the field. -/
theorem test_ins : writes (after (.ins 1 (.s 2) 8 3) (abc 0xFFFF 0x12 0)) = [(1, 1, 0xF2FF)] := by decide
/-- 05 R99: (x + 1)(x + 1) over GF(2) is x^2 + 1. -/
theorem test_clmul : writes (after (.clmul (.s 4) (.s 1) (.s 2)) (abc 3 3 0)) = [(4, 3, 5)] := by decide
theorem test_movkh : writes (after (.movkh 1 0xFFFFF) (abc 5 0 0)) = [(1, 1, 0xFFFFF00000000005)] := by decide
theorem test_cmp_signed :
    (guardWrites (after (.cmpLts 1 (.s 1) (.s 2)) (abc (w64i (-1)) 0 0)),
      guardWrites (after (.cmpLt 1 (.s 1) (.s 2)) (abc (w64i (-1)) 0 0))) = ([(1, true)], [(1, false)]) := by decide
/-- A write to s0 is discarded (03 R45). -/
theorem test_s0_discards : writes (after (.add (.s 0) (.s 1) (.s 2)) (abc 1 1 0)) = [] := by decide

/-- 05 R107: the target counts from the branch's own address, and its first word from the third cycle on. -/
theorem test_br : (let x := (after (.br 0x1000) (word .c id)).tile 0
    (x.sc.pc, x.sc.base)) = (0x8000, 3) := by decide
/-- 05 R107, R114: ALIGN is cause 6, and TRAPV the address. -/
theorem test_bri_misaligned : trapOf (after (.bri (.s 1)) (abc 0x8004 0 0)) = (6, 0x8004) := by decide
/-- 05 R109: the count is the low 32 bits; a loop of no iteration goes past its end word. -/
theorem test_loop_zero : (let x := (after (.loop (.s 1) 2) (abc (w64 (2 ^ 32)) 0 0)).tile 0
    (x.sc.pc, x.sc.loops)) = (24, []) := by decide
theorem test_trap : trapOf (after (.trap (.s 1)) (word .v (regs .v [(1, 77)]))) = (0x20D, 77) := by decide
/-- 11 R223: the index is shifted, and the sum taken modulo 2^64. -/
theorem test_ld_address : ((after (.ldsW ⟨.s 1, .s 2, 3, ⟨.stream, 2⟩⟩) (word .a (regs .a [(1, w64i (-8)), (2, 2)]))).tile 0).ents =
    [⟨0, .load 4 true, 8, 2, .stream, 0, [], .pending, false⟩] := by decide
theorem test_st_misaligned : (let r := after (.stD ⟨.s 1, .s 0, 0, ⟨.norm, 0⟩⟩) (word .a (regs .a [(1, 0x1004)]))
    (trapOf r, (r.tile 0).saq)) = ((0x106, 0x1004), []) := by decide
theorem test_acas_needs_two : ((after (.acas ⟨.s 1, .s 0, true, ⟨.norm, 0⟩⟩) (word .a id)).tile 0).ents.map (fun e => (e.kind, e.need)) =
    [(.atom 9 true true, 2)] := by decide
/-- 11 R232: MFMT 15 is no format. -/
theorem test_copy_ill : ((after (.cpygs (.s 1) (.s 0) (.s 0) (.s 0) ⟨.norm, 0⟩)
    (word .a (regs .a [(1, w64 (15 * 2 ^ 24))]))).tile 0).trapc = 0x40101 := by decide
/-- 13 R279, R280: a free mutex is taken with answer 1; an empty semaphore gives answer 0. -/
theorem test_mtry : writes (after (.mtry 4 (.s 1)) (abc 5 0 0)) = [(4, 1, 1)] := by decide
theorem test_semtry : writes (after (.semtry 4 (.s 1)) (abc 5 0 0)) = [(4, 1, 0)] := by decide
/-- 11 R212, R226: AADD of four bytes wraps, and AMINS compares them as signed. -/
theorem test_home_aadd : (after (.perform 3 0) (atHome (acc 0x180000080 (.atom 0 false [w64 0xFFFFFFFF])) (acc 0 (.read 1)))).dmem =
    [(0x180000080, 6)] := by decide
theorem test_home_amins : (after (.perform 3 0) (atHome (acc 0x180000080 (.atom 2 false [w64 0xFFFFFFFE])) (acc 0 (.read 1)))).dmem =
    [(0x180000080, 0xFE), (0x180000081, 0xFF), (0x180000082, 0xFF), (0x180000083, 0xFF)] := by decide
/-- 11 R215: of two writes of one cycle, that of the tensor-move unit stands over the copy engine's, whichever is offered first. -/
theorem test_commit_order :
    (let s := State.reset.setTile 0 { Tile.reset with async := [⟨3, 0, .spad 4 [9], .nothing⟩, ⟨1, 0, .spad 4 [8], .nothing⟩] }
     (((after (.commit 0 0) (after (.commit 0 1) s)).tile 0).spad, ((after (.commit 0 0) (after (.commit 0 0) s)).tile 0).spad)) =
      ([(4, 9)], [(4, 9)]) := by decide
/-- 14 R301: the worked example, lane 5 shed: each lane's first and last byte, and its count. -/
theorem test_striping : (stripe 0xDF ((List.range 72).map (BitVec.ofNat 8))).map
    (fun e => (e.1, e.2.head?, (e.2.filterMap id).getLast?, (e.2.filterMap id).length)) =
      [(0, some (some 0), some 70, 11), (1, some (some 1), some 71, 11), (2, some (some 2), some 65, 10),
       (3, some (some 3), some 66, 10), (4, some (some 4), some 67, 10), (6, some (some 5), some 68, 10),
       (7, some (some 6), some 69, 10)] := by decide
/-- 14 R303: a port on four lanes that loses one goes down. -/
theorem test_lane_shed : (let x := (after (.laneShed 7 1) { State.reset with
      ports := [(7, { Port.reset with up := true, act := 0x0F })] }).port 7
    (x.up, x.shed)) = (false, 2) := by decide
/-- 21 R396: QBASE is a multiple of 4 KiB; QSIZE is 8 to 20. -/
theorem test_queue_registers : (let x := (after (.hostRegWrite 1 0x1028 21) (after (.hostRegWrite 1 0x1020 0x12345) State.reset)).queue 17
    (x.base, x.size)) = (0x12000, 0) := by decide
/-- 21 R398: a tail written while a queue is stopped is taken at its restart. -/
theorem test_late_tail : (let s := { State.reset with queues := [(0, { Queue.reset with stop := true, tail := 3 })] }
    let r := after (.qtailWrite 0 0 9) s
    ((r.queue 0).tail, ((after (.queueRestart 0 0) r).queue 0).tail)) = (3, 9) := by decide
theorem test_cold_reset_keeps_host_memory : (let r := after .coldReset { State.reset with hmem := [(5, 1)], dmem := [(5, 1)] }
    (r.hmem, r.dmem, r.nv.resets)) = ([(5, 1)], [], 1) := by decide
/-- 03 R40 to R51: the word placed at reset's PC is the one that the next step issues. -/
theorem test_step_runs_placed_word : (match step (State.reset.withFetchWord 64 0x0000004004146000) with
    | .next r => (r.tile 0).sv.pc
    | _ => 9) = 8 := by decide +kernel

end Sys2Proof.Tests
end

section
/-! The MTSR words (05 R117): what each leaves to the end of its cycle, and the bank format that a write of BFMTn sets (04 R82). -/

namespace Sys2Proof.Machine

/-- 21 R399: the full service lacks no format, and the bring-up service none of its three. -/
theorem State.lacks_eq_false_iff {s : State} {f : Fmt} :
    s.lacks f = false ↔ s.full = true ∨ f = RAW8 ∨ f = F32 ∨ f = BF16 := by
  simp only [State.lacks, Bool.and_eq_false_iff, Bool.not_eq_false', bne_eq_false_iff_eq, or_assoc]

/-! ### The register BFMTn (04 R82) -/

/-- The write of BFMTn sets the format of bank n, and nothing else of the tile. -/
theorem Tile.writeSys_bfmt (t : Tile) (handler : Bool) (n : Fin 12) (v : W64) :
    t.writeSys handler (16 + n.val) v = { t with bfmt := t.bfmt.set n (v.setWidth 4) } := by
  have hrange : 16 ≤ 16 + n.val ∧ 16 + n.val < 28 := by omega
  unfold Tile.writeSys
  split
  case h_6 => simp only [if_pos hrange, Nat.add_sub_cancel_left, Fin.ofNat_val_eq_self]
  all_goals omega

/-- BFMTn as MFSR reads it: the format of the bank, with zeros above. -/
theorem State.readSys_bfmt (s : State) (j : Nat) (k : Slot) (n : Fin 12) :
    s.readSys j k (16 + n.val) = ((s.tile j).bfmt.get n).setWidth 64 := by
  have hrange : 16 ≤ 16 + n.val ∧ 16 + n.val < 28 := by omega
  unfold State.readSys
  split
  case h_15 => simp only [if_pos hrange, Nat.add_sub_cancel_left, Fin.ofNat_val_eq_self]
  all_goals omega

/-- After a cold reset the format of every bank is 0. -/
theorem State.reset_bfmt (j : Nat) (n : Fin 12) : (State.reset.tile j).bfmt.get n = 0 := by
  have htile : State.reset.tile j = Tile.reset := rfl
  simp [htile, Tile.reset, Vector.get]

end Sys2Proof.Machine

namespace Sys2Proof.Laws

open Sys2Proof.Machine Sys2Proof.Claim

/-- A word whose retirement is known acts, where its cycle plays no part. -/
theorem acts_of_does {s : State} {i : Instr} {srcs : List Src} {outs : List (Out × Nat)} {r : Nat} {ok : List W64 → Prop}
    {act : List W64 → Tile → Tile} (h : Does s i srcs outs r ok act) : Acts s i srcs outs ok act :=
  fun v hr ho => ⟨r, h v hr ho⟩

/-- A word whose plan is that of an accepted MTSR leaves its write to the end of the cycle, and does nothing before. -/
theorem acts_of_mtsrPlan {s : State} {i : Instr} {x : Src} {num : Nat} {ok : List W64 → Prop} {plan : Tile → List W64 → Plan}
    (hi : exec i s = runWord s { srcs := [x] } plan) (h : ∀ v, ok v → plan (tl s) v = mtsrPlan (tl s) (slot s) num (a v)) :
    Acts s i [x] [] ok fun v u => u.atEnd (.sysreg (slot s) num (a v)) :=
  acts_of_does <| does_of (r := max (now s + 1) (now s)) hi fun v ho =>
    ⟨_, h v ho, rfl, rfl, Bool.and_false _, rfl, rfl, rfl, rfl, rfl, rfl, rfl⟩

/-- Settles O14: each accepted value gives the plan of an accepted MTSR, FMT = 15 gives the ILL plan, and BFMTn's write and read
concern the format of its bank alone. -/
theorem mtsrWordsWriteAtEndOfCycle : Obligations.MtsrWordsWriteAtEndOfCycle := by
  unfold Obligations.MtsrWordsWriteAtEndOfCycle
  intro s num x n m put
  refine ⟨acts_of_mtsrPlan (exec_mtsr num x s) fun _ _ => rfl, acts_of_mtsrPlan (exec_mtsrSrseed x s) fun _ _ => rfl,
    acts_of_mtsrPlan (exec_mtsrBfmt n x s) ?bfmt, acts_of_mtsrPlan (exec_mtsrBscl n x s) ?bscl,
    acts_of_mtsrPlan (exec_mtsrCntsel m x s) ?cntsel, ills_of (exec_mtsrBfmt n x s) ?ill, ?write, ?read⟩
  case bfmt =>
    rintro v ⟨hfmt, hservice⟩
    exact if_neg (by simp [hfmt, State.lacks_eq_false_iff.2 hservice])
  case bscl =>
    rintro v ⟨hgsz, halign, hrange⟩
    exact (if_neg hgsz).trans <| (if_neg (not_not.2 halign)).trans <| if_neg (Nat.not_le.2 hrange)
  case cntsel => exact fun v hcode => if_neg (Nat.not_lt.2 hcode)
  case ill => exact fun v hfmt => congrArg Plan.trap (if_pos (.inl hfmt))
  case write =>
    intro t k v
    simp only [Tile.endWrite, Tile.writeSys_bfmt, and_self]
  case read => exact fun j k => ⟨State.readSys_bfmt s j k n, State.reset_bfmt j n⟩

end Sys2Proof.Laws
end

section
/-! The setup words of slot M, MSTAT and MWAIT (06 R150, R152, R160): what their writes change as they land, and at the end of
the cycle. -/

namespace Sys2Proof.Machine

/-! ### A write that lands (03 R55) -/

/-- A single scheduled write that is due is the one that is made, whichever slot's it is. -/
theorem Tile.applyDue_eng_of_pend {t : Tile} {p : PendW} (hpend : t.pend = [p]) (hdue : p.at_ ≤ t.cyc) :
    t.applyDue.eng = (t.apply p.tgt).eng := by
  have hfilter : t.pend.filter (fun q => q.at_ ≤ t.cyc) = [p] := by simp [hpend, hdue]
  obtain ⟨at_, k, iss, pc, w⟩ := p
  unfold Tile.applyDue
  dsimp only
  rw [hfilter]
  cases k <;> rfl

/-! ### The end of the cycle of an MSTAT (06 R160) -/

/-- Of the bits of MST's flags that a mask names, those go that the engine has not set in the cycle. -/
theorem Tile.getLsbD_flags_endWrite_mstat (t : Tile) (m : W64) {i : Nat} (hi : i < 6) :
    (t.endWrite (.mstat m)).eng.flags.getLsbD i = (t.eng.flags.getLsbD i && !(m.getLsbD i && !t.nowM.getLsbD i)) := by
  have hwidth : i < 7 := by omega
  have hmask : (0x3F#7).getLsbD i = true :=
    (by decide : ∀ i, i < 6 → (0x3F#7).getLsbD i = true) i hi
  change (t.eng.flags &&& ~~~(m.setWidth 7 &&& 0x3F#7 &&& ~~~t.nowM)).getLsbD i = _
  simp only [BitVec.getLsbD_and, BitVec.getLsbD_not, BitVec.getLsbD_setWidth, hmask, hwidth, decide_true, Bool.true_and,
    Bool.and_true]

end Sys2Proof.Machine

namespace Sys2Proof.Laws

open Sys2Proof.Machine Sys2Proof.Claim

/-- A setup word schedules its write for the next cycle, and retires as it lands (06 R150). -/
theorem does_of_setupWord {s : State} {i : Instr} {srcs : List Src} {ok : List W64 → Prop} {w : List W64 → Tgt}
    (hi : exec i s = setupWord s srcs w) :
    Does s i srcs [] (now s + 1) ok fun v u => u.sched .m (u.cyc + 1) (w v) :=
  does_of hi fun _ _ => ⟨_, rfl, rfl, rfl, Bool.and_false _, rfl, rfl, rfl, max_eq_left (Nat.le_succ _), rfl, rfl, rfl⟩

/-- MSTAT reads MST as it issues, and leaves the clearing to the end of the cycle (06 R160). -/
theorem does_mstat (s : State) (d : Fin 32) (x : Src) (ok : List W64 → Prop) :
    Does s (.mstat d x) [x] [(.s d, 2)] (now s + 2) ok fun v u =>
      (u.schedS .m d (u.cyc + 2) u.eng.mst).atEnd (.mstat (a v)) :=
  does_of (exec_mstat d x s) fun _ _ =>
    ⟨_, rfl, rfl, rfl, Bool.and_false _, rfl, rfl, rfl, max_eq_left (Nat.le_add_right _ 2), rfl, rfl, rfl⟩

/-- MWAIT issues when the engine is free, and does nothing (06 R152). -/
theorem does_mwait {s : State} (hfree : (tl s).eng.busy = false) (ok : List W64 → Prop) :
    Does s .mwait [] [] (now s) ok fun _ u => u :=
  have hwait : (tl s).busyWait = none := if_neg (by simp [hfree])
  does_of (exec_mwait s) fun _ _ => ⟨_, rfl, rfl, rfl, Bool.and_false _, hwait, rfl, rfl, max_self _, rfl, rfl, rfl⟩

/-- MWAIT stalls while the engine is busy (06 R152). -/
theorem stalls_mwait {s : State} (hbusy : (tl s).eng.busy = true) (ok : List W64 → Prop) :
    Stalls s .mwait [] [] .busy ok :=
  stalls_of (by decide) (exec_mwait s) fun _ _ => ⟨_, rfl, rfl, rfl, Bool.and_false _, if_pos hbusy, rfl⟩

/-- Settles O21: the four setup words are one word by their target, whose write as it lands changes its shadow alone; MSTAT's
clearing keeps what the engine sets in the cycle; and MWAIT's only wait is the engine's. -/
theorem matrixSetupWords : Obligations.MatrixSetupWords := by
  unfold Obligations.MatrixSetupWords
  intro s lvl src acc init d x y put stat
  refine ⟨does_of_setupWord (exec_mln lvl x s), does_of_setupWord (exec_mopa src x y s),
    does_of_setupWord (exec_mopb src x y s), does_of_setupWord (exec_macc acc init s), acts_of_does (does_mstat s d x _),
    fun _ => does_mstat s d x _, fun hfree => does_mwait hfree _, fun hbusy => stalls_mwait hbusy _, ?lands, ?clears⟩
  case lands =>
    intro t at_ iss pc w p q hpend hdue u
    have heng : u.eng = (t.apply w).eng := Tile.applyDue_eng_of_pend hpend hdue
    refine ⟨?level, ?descA, ?descB, ?macc⟩ <;> (rintro rfl; exact heng)
  case clears =>
    exact fun t m => ⟨fun _ hi => t.getLsbD_flags_endWrite_mstat m hi, rfl, rfl, rfl, rfl, rfl, rfl, rfl, rfl⟩

end Sys2Proof.Laws
end

section
/-! Every well-formed instruction has a word that decodes to it (03 R40 to R66): what each shape of word is read as, that no operand
of a word outside slot C names a queue, and the round trip from these. -/

namespace Sys2Proof.Laws

/-! ### Immediates across several fields -/

/-- A 24-bit immediate is its four parts, joined. -/
theorem join_imm24 (d : BitVec 24) :
    d.extractLsb' 18 6 ++ d.extractLsb' 12 6 ++ d.extractLsb' 6 6 ++ d.extractLsb' 0 6 = d := by
  rw [BitVec.extractLsb'_append_extractLsb'_eq_extractLsb' (by rfl), BitVec.extractLsb'_append_extractLsb'_eq_extractLsb' (by rfl),
    BitVec.extractLsb'_append_extractLsb'_eq_extractLsb' (by rfl)]
  exact ext_self d

/-- The same of the 18 bits of a loop's end. -/
theorem join_imm18 (e : BitVec 18) : e.extractLsb' 12 6 ++ e.extractLsb' 6 6 ++ e.extractLsb' 0 6 = e := by
  rw [BitVec.extractLsb'_append_extractLsb'_eq_extractLsb' (by rfl), BitVec.extractLsb'_append_extractLsb'_eq_extractLsb' (by rfl)]
  exact ext_self e

end Sys2Proof.Laws
end
namespace Sys2Proof.Laws

/-! ### Operands that name no queue (03 R45, R51 step 2) -/

/-- An operand code that a slot may hold: in a slot other than C it is neither LQ's nor SQ's. -/
def NoQueue (k : Slot) (code : BitVec 6) : Prop := k ≠ .c → code ≠ 48 ∧ code ≠ 49

theorem noQueue_src {k : Slot} {a : Src} (h : a.okS k = true) : NoQueue k (srcCode a) := by
  intro hk
  cases a with
  | s n => clear h; revert n; decide
  | x n => clear h; revert n; decide
  | lq => exact absurd (beq_iff_eq.1 h) hk
  | k => decide
  | con n => clear h; revert n; decide

theorem noQueue_q {a : Src} (k : Slot) (h : a.okQ = true) : NoQueue k (srcCode a) := by
  cases a with
  | lq => cases h
  | s n => exact noQueue_src (a := .s n) rfl
  | x n => exact noQueue_src (a := .x n) rfl
  | k => exact noQueue_src (a := .k) rfl
  | con n => exact noQueue_src (a := .con n) rfl

theorem noQueue_dst {k : Slot} {d : Dst} (h : d.ok k = true) : NoQueue k (dstCode d) := by
  intro hk
  cases d with
  | s n => clear h; revert n; decide
  | sq => exact absurd (beq_iff_eq.1 h) hk

theorem noQueue_xdst {k : Slot} {d : XDst} (h : d.ok k = true) : NoQueue k (xdstCode d) := by
  intro hk
  cases d with
  | s n => clear h; revert n; decide
  | x n => clear h; revert n; decide
  | sq => exact absurd (beq_iff_eq.1 h) hk

@[simp] theorem noQueue_reg (k : Slot) (n : Fin 32) : NoQueue k (regCode n) := fun _ => by revert n; decide

@[simp] theorem noQueue_grd (k : Slot) (n : Fin 8) : NoQueue k (grdCode n) := fun _ => by revert n; decide

/-- The operands of a word, by the kinds of its fields. -/
def OperandsOk (k : Slot) (f : Fields) (ks : List FieldKind) : Prop := ∀ p ∈ f.operands ks, NoQueue k p.2

/-- A word whose operands name no queue holds neither code of a queue. -/
theorem usesQueue_eq_false {k : Slot} {f : Fields} {ks : List FieldKind} (hkinds : fieldKinds f.op = some ks)
    (h : OperandsOk k f ks) (hk : k ≠ .c) : f.usesQueue = false := by
  have hold (code : BitVec 6) (hcode : code = 48 ∨ code = 49) : f.holds code = false := by
    simp only [Fields.holds, hkinds, List.any_eq_false, beq_iff_eq]
    intro p hp he
    obtain ⟨hlq, hsq⟩ := h p hp hk
    exact hcode.elim (fun hc => hlq (he.trans hc)) fun hc => hsq (he.trans hc)
  rw [Fields.usesQueue, hold 48 (.inl rfl), hold 49 (.inr rfl), Bool.or_self]

/-! ### The round trip of a word, from its fields (03 R51) -/

/-- An instruction has a word in a slot that decodes to it and its control fields. -/
def Encodes (k : Slot) (c : Ctl) (i : Instr) : Prop := ∃ w, encode c i = some w ∧ decode k w = .ok (c, i)

/-- An instruction whose fields pass the three steps of 03 R51 has a word. -/
theorem encodes_of_fields {k : Slot} {c : Ctl} {i : Instr} {hint : BitVec 2} {op : BitVec 10} {f0 f1 f2 f3 f4 : BitVec 6}
    {ks : List FieldKind} (henc : encode c i = some (fields c hint op f0 f1 f2 f3 f4).toWord) (hkinds : fieldKinds op = some ks)
    (hslot : opSlot op k = true) (hhint : memWord op = true ∨ hint = 0)
    (hqueue : OperandsOk k (fields c hint op f0 f1 f2 f3 f4) ks)
    (hbody : decodeBody (fields c hint op f0 f1 f2 f3 f4) = some i) : Encodes k c i := by
  have hbf : op ≠ 0x0BF#10 := by rintro rfl; cases hkinds
  have hbe : op ≠ 0x0BE#10 := by rintro rfl; cases hkinds
  refine ⟨_, henc, decode_fields hbf hbe ?_⟩
  have hq : (k != .c && (fields c hint op f0 f1 f2 f3 f4).usesQueue) = false := by
    by_cases hk : k = .c
    · simp [hk]
    · rw [usesQueue_eq_false hkinds hqueue hk, Bool.and_false]
  have hm : memWord op = false → hint = 0 := fun h => hhint.resolve_left (by simp [h])
  unfold decodeFields
  rw [hq, codeCtl_fields, hbody]
  simpa [fields, hkinds, hslot] using hm

end Sys2Proof.Laws
namespace Sys2Proof.Laws

/-! ### Fields that hold a small number -/

section
variable (c : Ctl) (h : BitVec 2) (op : BitVec 10)

@[simp] theorem codeMf_fields (m : MemF) (f0 f1 f2 f3 : BitVec 6) :
    codeMf (fields c (hintCode m.hint) op f0 f1 f2 f3 (clsCode m)) = some m := by
  obtain ⟨hint, cls⟩ := m
  have hcls : cls.toNat < 16 := cls.isLt
  simp [codeMf, fields, clsCode, Nat.mod_eq_of_lt (show cls.toNat < 64 by omega), hcls]

/-! ### What each shape of word is read as (03 R61 to R66) -/

variable {a b e g : Src} {d : Dst} {r n m o : Fin 32} {md : Mode} {x y z : Fin 8}

theorem rdZ_fields (i : Instr) : rdZ i (fields c h op 0 0 0 0 0) = some i := by simp [rdZ, fields]

theorem rdDss_fields (I : Dst → Src → Src → Instr) :
    rdDss I (fields c h op (dstCode d) (srcCode a) (srcCode b) 0 0) = some (I d a b) := by simp [rdDss, fields]

theorem rdSel_fields : rdSel (fields c h op (dstCode d) (grdCode x) (srcCode a) (srcCode b) 0) = some (.sel d x a b) := by
  simp [rdSel, fields]

theorem rdMovk_fields (imm : BitVec 24) : rdMovk (fields c h op (dstCode d) (imm.extractLsb' 18 6) (imm.extractLsb' 12 6)
    (imm.extractLsb' 6 6) (imm.extractLsb' 0 6)) = some (.movk d imm) := by
  simp [rdMovk, fields, Fields.imm24, join_imm24]

theorem rdMovkh_fields (imm : BitVec 20) : rdMovkh (fields c h op (regCode r) (BitVec.ofNat 6 (imm.toNat / 0x40000))
    (imm.extractLsb' 12 6) (imm.extractLsb' 6 6) (imm.extractLsb' 0 6)) = some (.movkh r imm) := by
  have hdiv : imm.toNat / 0x40000 < 4 := by have := imm.isLt; omega
  have hjoin : (BitVec.ofNat 6 (imm.toNat / 0x40000) ++ imm.extractLsb' 12 6 ++ imm.extractLsb' 6 6 ++
      imm.extractLsb' 0 6).setWidth 20 = imm := by
    have htop : BitVec.ofNat 6 (imm.toNat / 0x40000) = (imm.setWidth 24).extractLsb' 18 6 := by
      apply BitVec.eq_of_toNat_eq
      simp [BitVec.extractLsb'_toNat, Nat.shiftRight_eq_div_pow, Nat.mod_eq_of_lt (show imm.toNat < 16777216 by omega)]
    have hlow (lo : Nat) (hlo : lo + 6 ≤ 20) : imm.extractLsb' lo 6 = (imm.setWidth 24).extractLsb' lo 6 := by
      ext i hi
      simp [show lo + i < 24 by omega]
    rw [htop, hlow 12 (by decide), hlow 6 (by decide), hlow 0 (by decide), join_imm24]
    simp
  simp [rdMovkh, fields, Fields.imm24, hjoin, Nat.mod_eq_of_lt (show imm.toNat / 0x40000 < 64 by omega), hdiv]

theorem rdXmov_fields (d : XDst) : rdXmov (fields c h op (xdstCode d) (srcCode a) 0 0 0) = some (.xmov d a) := by
  simp [rdXmov, fields]

theorem rdRgn_fields (fmt : BitVec 4) (list : Bool) : rdRgn (fields c h op (dstCode d) (srcCode a) (srcCode b) (srcCode e)
    (BitVec.ofNat 6 (fmt.toNat + 16 * list.toNat))) = some (.rgn d a b e fmt list) := by
  have hcode : (BitVec.ofNat 6 (fmt.toNat + 16 * list.toNat)).toNat < 32 ∧
      (BitVec.ofNat 6 (fmt.toNat + 16 * list.toNat)).setWidth 4 = fmt ∧
      (BitVec.ofNat 6 (fmt.toNat + 16 * list.toNat)).getLsbD 4 = list := by revert fmt list; decide
  obtain ⟨hlt, hfmt, hlist⟩ := hcode
  simp only [rdRgn, fields, codeDst_dstCode, codeSrc_srcCode, hlt, if_true, hfmt, hlist]

theorem rdDs_fields (I : Dst → Src → Instr) : rdDs I (fields c h op (dstCode d) (srcCode a) 0 0 0) = some (I d a) := by
  simp [rdDs, fields]

theorem rdExtr_fields {pos len : BitVec 6} (hlen : pos.toNat + len.toNat + 1 ≤ 64) :
    rdExtr (fields c h op (dstCode d) (srcCode a) pos len 0) = some (.extr d a pos len) := by
  simp [rdExtr, fields, hlen]

theorem rdIns_fields {pos len : BitVec 6} (hlen : pos.toNat + len.toNat + 1 ≤ 64) :
    rdIns (fields c h op (regCode r) (srcCode a) pos len 0) = some (.ins r a pos len) := by
  simp [rdIns, fields, hlen]

theorem rdGgg_fields (I : Fin 8 → Fin 8 → Fin 8 → Instr) :
    rdGgg I (fields c h op (grdCode x) (grdCode y) (grdCode z) 0 0) = some (I x y z) := by simp [rdGgg, fields]

theorem rdGg_fields (I : Fin 8 → Fin 8 → Instr) : rdGg I (fields c h op (grdCode x) (grdCode y) 0 0 0) = some (I x y) := by
  simp [rdGg, fields]

theorem rdGss_fields (I : Fin 8 → Src → Src → Instr) :
    rdGss I (fields c h op (grdCode x) (srcCode a) (srcCode b) 0 0) = some (I x a b) := by simp [rdGss, fields]

theorem rdDisp_fields (I : BitVec 24 → Instr) (disp : BitVec 24) : rdDisp I (fields c h op 0 (disp.extractLsb' 18 6)
    (disp.extractLsb' 12 6) (disp.extractLsb' 6 6) (disp.extractLsb' 0 6)) = some (I disp) := by
  simp [rdDisp, fields, Fields.imm24, join_imm24]

theorem rdS1_fields (I : Src → Instr) : rdS1 I (fields c h op 0 (srcCode a) 0 0 0) = some (I a) := by simp [rdS1, fields]

theorem rdCall_fields (disp : BitVec 24) : rdCall (fields c h op (regCode r) (disp.extractLsb' 18 6)
    (disp.extractLsb' 12 6) (disp.extractLsb' 6 6) (disp.extractLsb' 0 6)) = some (.call r disp) := by
  simp [rdCall, fields, Fields.imm24, join_imm24]

theorem rdLoop_fields {stop : BitVec 18} (hstop : stop ≠ 0) : rdLoop (fields c h op 0 (srcCode a) (stop.extractLsb' 12 6)
    (stop.extractLsb' 6 6) (stop.extractLsb' 0 6)) = some (.loop a stop) := by
  simpa [rdLoop, fields, join_imm18] using hstop

theorem rdMfsr_fields {num : BitVec 6} (hnum : sregDefined num = true) :
    rdMfsr (fields c h op (dstCode d) num 0 0 0) = some (.mfsr d num) := by simp [rdMfsr, fields, hnum]

theorem rdR3m_fields (I : Fin 32 → Fin 32 → Fin 32 → Mode → Instr) :
    rdR3m I (fields c h op (regCode r) (regCode n) (regCode m) 0 (modeCode md)) = some (I r n m md) := by simp [rdR3m, fields]

theorem rdR4m_fields (I : Fin 32 → Fin 32 → Fin 32 → Fin 32 → Mode → Instr) :
    rdR4m I (fields c h op (regCode r) (regCode n) (regCode m) (regCode o) (modeCode md)) = some (I r n m o md) := by
  simp [rdR4m, fields]

theorem rdR2m_fields (I : Fin 32 → Fin 32 → Mode → Instr) :
    rdR2m I (fields c h op (regCode r) (regCode n) 0 0 (modeCode md)) = some (I r n md) := by simp [rdR2m, fields]

theorem rdR3_fields (I : Fin 32 → Fin 32 → Fin 32 → Instr) :
    rdR3 I (fields c h op (regCode r) (regCode n) (regCode m) 0 0) = some (I r n m) := by simp [rdR3, fields]

theorem rdR4_fields (I : Fin 32 → Fin 32 → Fin 32 → Fin 32 → Instr) :
    rdR4 I (fields c h op (regCode r) (regCode n) (regCode m) (regCode o) 0) = some (I r n m o) := by simp [rdR4, fields]

theorem rdR2r_fields (I : Fin 32 → Fin 32 → Rnd → Instr) (q : Rnd) :
    rdR2r I (fields c h op (regCode r) (regCode n) 0 0 (rndCode q)) = some (I r n q) := by simp [rdR2r, fields]

theorem rdR2_fields (I : Fin 32 → Fin 32 → Instr) : rdR2 I (fields c h op (regCode r) (regCode n) 0 0 0) = some (I r n) := by
  simp [rdR2, fields]

theorem rdR3r_fields (I : Fin 32 → Fin 32 → Fin 32 → Rnd → Instr) (q : Rnd) :
    rdR3r I (fields c h op (regCode r) (regCode n) (regCode m) 0 (rndCode q)) = some (I r n m q) := by simp [rdR3r, fields]

theorem rdR5_fields (I : Fin 32 → Fin 32 → Fin 32 → Fin 32 → Fin 32 → Instr) {d0 d1 d2 d3 : Fin 32}
    (hnodup : [d0, d1, d2, d3].Nodup) : rdR5 I (fields c h op (regCode d0) (regCode d1) (regCode d2) (regCode d3) (regCode o)) =
      some (I d0 d1 d2 d3 o) := by
  simp only [rdR5, fields, codeReg_regCode, if_pos hnodup]

end

end Sys2Proof.Laws
namespace Sys2Proof.Laws

section
variable (c : Ctl) (h : BitVec 2) (op : BitVec 10) {a b e g p : Src} {r n m o : Fin 32} {md : Mode}

/-! ### The same, of words whose operands do not accept LQ -/

section
variable (ha : a.okQ = true) (hb : b.okQ = true) (he : e.okQ = true) (hg : g.okQ = true) (hp : p.okQ = true)
include ha

theorem rdQ1_fields (I : Src → Instr) : rdQ1 I (fields c h op 0 (srcCode a) 0 0 0) = some (I a) := by
  simp [rdQ1, fields, codeQ_srcCode ha]

theorem rdRq_fields (I : Fin 32 → Src → Instr) : rdRq I (fields c h op (regCode r) (srcCode a) 0 0 0) = some (I r a) := by
  simp [rdRq, fields, codeQ_srcCode ha]

theorem rdVq_fields (I : Fin 32 → Src → Instr) : rdVq I (fields c h op (regCode r) (srcCode a) 0 0 0) = some (I r a) := by
  simp [rdVq, fields, codeQ_srcCode ha]

theorem rdVqc_fields (I : Fin 32 → Src → Bool → Instr) (z : Bool) :
    rdVqc I (fields c h op (regCode r) (srcCode a) (bitCode z) 0 0) = some (I r a z) := by
  simp [rdVqc, fields, codeQ_srcCode ha]

theorem rdQ0_fields (I : Src → Instr) : rdQ0 I (fields c h op (srcCode a) 0 0 0 0) = some (I a) := by
  simp [rdQ0, fields, codeQ_srcCode ha]

theorem rdMln_fields (lvl : Fin 6) : rdMln (fields c h op (BitVec.ofNat 6 lvl.val) (srcCode a) 0 0 0) = some (.mln lvl a) := by
  simp [rdMln, fields, codeQ_srcCode ha, Nat.mod_eq_of_lt (show lvl.val < 64 by omega)]

include hb

theorem rdQq_fields (I : Src → Src → Instr) : rdQq I (fields c h op 0 (srcCode a) (srcCode b) 0 0) = some (I a b) := by
  simp [rdQq, fields, codeQ_srcCode ha, codeQ_srcCode hb]

theorem rdQ0q1_fields (I : Src → Src → Instr) : rdQ0q1 I (fields c h op (srcCode a) (srcCode b) 0 0 0) = some (I a b) := by
  simp [rdQ0q1, fields, codeQ_srcCode ha, codeQ_srcCode hb]

theorem rdRqq_fields (I : Fin 32 → Src → Src → Instr) :
    rdRqq I (fields c h op (regCode r) (srcCode a) (srcCode b) 0 0) = some (I r a b) := by
  simp [rdRqq, fields, codeQ_srcCode ha, codeQ_srcCode hb]

theorem rdVqq_fields (I : Fin 32 → Src → Src → Instr) :
    rdVqq I (fields c h op (regCode r) (srcCode a) (srcCode b) 0 0) = some (I r a b) := by
  simp [rdVqq, fields, codeQ_srcCode ha, codeQ_srcCode hb]

theorem rdVqqb_fields (I : Fin 32 → Src → Src → Bool → Instr) (z : Bool) :
    rdVqqb I (fields c h op (regCode r) (srcCode a) (srcCode b) (bitCode z) 0) = some (I r a b z) := by
  simp [rdVqqb, fields, codeQ_srcCode ha, codeQ_srcCode hb]

theorem rdLrpatch_fields (l : Fin 21) :
    rdLrpatch (fields c h op (regCode r) (srcCode a) (srcCode b) (BitVec.ofNat 6 l.val) 0) = some (.lrpatch r a b l) := by
  simp [rdLrpatch, fields, codeQ_srcCode ha, codeQ_srcCode hb, Nat.mod_eq_of_lt (show l.val < 64 by omega)]

theorem rdMld_fields (I : Bool → Src → Src → Instr) (z : Bool) :
    rdMld I (fields c h op (bitCode z) (srcCode a) (srcCode b) 0 0) = some (I z a b) := by
  simp [rdMld, fields, codeQ_srcCode ha, codeQ_srcCode hb]

/-- With a register SRC the descriptor's two operands are s0, whose code is zero (06 R149). -/
theorem rdMop_fields (I : Fin 3 → Src → Src → Instr) {k : Fin 3} (hk : k = 0 ∨ (a = .s 0 ∧ b = .s 0)) :
    rdMop I (fields c h op 0 (srcCode a) (srcCode b) (BitVec.ofNat 6 k.val) 0) = some (I k a b) := by
  have hval : (BitVec.ofNat 6 k.val).toNat = k.val := Nat.mod_eq_of_lt (show k.val < 64 by omega)
  have hzero : BitVec.ofNat 6 k.val = 0 ∨ (srcCode a = 0 ∧ srcCode b = 0) := by
    rcases hk with rfl | ⟨rfl, rfl⟩
    · exact .inl rfl
    · exact .inr ⟨rfl, rfl⟩
  simp only [rdMop, fields, codeQ_srcCode ha, codeQ_srcCode hb, hval]
  rw [if_pos ⟨trivial, trivial, k.isLt, hzero⟩, Fin.ofNat_val_eq_self]

theorem rdMdrain_fields (acc : Fin 4) (zero : Bool) : rdMdrain (fields c h op 0 (srcCode a) (srcCode b)
    (BitVec.ofNat 6 (acc.val + 4 * zero.toNat)) (modeCode md)) = some (.mdrain a b acc zero md) := by
  have hcode : (BitVec.ofNat 6 (acc.val + 4 * zero.toNat)).toNat < 8 ∧
      Fin.ofNat 4 ((BitVec.ofNat 6 (acc.val + 4 * zero.toNat)).toNat % 4) = acc ∧
      (BitVec.ofNat 6 (acc.val + 4 * zero.toNat)).getLsbD 2 = zero := by revert acc zero; decide
  obtain ⟨hlt, hacc, hzero⟩ := hcode
  simp only [rdMdrain, fields, codeQ_srcCode ha, codeQ_srcCode hb, codeMode_modeCode, hlt, hacc, hzero, and_self, if_true]

theorem rdLdst_fields (I : LdSt → Instr) (sh : Fin 4) (mf : MemF) : rdLdst I (fields c (hintCode mf.hint) op 0 (srcCode a) (srcCode b)
    (BitVec.ofNat 6 sh.val) (clsCode mf)) = some (I ⟨a, b, sh, mf⟩) := by
  unfold rdLdst
  rw [codeMf_fields]
  simp [fields, codeQ_srcCode ha, codeQ_srcCode hb, Nat.mod_eq_of_lt (show sh.val < 64 by omega)]

theorem rdAtom_fields (I : Atom → Instr) (z : Bool) (mf : MemF) : rdAtom I (fields c (hintCode mf.hint) op 0 (srcCode a) (srcCode b)
    (bitCode z) (clsCode mf)) = some (I ⟨a, b, z, mf⟩) := by
  unfold rdAtom
  rw [codeMf_fields]
  simp [fields, codeQ_srcCode ha, codeQ_srcCode hb]

/-- The float forms take SZ = 0 (11 R226). -/
theorem rdAtomf_fields (I : Atom → Instr) {z : Bool} (hz : z = false) (mf : MemF) : rdAtomf I (fields c (hintCode mf.hint) op 0
    (srcCode a) (srcCode b) (bitCode z) (clsCode mf)) = some (I ⟨a, b, z, mf⟩) := by
  subst hz
  exact (if_pos rfl).trans (rdAtom_fields c op ha hb I false mf)

include he

theorem rdQ3m_fields (I : Src → Src → Src → MemF → Instr) (mf : MemF) :
    rdQ3m I (fields c (hintCode mf.hint) op (srcCode a) (srcCode b) (srcCode e) 0 (clsCode mf)) = some (I a b e mf) := by
  unfold rdQ3m
  rw [codeMf_fields]
  simp [fields, codeQ_srcCode ha, codeQ_srcCode hb, codeQ_srcCode he]

include hg

theorem rdCpy_fields (I : Src → Src → Src → Src → MemF → Instr) (mf : MemF) :
    rdCpy I (fields c (hintCode mf.hint) op (srcCode a) (srcCode b) (srcCode e) (srcCode g) (clsCode mf)) =
      some (I a b e g mf) := by
  unfold rdCpy
  rw [codeMf_fields]
  simp [fields, codeQ_srcCode ha, codeQ_srcCode hb, codeQ_srcCode he, codeQ_srcCode hg]

include hp

theorem rdQ5_fields (I : Src → Src → Src → Src → Src → Instr) :
    rdQ5 I (fields c h op (srcCode a) (srcCode b) (srcCode e) (srcCode g) (srcCode p)) = some (I a b e g p) := by
  simp [rdQ5, fields, codeQ_srcCode ha, codeQ_srcCode hb, codeQ_srcCode he, codeQ_srcCode hg, codeQ_srcCode hp]

end

theorem rdMacc_fields (acc : Fin 4) (init : Bool) :
    rdMacc (fields c h op 0 (BitVec.ofNat 6 acc.val) (bitCode init) 0 0) = some (.macc acc init) := by
  simp [rdMacc, fields, Nat.mod_eq_of_lt (show acc.val < 64 by omega)]

theorem rdMbya_fields (reg : Bool) (acc : Fin 4) (zero : Bool) {fmt : BitVec 6} (hfmt : mbyaFmt fmt = true) :
    rdMbya (fields c h op (bitCode reg) (BitVec.ofNat 6 (acc.val + 4 * zero.toNat)) fmt 0 (modeCode md)) =
      some (.mbya reg acc zero fmt md) := by
  have hcode : (BitVec.ofNat 6 (acc.val + 4 * zero.toNat)).toNat < 8 ∧
      Fin.ofNat 4 ((BitVec.ofNat 6 (acc.val + 4 * zero.toNat)).toNat % 4) = acc ∧
      (BitVec.ofNat 6 (acc.val + 4 * zero.toNat)).getLsbD 2 = zero := by revert acc zero; decide
  obtain ⟨hlt, hacc, hzero⟩ := hcode
  simp only [rdMbya, fields, codeBit_bitCode, codeMode_modeCode, hlt, hacc, hzero, hfmt, and_self, if_true]

theorem rdTokcnt_fields {i j : Fin 4} (hij : i ≠ j) : rdTokcnt (fields c h op (regCode r) (BitVec.ofNat 6 i.val)
    (BitVec.ofNat 6 j.val) 0 0) = some (.tokcnt r i j) := by
  have hcode : (BitVec.ofNat 6 i.val).toNat < 4 ∧ (BitVec.ofNat 6 j.val).toNat < 4 ∧ BitVec.ofNat 6 i.val ≠ BitVec.ofNat 6 j.val ∧
      Fin.ofNat 4 (BitVec.ofNat 6 i.val).toNat = i ∧ Fin.ofNat 4 (BitVec.ofNat 6 j.val).toNat = j := by
    revert i j; decide
  obtain ⟨hi, hj, hne, hsrc, hdst⟩ := hcode
  simp only [rdTokcnt, fields, codeReg_regCode]
  rw [if_pos ⟨hi, hj, hne, trivial, trivial⟩, hsrc, hdst]

/-! ### MTSR, by its register number (05 R112) -/

/-- The instruction that MTSR is with a given number. -/
def mtsrOf (num : BitVec 6) (a : Src) : Instr :=
  if num.toNat = 7 then .mtsrSrseed a
  else if 16 ≤ num.toNat ∧ num.toNat < 28 then .mtsrBfmt (Fin.ofNat 12 (num.toNat - 16)) a
  else if 32 ≤ num.toNat ∧ num.toNat < 44 then .mtsrBscl (Fin.ofNat 12 (num.toNat - 32)) a
  else if 48 ≤ num.toNat ∧ num.toNat < 56 then .mtsrCntsel (Fin.ofNat 8 (num.toNat - 48)) a
  else .mtsr num a

theorem rdMtsr_fields {num : BitVec 6} (hnum : sregDefined num = true) :
    rdMtsr (fields c h op num (srcCode a) 0 0 0) = some (mtsrOf num a) := by
  simp only [rdMtsr, fields, codeSrc_srcCode, hnum, and_self, if_true, mtsrOf, apply_ite some]
  rfl

theorem mtsrOf_bfmt (n : Fin 12) : mtsrOf (BitVec.ofNat 6 (16 + n.val)) a = .mtsrBfmt n a := by
  have hnum : (BitVec.ofNat 6 (16 + n.val)).toNat = 16 + n.val := Nat.mod_eq_of_lt (show 16 + n.val < 64 by omega)
  unfold mtsrOf
  rw [hnum, if_neg (by omega), if_pos (by omega), Nat.add_sub_cancel_left, Fin.ofNat_val_eq_self]

theorem mtsrOf_bscl (n : Fin 12) : mtsrOf (BitVec.ofNat 6 (32 + n.val)) a = .mtsrBscl n a := by
  have hnum : (BitVec.ofNat 6 (32 + n.val)).toNat = 32 + n.val := Nat.mod_eq_of_lt (show 32 + n.val < 64 by omega)
  unfold mtsrOf
  rw [hnum, if_neg (by omega), if_neg (by omega), if_pos (by omega), Nat.add_sub_cancel_left, Fin.ofNat_val_eq_self]

theorem mtsrOf_cntsel (n : Fin 8) : mtsrOf (BitVec.ofNat 6 (48 + n.val)) a = .mtsrCntsel n a := by
  have hnum : (BitVec.ofNat 6 (48 + n.val)).toNat = 48 + n.val := Nat.mod_eq_of_lt (show 48 + n.val < 64 by omega)
  unfold mtsrOf
  rw [hnum, if_neg (by omega), if_neg (by omega), if_neg (by omega), if_pos (by omega), Nat.add_sub_cancel_left,
    Fin.ofNat_val_eq_self]

/-- A number without a row of its own is the register's own (05 R112). -/
theorem mtsrOf_plain {num : BitVec 6} (hrow : sregOwnRow num = false) : mtsrOf num a = .mtsr num a := by
  simp only [sregOwnRow, Bool.or_eq_false_iff, beq_eq_false_iff_ne, ne_eq, Bool.and_eq_false_iff, decide_eq_false_iff_not] at hrow
  unfold mtsrOf
  rw [if_neg (by omega), if_neg (by omega), if_neg (by omega), if_neg (by omega)]

end

end Sys2Proof.Laws
namespace Sys2Proof.Laws

/-! ### Every instruction -/

section
variable {k : Slot} {x1 x2 x3 x4 x5 : FieldKind} {c1 c2 c3 c4 c5 : BitVec 6}

theorem operands_none : ∀ q ∈ ([] : List (FieldKind × BitVec 6)), NoQueue k q.2 := by simp

theorem operands_one (h1 : NoQueue k c1) : ∀ q ∈ [(x1, c1)], NoQueue k q.2 := by simp [h1]

theorem operands_two (h1 : NoQueue k c1) (h2 : NoQueue k c2) : ∀ q ∈ [(x1, c1), (x2, c2)], NoQueue k q.2 := by simp [h1, h2]

theorem operands_three (h1 : NoQueue k c1) (h2 : NoQueue k c2) (h3 : NoQueue k c3) :
    ∀ q ∈ [(x1, c1), (x2, c2), (x3, c3)], NoQueue k q.2 := by simp [h1, h2, h3]

theorem operands_four (h1 : NoQueue k c1) (h2 : NoQueue k c2) (h3 : NoQueue k c3) (h4 : NoQueue k c4) :
    ∀ q ∈ [(x1, c1), (x2, c2), (x3, c3), (x4, c4)], NoQueue k q.2 := by simp [h1, h2, h3, h4]

theorem operands_five (h1 : NoQueue k c1) (h2 : NoQueue k c2) (h3 : NoQueue k c3) (h4 : NoQueue k c4) (h5 : NoQueue k c5) :
    ∀ q ∈ [(x1, c1), (x2, c2), (x3, c3), (x4, c4), (x5, c5)], NoQueue k q.2 := by simp [h1, h2, h3, h4, h5]

end

/-- An instruction whose fields pass the steps of 03 R51, and whose word is read by the shape that its opcode has. -/
theorem encodes_of_shape {k : Slot} {c : Ctl} {i : Instr} {hint : BitVec 2} {op : BitVec 10} {f0 f1 f2 f3 f4 : BitVec 6}
    {ks : List FieldKind} {rd : Fields → Option Instr} (henc : encode c i = some (fields c hint op f0 f1 f2 f3 f4).toWord)
    (hkinds : fieldKinds op = some ks) (hslot : opSlot op k = true) (hhint : memWord op = true ∨ hint = 0)
    (hqueue : OperandsOk k (fields c hint op f0 f1 f2 f3 f4) ks) (hrd : rd (fields c hint op f0 f1 f2 f3 f4) = some i)
    (hmap : decodeBody (fields c hint op f0 f1 f2 f3 f4) = rd (fields c hint op f0 f1 f2 f3 f4)) : Encodes k c i :=
  encodes_of_fields henc hkinds hslot hhint hqueue (hmap.trans hrd)

section
variable {p q r s t u : Bool}

theorem and_two (h : (p && q) = true) : p = true ∧ q = true := by simpa using h

theorem and_three (h : (p && q && r) = true) : p = true ∧ q = true ∧ r = true := by simpa [and_assoc] using h

theorem and_four (h : (p && q && r && s) = true) : p = true ∧ q = true ∧ r = true ∧ s = true := by simpa [and_assoc] using h

theorem and_five (h : (p && q && r && s && t) = true) : p = true ∧ q = true ∧ r = true ∧ s = true ∧ t = true := by
  simpa [and_assoc] using h

theorem and_six (h : (p && q && r && s && t && u) = true) :
    p = true ∧ q = true ∧ r = true ∧ s = true ∧ t = true ∧ u = true := by simpa [and_assoc] using h

end

theorem sregDefined_bfmt (n : Fin 12) : sregDefined (BitVec.ofNat 6 (16 + n.val)) = true := by revert n; decide

theorem sregDefined_bscl (n : Fin 12) : sregDefined (BitVec.ofNat 6 (32 + n.val)) = true := by revert n; decide

theorem sregDefined_cntsel (n : Fin 8) : sregDefined (BitVec.ofNat 6 (48 + n.val)) = true := by revert n; decide

/-- PFX.K's word is read as it (03 R47). -/
theorem decode_pfxK (k : Slot) (v : BitVec 44) :
    decode k (0#10 ++ v.extractLsb' 30 14 ++ 0x0BF#10 ++ v.extractLsb' 0 30) = .ok (.plain, .pfxK v) := by
  have hop : (0#10 ++ v.extractLsb' 30 14 ++ 0x0BF#10 ++ v.extractLsb' 0 30).extractLsb' 30 10 = 0x0BF#10 := by
    rw [append_hi _ _ _ _ (by decide), append_lo _ _ _ _ (by decide)]
    exact ext_self _
  have htop : (0#10 ++ v.extractLsb' 30 14 ++ 0x0BF#10 ++ v.extractLsb' 0 30).extractLsb' 54 10 = 0#10 := by
    rw [append_hi _ _ _ _ (by decide), append_hi _ _ _ _ (by decide), append_hi _ _ _ _ (by decide)]
    exact ext_self _
  have hhigh : (0#10 ++ v.extractLsb' 30 14 ++ 0x0BF#10 ++ v.extractLsb' 0 30).extractLsb' 40 14 = v.extractLsb' 30 14 := by
    rw [append_hi _ _ _ _ (by decide), append_hi _ _ _ _ (by decide), append_lo _ _ _ _ (by decide)]
    exact ext_self _
  have hlow : (0#10 ++ v.extractLsb' 30 14 ++ 0x0BF#10 ++ v.extractLsb' 0 30).extractLsb' 0 30 = v.extractLsb' 0 30 := by
    rw [append_lo _ _ _ _ (by decide)]
    exact ext_self _
  have hjoin : v.extractLsb' 30 14 ++ v.extractLsb' 0 30 = v := by
    rw [BitVec.extractLsb'_append_extractLsb'_eq_extractLsb' (by rfl)]
    exact ext_self v
  unfold decode
  rw [if_pos hop]
  unfold decodePfxK
  rw [if_pos htop, hhigh, hlow, hjoin]

/-- PFX.SM's word is read as it (03 R48). -/
theorem decode_pfxSm (k : Slot) {m1 m2 m3 : SMod} (h1 : m1.legal = true) (h2 : m2.legal = true) (h3 : m3.legal = true) :
    decode k (0#10 ++ smodCode m3 ++ 0#2 ++ 0x0BE#10 ++ smodCode m1 ++ smodCode m2 ++ 0#6) = .ok (.plain, .pfxSm m1 m2 m3) := by
  obtain ⟨w, hw⟩ : ∃ w, w = 0#10 ++ smodCode m3 ++ 0#2 ++ 0x0BE#10 ++ smodCode m1 ++ smodCode m2 ++ 0#6 := ⟨_, rfl⟩
  have hop : w.extractLsb' 30 10 = 0x0BE#10 := by
    rw [hw, append_hi _ _ _ _ (by decide), append_hi _ _ _ _ (by decide), append_hi _ _ _ _ (by decide),
      append_lo _ _ _ _ (by decide)]
    exact ext_self _
  have htop : w.extractLsb' 54 10 = 0#10 := by
    rw [hw, append_hi _ _ _ _ (by decide), append_hi _ _ _ _ (by decide), append_hi _ _ _ _ (by decide),
      append_hi _ _ _ _ (by decide), append_hi _ _ _ _ (by decide), append_hi _ _ _ _ (by decide)]
    exact ext_self _
  have hgap : w.extractLsb' 40 2 = 0#2 := by
    rw [hw, append_hi _ _ _ _ (by decide), append_hi _ _ _ _ (by decide), append_hi _ _ _ _ (by decide),
      append_hi _ _ _ _ (by decide), append_lo _ _ _ _ (by decide)]
    exact ext_self _
  have hlow : w.extractLsb' 0 6 = 0#6 := by
    rw [hw, append_lo _ _ _ _ (by decide)]
    exact ext_self _
  have hm1 : w.extractLsb' 18 12 = smodCode m1 := by
    rw [hw, append_hi _ _ _ _ (by decide), append_hi _ _ _ _ (by decide), append_lo _ _ _ _ (by decide)]
    exact ext_self _
  have hm2 : w.extractLsb' 6 12 = smodCode m2 := by
    rw [hw, append_hi _ _ _ _ (by decide), append_lo _ _ _ _ (by decide)]
    exact ext_self _
  have hm3 : w.extractLsb' 42 12 = smodCode m3 := by
    rw [hw, append_hi _ _ _ _ (by decide), append_hi _ _ _ _ (by decide), append_hi _ _ _ _ (by decide),
      append_hi _ _ _ _ (by decide), append_hi _ _ _ _ (by decide), append_lo _ _ _ _ (by decide)]
    exact ext_self _
  rw [← hw]
  unfold decode
  rw [if_neg (by rw [hop]; decide), if_pos hop]
  unfold decodePfxSm
  simp only [hm1, hm2, hm3, codeSMod_smodCode]
  rw [if_pos ⟨htop, hgap, hlow, h1, h2, h3⟩]

/-- Settles O57: each instruction by the shape of its word in the opcode map; the two prefixes by their own forms. -/
theorem decodeOfEncode : Obligations.DecodeOfEncode := by
  unfold Obligations.DecodeOfEncode
  intro k c i h
  change Encodes k c i
  cases i with
  | add d a b | sub d a b | mul d a b | mulh d a b | mulhs d a b | div d a b | divs d a b | rem d a b | rems d a b | min d a b
  | mins d a b | max d a b | maxs d a b | and d a b | or d a b | xor d a b | andn d a b | shl d a b | shr d a b | sra d a b
  | rot d a b | clmul d a b | clmulh d a b =>
    obtain ⟨hd, ha, hb⟩ := and_three h
    exact encodes_of_shape rfl rfl rfl (.inr rfl) (operands_three (noQueue_dst hd) (noQueue_src ha) (noQueue_src hb))
      (rdDss_fields c 0 _ _) (by simp [decodeBody, body0, body1, fields])
  | sel d g a b =>
    obtain ⟨hd, ha, hb⟩ := and_three h
    exact encodes_of_shape rfl rfl rfl (.inr rfl) (operands_four (noQueue_dst hd) (noQueue_grd k g) (noQueue_src ha) (noQueue_src hb))
      (rdSel_fields c 0 _) (by simp [decodeBody, body0, fields])
  | movk d imm =>
    exact encodes_of_shape rfl rfl rfl (.inr rfl) (operands_one (noQueue_dst h))
      (rdMovk_fields c 0 _ imm) (by simp [decodeBody, body0, fields])
  | movkh d imm =>
    exact encodes_of_shape rfl rfl rfl (.inr rfl) (operands_one (noQueue_reg k d))
      (rdMovkh_fields c 0 _ imm) (by simp [decodeBody, body0, fields])
  | xmov d a =>
    obtain ⟨hd, ha⟩ := and_two h
    exact encodes_of_shape rfl rfl rfl (.inr rfl) (operands_two (noQueue_xdst hd) (noQueue_src ha))
      (rdXmov_fields c 0 _ d) (by simp [decodeBody, body0, fields])
  | rgn d base stride count fmt list =>
    obtain ⟨hd, hb, hs, hn⟩ := and_four h
    exact encodes_of_shape rfl rfl rfl (.inr rfl) (operands_four (noQueue_dst hd) (noQueue_src hb) (noQueue_src hs) (noQueue_src hn))
      (rdRgn_fields c 0 _ fmt list) (by simp [decodeBody, body0, fields])
  | clz d a | ctz d a | popc d a =>
    obtain ⟨hd, ha⟩ := and_two h
    exact encodes_of_shape rfl rfl rfl (.inr rfl) (operands_two (noQueue_dst hd) (noQueue_src ha))
      (rdDs_fields c 0 _ _) (by simp [decodeBody, body1, fields])
  | extr d a pos len =>
    obtain ⟨hd, ha, hlen⟩ := and_three h
    exact encodes_of_shape rfl rfl rfl (.inr rfl) (operands_two (noQueue_dst hd) (noQueue_src ha))
      (rdExtr_fields c 0 _ (of_decide_eq_true hlen)) (by simp [decodeBody, body1, fields])
  | ins d a pos len =>
    obtain ⟨ha, hlen⟩ := and_two h
    exact encodes_of_shape rfl rfl rfl (.inr rfl) (operands_two (noQueue_reg k d) (noQueue_src ha))
      (rdIns_fields c 0 _ (of_decide_eq_true hlen)) (by simp [decodeBody, body1, fields])
  | gand d x y | gor d x y =>
    exact encodes_of_shape rfl rfl rfl (.inr rfl) (operands_three (noQueue_grd k d) (noQueue_grd k x) (noQueue_grd k y))
      (rdGgg_fields c 0 _ _) (by simp [decodeBody, body1, fields])
  | gnot d x =>
    exact encodes_of_shape rfl rfl rfl (.inr rfl) (operands_two (noQueue_grd k d) (noQueue_grd k x))
      (rdGg_fields c 0 _ _) (by simp [decodeBody, body1, fields])
  | cmpEq d a b | cmpNe d a b | cmpLt d a b | cmpLts d a b | cmpLe d a b | cmpLes d a b =>
    obtain ⟨ha, hb⟩ := and_two h
    exact encodes_of_shape rfl rfl rfl (.inr rfl) (operands_three (noQueue_grd k d) (noQueue_src ha) (noQueue_src hb))
      (rdGss_fields c 0 _ _) (by simp [decodeBody, body1, fields])
  | nop | taskend | halt | qpt =>
    exact encodes_of_shape rfl rfl rfl (.inr rfl) (operands_none)
      (rdZ_fields c 0 _ _) (by simp [decodeBody, body2, body3, bodyE, fields])
  | eret | iclr | mwait | qmark | fenceSlot | fenceTile | fenceDie | fencePkg | fenceSys | acqSlot | acqTile | acqDie | acqPkg
  | acqSys | relSlot | relTile | relDie | relPkg | relSys =>
    exact encodes_of_shape rfl rfl h (.inr rfl) (operands_none)
      (rdZ_fields c 0 _ _) (by simp [decodeBody, body3, body8, bodyB, fields])
  | br disp =>
    exact encodes_of_shape rfl rfl rfl (.inr rfl) (operands_none)
      (rdDisp_fields c 0 _ _ disp) (by simp [decodeBody, body2, fields])
  | bri a | ret a | trap a =>
    exact encodes_of_shape rfl rfl rfl (.inr rfl) (operands_one (noQueue_src h))
      (rdS1_fields c 0 _ _) (by simp [decodeBody, body2, body3, fields])
  | call d disp =>
    exact encodes_of_shape rfl rfl rfl (.inr rfl) (operands_one (noQueue_reg k d))
      (rdCall_fields c 0 _ disp) (by simp [decodeBody, body2, fields])
  | loop a stop =>
    obtain ⟨ha, hstop⟩ := and_two h
    exact encodes_of_shape rfl rfl rfl (.inr rfl) (operands_one (noQueue_src ha))
      (rdLoop_fields c 0 _ (bne_iff_ne.1 hstop)) (by simp [decodeBody, body2, fields])
  | mfsr d num =>
    obtain ⟨hd, hnum⟩ := and_two h
    exact encodes_of_shape rfl rfl rfl (.inr rfl) (operands_one (noQueue_dst hd))
      (rdMfsr_fields c 0 _ hnum) (by simp [decodeBody, body3, fields])
  | mtsr num a =>
    obtain ⟨ha, hnum, hrow⟩ := and_three h
    exact encodes_of_shape rfl rfl rfl (.inr rfl) (operands_one (noQueue_src ha))
      ((rdMtsr_fields c 0 _ hnum).trans (congrArg some (mtsrOf_plain (Bool.not_eq_true' _ ▸ hrow)))) (by simp [decodeBody, body3, fields])
  | mtsrSrseed a =>
    exact encodes_of_shape rfl rfl rfl (.inr rfl) (operands_one (noQueue_src h))
      (rdMtsr_fields c 0 _ (num := 7) rfl) (by simp [decodeBody, body3, fields])
  | mtsrBfmt n a =>
    exact encodes_of_shape rfl rfl rfl (.inr rfl) (operands_one (noQueue_src h))
      ((rdMtsr_fields c 0 _ (sregDefined_bfmt n)).trans (congrArg some (mtsrOf_bfmt n))) (by simp [decodeBody, body3, fields])
  | mtsrBscl n a =>
    exact encodes_of_shape rfl rfl rfl (.inr rfl) (operands_one (noQueue_src h))
      ((rdMtsr_fields c 0 _ (sregDefined_bscl n)).trans (congrArg some (mtsrOf_bscl n))) (by simp [decodeBody, body3, fields])
  | mtsrCntsel n a =>
    exact encodes_of_shape rfl rfl rfl (.inr rfl) (operands_one (noQueue_src h))
      ((rdMtsr_fields c 0 _ (sregDefined_cntsel n)).trans (congrArg some (mtsrOf_cntsel n))) (by simp [decodeBody, body3, fields])
  | vadd d a b md | vsub d a b md | vmul d a b md | vmin d a b md | vmax d a b md | vdqnt d a b md | vdot d a b md =>
    exact encodes_of_shape rfl rfl h (.inr rfl) (operands_three (noQueue_reg k d) (noQueue_reg k a) (noQueue_reg k b))
      (rdR3m_fields c 0 _ _) (by simp [decodeBody, body4, body5, body6, fields])
  | vfma d a b e md | vfms d a b e md | vfnma d a b e md =>
    exact encodes_of_shape rfl rfl h (.inr rfl) (operands_four (noQueue_reg k d) (noQueue_reg k a) (noQueue_reg k b) (noQueue_reg k e))
      (rdR4m_fields c 0 _ _) (by simp [decodeBody, body4, fields])
  | vabs d a md | vneg d a md | vcvt d a md | vsum d a md =>
    exact encodes_of_shape rfl rfl h (.inr rfl) (operands_two (noQueue_reg k d) (noQueue_reg k a))
      (rdR2m_fields c 0 _ _) (by simp [decodeBody, body4, body5, body6, fields])
  | vand d a b | vor d a b | vxor d a b | vshl d a b | vshr d a b | vsra d a b | vcmpEq d a b | vcmpNe d a b | vcmpLt d a b
  | vcmpLts d a b | vcmpLe d a b | vcmpLes d a b | vgath d a b | vscat d a b =>
    exact encodes_of_shape rfl rfl h (.inr rfl) (operands_three (noQueue_reg k d) (noQueue_reg k a) (noQueue_reg k b))
      (rdR3_fields c 0 _ _) (by simp [decodeBody, body5, body7, fields])
  | vsel d m a b =>
    exact encodes_of_shape rfl rfl h (.inr rfl) (operands_four (noQueue_reg k d) (noQueue_reg k m) (noQueue_reg k a) (noQueue_reg k b))
      (rdR4_fields c 0 _ _) (by simp [decodeBody, body5, fields])
  | vqnt d a rnd =>
    exact encodes_of_shape rfl rfl h (.inr rfl) (operands_two (noQueue_reg k d) (noQueue_reg k a))
      (rdR2r_fields c 0 _ _ rnd) (by simp [decodeBody, body5, fields])
  | vrcpe d a | vrsqe d a | vexp2e d a | vlog2e d a | vmaxr d a | vminr d a | vcopy d a =>
    exact encodes_of_shape rfl rfl h (.inr rfl) (operands_two (noQueue_reg k d) (noQueue_reg k a))
      (rdR2_fields c 0 _ _) (by simp [decodeBody, body6, body7, fields])
  | vrcps d a b rnd | vrsqs d a b rnd =>
    exact encodes_of_shape rfl rfl h (.inr rfl) (operands_three (noQueue_reg k d) (noQueue_reg k a) (noQueue_reg k b))
      (rdR3r_fields c 0 _ _ rnd) (by simp [decodeBody, body6, fields])
  | viota d a b =>
    obtain ⟨hk, ha, hb⟩ := and_three h
    exact encodes_of_shape rfl rfl hk (.inr rfl) (operands_three (noQueue_reg k d) (noQueue_q k ha) (noQueue_q k hb))
      (rdRqq_fields c 0 _ ha hb _) (by simp [decodeBody, body7, fields])
  | vfill d a =>
    obtain ⟨hk, ha⟩ := and_two h
    exact encodes_of_shape rfl rfl hk (.inr rfl) (operands_two (noQueue_reg k d) (noQueue_q k ha))
      (rdRq_fields c 0 _ ha _) (by simp [decodeBody, body7, fields])
  | vpart d0 d1 d2 d3 o =>
    obtain ⟨hk, hnodup⟩ := and_two h
    exact encodes_of_shape rfl rfl hk (.inr rfl) (operands_five (noQueue_reg k d0) (noQueue_reg k d1) (noQueue_reg k d2) (noQueue_reg k d3) (noQueue_reg k o))
      (rdR5_fields c 0 _ _ (of_decide_eq_true hnodup)) (by simp [decodeBody, body7, fields])
  | mln lvl a =>
    obtain ⟨hk, ha⟩ := and_two h
    exact encodes_of_shape rfl rfl hk (.inr rfl) (operands_one (noQueue_q k ha))
      (rdMln_fields c 0 _ ha lvl) (by simp [decodeBody, body8, fields])
  | mopa src a b | mopb src a b =>
    obtain ⟨hk, ha, hb, hsrc⟩ := and_four h
    exact encodes_of_shape rfl rfl hk (.inr rfl) (operands_two (noQueue_q k ha) (noQueue_q k hb))
      (rdMop_fields c 0 _ ha hb _ (by simpa using hsrc)) (by simp [decodeBody, body8, fields])
  | macc acc init =>
    exact encodes_of_shape rfl rfl h (.inr rfl) (operands_none)
      (rdMacc_fields c 0 _ acc init) (by simp [decodeBody, body8, fields])
  | mlda reg a b | mldb reg a b =>
    obtain ⟨hk, ha, hb⟩ := and_three h
    exact encodes_of_shape rfl rfl hk (.inr rfl) (operands_two (noQueue_q k ha) (noQueue_q k hb))
      (rdMld_fields c 0 _ ha hb _ reg) (by simp [decodeBody, body8, fields])
  | mgo a | msave a | mrest a | cset a | cldc a | crun a | chainTail a | cready a | cabort a =>
    obtain ⟨hk, ha⟩ := and_two h
    exact encodes_of_shape rfl rfl hk (.inr rfl) (operands_one (noQueue_q k ha))
      (rdQ1_fields c 0 _ ha _) (by simp [decodeBody, body8, body9, bodyA, bodyB, bodyD, fields])
  | mlock a | munlk a | semp a | yield a =>
    exact encodes_of_shape rfl rfl rfl (.inr rfl) (operands_one (noQueue_q k h))
      (rdQ1_fields c 0 _ h _) (by simp [decodeBody, bodyE, fields])
  | mdrain a b acc zero md =>
    obtain ⟨hk, ha, hb⟩ := and_three h
    exact encodes_of_shape rfl rfl hk (.inr rfl) (operands_two (noQueue_q k ha) (noQueue_q k hb))
      (rdMdrain_fields c 0 _ ha hb acc zero) (by simp [decodeBody, body9, fields])
  | mbya reg acc zero fmt md =>
    obtain ⟨hk, hfmt⟩ := and_two h
    exact encodes_of_shape rfl rfl hk (.inr rfl) (operands_none)
      (rdMbya_fields c 0 _ reg acc zero hfmt) (by simp [decodeBody, body9, fields])
  | mxp d e a b p =>
    obtain ⟨hk, hd, he, ha, hb, hp⟩ := and_six h
    exact encodes_of_shape rfl rfl hk (.inr rfl) (operands_five (noQueue_q k hd) (noQueue_q k he) (noQueue_q k ha) (noQueue_q k hb) (noQueue_q k hp))
      (rdQ5_fields c 0 _ hd he ha hb hp _) (by simp [decodeBody, body9, fields])
  | mstat d a | cstatContour d a =>
    obtain ⟨hk, ha⟩ := and_two h
    exact encodes_of_shape rfl rfl hk (.inr rfl) (operands_two (noQueue_reg k d) (noQueue_q k ha))
      (rdVq_fields c 0 _ ha _) (by simp [decodeBody, body9, bodyA, fields])
  | bara d a | bars d a | mtry d a | semtry d a | lrarm d a =>
    exact encodes_of_shape rfl rfl rfl (.inr rfl) (operands_two (noQueue_reg k d) (noQueue_q k h))
      (rdVq_fields c 0 _ h _) (by simp [decodeBody, bodyE, fields])
  | cleaf d a =>
    obtain ⟨hk, hd, ha⟩ := and_three h
    exact encodes_of_shape rfl rfl hk (.inr rfl) (operands_two (noQueue_q k hd) (noQueue_q k ha))
      (rdQ0q1_fields c 0 _ hd ha _) (by simp [decodeBody, bodyA, fields])
  | cidx d =>
    obtain ⟨hk, hd⟩ := and_two h
    exact encodes_of_shape rfl rfl hk (.inr rfl) (operands_one (noQueue_q k hd))
      (rdQ0_fields c 0 _ hd _) (by simp [decodeBody, bodyA, fields])
  | ldB o | ldH o | ldW o | ldD o | ldsB o | ldsH o | ldsW o | stB o | stH o | stW o | stD o | pf o =>
    obtain ⟨hk, ho⟩ := and_two h
    obtain ⟨ha, hb⟩ := and_two ho
    exact encodes_of_shape rfl rfl hk (.inl rfl) (operands_two (noQueue_q k ha) (noQueue_q k hb))
      (rdLdst_fields c _ ha hb _ o.sh o.mf) (by simp [decodeBody, bodyB, fields])
  | cpygs x y z w mf | cpysg x y z w mf =>
    obtain ⟨hk, hx, hy, hz, hw⟩ := and_five h
    exact encodes_of_shape rfl rfl hk (.inl rfl) (operands_four (noQueue_q k hx) (noQueue_q k hy) (noQueue_q k hz) (noQueue_q k hw))
      (rdCpy_fields c _ hx hy hz hw _ mf) (by simp [decodeBody, bodyB, fields])
  | chainWait d a clr | cstatColl d a clr =>
    obtain ⟨hk, ha⟩ := and_two h
    exact encodes_of_shape rfl rfl hk (.inr rfl) (operands_two (noQueue_reg k d) (noQueue_q k ha))
      (rdVqc_fields c 0 _ ha _ clr) (by simp [decodeBody, bodyB, bodyD, fields])
  | aadd o | amin o | amins o | amax o | amaxs o | aand o | aor o | axor o | aswp o | acas o | aaddNr o | aminNr o | aminsNr o
  | amaxNr o | amaxsNr o | aandNr o | aorNr o | axorNr o | aswpNr o | acasNr o =>
    obtain ⟨hk, ho⟩ := and_two h
    obtain ⟨ha, hb⟩ := and_two ho
    exact encodes_of_shape rfl rfl hk (.inl rfl) (operands_two (noQueue_q k ha) (noQueue_q k hb))
      (rdAtom_fields c _ ha hb _ o.dbl o.mf) (by simp [decodeBody, bodyC, fields])
  | aaddF32 o | aaddBf16 o | aaddF32Nr o | aaddBf16Nr o =>
    obtain ⟨hk, ho, hdbl⟩ := and_three h
    obtain ⟨ha, hb⟩ := and_two ho
    exact encodes_of_shape rfl rfl hk (.inl rfl) (operands_two (noQueue_q k ha) (noQueue_q k hb))
      (rdAtomf_fields c _ ha hb _ (by simpa using hdbl) o.mf) (by simp [decodeBody, bodyC, fields])
  | put x y z mf | get x y z mf =>
    obtain ⟨hk, hx, hy, hz⟩ := and_four h
    exact encodes_of_shape rfl rfl hk (.inl rfl) (operands_three (noQueue_q k hx) (noQueue_q k hy) (noQueue_q k hz))
      (rdQ3m_fields c _ hx hy hz _ mf) (by simp [decodeBody, bodyD, fields])
  | arradd d a b | bcbPost d a b | cevw d a b =>
    obtain ⟨hk, ha, hb⟩ := and_three h
    exact encodes_of_shape rfl rfl hk (.inr rfl) (operands_three (noQueue_reg k d) (noQueue_q k ha) (noQueue_q k hb))
      (rdVqq_fields c 0 _ ha hb _) (by simp [decodeBody, bodyD, fields])
  | arrset a b | ctbl a b =>
    obtain ⟨hk, ha, hb⟩ := and_three h
    exact encodes_of_shape rfl rfl hk (.inr rfl) (operands_two (noQueue_q k ha) (noQueue_q k hb))
      (rdQq_fields c 0 _ ha hb _) (by simp [decodeBody, bodyD, fields])
  | barw a b | barcfg a b | semv a b | dsend a b =>
    obtain ⟨ha, hb⟩ := and_two h
    exact encodes_of_shape rfl rfl rfl (.inr rfl) (operands_two (noQueue_q k ha) (noQueue_q k hb))
      (rdQq_fields c 0 _ ha hb _) (by simp [decodeBody, bodyE, fields])
  | arrw d a b sub | bcbWait d a b sub =>
    obtain ⟨hk, ha, hb⟩ := and_three h
    exact encodes_of_shape rfl rfl hk (.inr rfl) (operands_three (noQueue_reg k d) (noQueue_q k ha) (noQueue_q k hb))
      (rdVqqb_fields c 0 _ ha hb _ sub) (by simp [decodeBody, bodyD, fields])
  | tokcnt d i j =>
    exact encodes_of_shape rfl rfl rfl (.inr rfl) (operands_one (noQueue_reg k d))
      (rdTokcnt_fields c 0 _ (bne_iff_ne.1 h)) (by simp [decodeBody, bodyE, fields])
  | lrpatch d a b fld =>
    obtain ⟨ha, hb⟩ := and_two h
    exact encodes_of_shape rfl rfl rfl (.inr rfl) (operands_three (noQueue_reg k d) (noQueue_q k ha) (noQueue_q k hb))
      (rdLrpatch_fields c 0 _ ha hb fld) (by simp [decodeBody, bodyE, fields])
  | pfxK v =>
    have hplain : c = Ctl.plain := beq_iff_eq.1 h
    exact ⟨_, rfl, hplain ▸ decode_pfxK k v⟩
  | pfxSm m1 m2 m3 =>
    obtain ⟨hlegal, hplain⟩ := and_two h
    obtain ⟨h1, h2, h3⟩ := and_three hlegal
    have hplain : c = Ctl.plain := beq_iff_eq.1 hplain
    exact ⟨_, rfl, hplain ▸ decode_pfxSm k h1 h2 h3⟩
  | _ => exact Bool.noConfusion (h : false = true)

end Sys2Proof.Laws

section

/-! # What leaves the memories

Most functions of the model touch neither the devices' memory nor the host's. One rule for each: the two
memories of its result are those of the state that it is given. -/

namespace Sys2Proof.Machine

/-- The two memories of a state: the devices' and the host's. -/
def State.mem (s : State) : Mem × Mem := (s.dmem, s.hmem)

/-- A state written out has the memories that it lists. -/
@[simp] theorem State.mem_mk agenda free cur tiles rings pval group member slew clkmask paths homes dies parties links dmem poison hmem pcie errs matrix ids parts dbg trained full dcnt survey irqs recs rinfo pool resv runs saved psets oldTags views wd frings invs invn mig queues sevcnt jseq jown viral asm caps sees snap taken kept rest wipe nv ports fab :
    State.mem ⟨agenda, free, cur, tiles, rings, pval, group, member, slew, clkmask, paths, homes, dies, parties, links, dmem, poison, hmem, pcie, errs, matrix, ids, parts, dbg, trained, full, dcnt, survey, irqs, recs, rinfo, pool, resv, runs, saved, psets, oldTags, views, wd, frings, invs, invn, mig, queues, sevcnt, jseq, jown, viral, asm, caps, sees, snap, taken, kept, rest, wipe, nv, ports, fab⟩ = (dmem, hmem) := (rfl)

@[simp] theorem State.mem_eta (s : State) : (s.dmem, s.hmem) = s.mem := (rfl)

/-- A fold of steps that leave the memories leaves them. -/
theorem foldl_mem {α : Type} (f : State → α → State) (h : ∀ s x, (f s x).mem = s.mem) (l : List α) (s : State) :
    (l.foldl f s).mem = s.mem := by
  induction l generalizing s with
  | nil => rfl
  | cons x l ih => exact (ih (f s x)).trans (h s x)

@[simp] theorem State.setTile_mem (s : State) (n : Nat) (t : Tile) : (s.setTile n t).mem = s.mem :=
  (rfl)

@[simp] theorem State.modTile_mem (s : State) (n : Nat) (f : Tile → Tile) : (s.modTile n f).mem = s.mem :=
  (rfl)

@[simp] theorem State.freeWord_mem (s : State) : (s.freeWord).2.mem = s.mem :=
  (rfl)

@[simp] theorem State.freeBytes_mem (s : State) (n : Nat) : (s.freeBytes n).2.mem = s.mem := by
  induction n generalizing s with
  | zero => rfl
  | succ n ih => exact ih _

@[simp] theorem State.freeBool_mem (s : State) : (s.freeBool).2.mem = s.mem :=
  (rfl)

@[simp] theorem State.freeNat_mem (s : State) : (s.freeNat).2.mem = s.mem :=
  (rfl)

@[simp] theorem State.report_mem (s : State) (cls source unit slot addr detail : Nat) : (s.report cls source unit slot addr
    detail).mem = s.mem :=
  (rfl)

@[simp] theorem State.reportAt_mem (s : State) (party cls source unit addr : Nat) : (s.reportAt party cls source unit addr).mem
    = s.mem :=
  (rfl)

@[simp] theorem State.reportPkt_mem (s : State) (cls source unit tag : Nat) : (s.reportPkt cls source unit tag).mem = s.mem :=
    by
  rfl

@[simp] theorem State.irq_mem (s : State) (fn kind : Nat) : (s.irq fn kind).mem = s.mem := by
  unfold State.irq
  split <;> rfl

@[simp] theorem State.pipeTrap_mem (s : State) (n : Nat) (k : Slot) (cls src detail : Nat) (v : W64) (pc act : Nat) :
    (s.pipeTrap n k cls src detail v pc act).mem = s.mem :=
  (rfl)

@[simp] theorem State.setDie_mem (s : State) (d : Nat) (x : DieSt) : (s.setDie d x).mem = s.mem :=
  (rfl)

@[simp] theorem State.modDie_mem (s : State) (d : Nat) (f : DieSt → DieSt) : (s.modDie d f).mem = s.mem :=
  (rfl)

@[simp] theorem State.setParty_mem (s : State) (p : Nat) (x : Party) : (s.setParty p x).mem = s.mem :=
  (rfl)

@[simp] theorem State.modParty_mem (s : State) (p : Nat) (f : Party → Party) : (s.modParty p f).mem = s.mem :=
  (rfl)

@[simp] theorem State.newId_mem (s : State) : (s.newId).2.mem = s.mem :=
  (rfl)

@[simp] theorem State.ring_mem (s : State) (n cyc : Nat) (e : BitVec 128) : (s.ring n cyc e).mem = s.mem :=
  (rfl)

@[simp] theorem State.ringGap_mem (s : State) (n cyc : Nat) : (s.ringGap n cyc).mem = s.mem := by
  unfold State.ringGap
  dsimp only
  split <;> simp

@[simp] theorem State.flushEvents_mem (s : State) (n cyc : Nat) : (s.flushEvents n cyc).mem = s.mem := by
  unfold State.flushEvents
  simp [foldl_mem]

@[simp] theorem State.tileEvent_mem (s : State) (n slot type addr info : Nat) : (s.tileEvent n slot type addr info).mem = s.mem
    :=
  (rfl)

@[simp] theorem State.dieCount_mem (s : State) (p code n : Nat) : (s.dieCount p code n).mem = s.mem :=
  (rfl)

@[simp] theorem State.partyCycles_mem (s : State) (p k : Nat) : (s.partyCycles p k).mem = s.mem :=
  (rfl)

@[simp] theorem State.dieRecord_mem (s : State) (p : Nat) (part : Option Nat) (held : Bool) (type addr info : Nat) :
    (s.dieRecord p part held type addr info).mem = s.mem :=
  (rfl)

@[simp] theorem State.dieEvent_mem (s : State) (p : Nat) (part : Option Nat) (type addr info : Nat) : (s.dieEvent p part type
    addr info).mem = s.mem :=
  (rfl)

@[simp] theorem State.reportBody_mem (s : State) (p cls source : Nat) (b : Body) : (s.reportBody p cls source b).mem = s.mem :=
    by
  unfold State.reportBody
  (repeat' split) <;> simp

@[simp] theorem State.path_mem (s : State) (die src dst : Nat) (p : Pkt) : (s.path die src dst p).mem = s.mem :=
  (rfl)

@[simp] theorem State.atPort_mem (s : State) (party src : Nat) (p : Pkt) : (s.atPort party src p).mem = s.mem :=
  (rfl)

@[simp] theorem State.launch_mem (s : State) (die src : Nat) (p : Pkt) : (s.launch die src p).mem = s.mem :=
  (rfl)

@[simp] theorem State.sendMarker_mem (s : State) (n end_ : Nat) : (s.sendMarker n end_).mem = s.mem :=
  (rfl)

@[simp] theorem State.sendMarkers_mem (s : State) (n : Nat) (sc : Scope) : (s.sendMarkers n sc).mem = s.mem := by
  unfold State.sendMarkers
  (repeat' split) <;> simp [foldl_mem]

@[simp] theorem State.inval_mem (s : State) (d : Nat) : (s.inval d).mem = s.mem :=
  (rfl)

@[simp] theorem State.retireFence_mem (s : State) (n c : Nat) : (s.retireFence n c).mem = s.mem := by
  unfold State.retireFence
  dsimp only
  (repeat' split) <;> simp

@[simp] theorem State.walkNote_mem (s : State) (party unit part : Nat) (note : WalkNote) : (s.walkNote party unit part note).mem
    = s.mem := by
  unfold State.walkNote
  (repeat' split) <;> simp

@[simp] theorem State.purge_mem (s : State) (b : Nat × Nat) : (s.purge b).mem = s.mem :=
  (rfl)

@[simp] theorem State.handOver_mem (s : State) (e : TlbE) : (s.handOver e).mem = s.mem := by
  unfold State.handOver
  split <;> rfl

@[simp] theorem State.translate_mem (s : State) (n : Nat) (va : W64) (u : Use) : (s.translate n va u).2.mem = s.mem := by
  unfold State.translate
  dsimp only
  (repeat' split) <;> simp

@[simp] theorem State.forgetWalks_mem (s : State) (n : Nat) : (s.forgetWalks n).mem = s.mem :=
  (rfl)

@[simp] theorem State.tmEvent_mem (s : State) (n type cyc : Nat) (g : W64) (addr info : Nat) : (s.tmEvent n type cyc g addr
    info).mem = s.mem :=
  (rfl)

@[simp] theorem State.putsEvent_mem (s : State) (x : Net) (num party : Nat) : (s.putsEvent x num party).mem = s.mem := by
  unfold State.putsEvent
  (repeat' split) <;> simp

@[simp] theorem State.route_mem (s : State) (n : Nat) (x : Net) : (s.route n x).mem = s.mem := by
  unfold State.route
  dsimp only
  split <;> simp

@[simp] theorem State.tmEnd_mem (s : State) (n id code : Nat) (x : Net) : (s.tmEnd n id code x).mem = s.mem := by
  unfold State.tmEnd
  dsimp only
  (repeat' split) <;> simp

@[simp] theorem State.answerPut_mem (s : State) (n : Nat) (x : Net) (code : Nat) : (s.answerPut n x code).mem = s.mem := by
  simp [State.answerPut]

@[simp] theorem State.putxDie_mem (s : State) (p : Nat) (x : Net) (code : Nat) : (s.putxDie p x code).mem = s.mem :=
  (rfl)

@[simp] theorem State.failForeign_mem (s : State) (x : Net) (code : Nat) : (s.failForeign x code).mem = s.mem := by
  unfold State.failForeign
  dsimp only
  (repeat' split) <;> simp

@[simp] theorem State.failNet_mem (s : State) (x : Net) (code : Nat) : (s.failNet x code).mem = s.mem := by
  unfold State.failNet
  (repeat' split) <;> simp

@[simp] theorem State.suspend_mem (s : State) (p pkg level : Nat) : (s.suspend p pkg level).mem = s.mem :=
  (rfl)

@[simp] theorem State.rdTake_mem (s : State) (x : Net) : (s.rdTake x).mem = s.mem := by
  unfold State.rdTake
  dsimp only
  (repeat' split) <;> simp

@[simp] theorem State.errorReply_mem (s : State) (x : Net) : (s.errorReply x).mem = s.mem := by
  unfold State.errorReply
  (repeat' split) <;> simp

@[simp] theorem State.setPort_mem (s : State) (p : Nat) (x : Port) : (s.setPort p x).mem = s.mem :=
  (rfl)

@[simp] theorem State.putPctl_mem (s : State) (p : Nat) (v : W64) : (s.putPctl p v).mem = s.mem := by
  unfold State.putPctl
  (repeat' split) <;> simp [foldl_mem]

@[simp] theorem State.setRec_mem (s : State) (r off n v : Nat) : (s.setRec r off n v).mem = s.mem :=
  (rfl)

@[simp] theorem State.setRecState_mem (s : State) (r st : Nat) : (s.setRecState r st).mem = s.mem :=
  (rfl)

@[simp] theorem State.setRinf_mem (s : State) (r : Nat) (x : RInfo) : (s.setRinf r x).mem = s.mem :=
  (rfl)

@[simp] theorem State.refused_mem (s : State) (asid pa : Nat) : (s.refused asid pa).mem = s.mem := by
  unfold State.refused
  dsimp only
  split <;> simp

@[simp] theorem State.taint_mem (s : State) (pa n : Nat) : (s.taint pa n).mem = s.mem :=
  (rfl)

@[simp] theorem State.writeLines_mem (s : State) (d : Nat) (l : List Nat) : (s.writeLines d l).mem = s.mem := by
  refine foldl_mem _ (fun s line => ?_) l s
  dsimp only [State.freeBool]
  split <;> simp

@[simp] theorem State.cure_mem (s : State) (pa n : Nat) : (s.cure pa n).mem = s.mem :=
  (rfl)

@[simp] theorem State.freezeRing_mem (s : State) (n cyc : Nat) (recs : List (BitVec 128)) : (s.freezeRing n cyc recs).mem =
    s.mem :=
  (rfl)

@[simp] theorem State.freezeTileRing_mem (s : State) (n cyc : Nat) (e : BitVec 128) : (s.freezeTileRing n cyc e).mem = s.mem :=
    by
  simp [State.freezeTileRing]

@[simp] theorem State.freezeParty_mem (s : State) (a : Nat) (first bysb : Bool) : (s.freezeParty a first bysb).mem = s.mem :=
  (rfl)

@[simp] theorem State.stopStage_mem (s : State) (d : Nat) : (s.stopStage d).mem = s.mem := by
  unfold State.stopStage
  split <;> rfl

@[simp] theorem State.freezeDown_mem (s : State) (d n : Nat) : (s.freezeDown d n).mem = s.mem := by
  induction n with
  | zero => rfl
  | succ n ih => simpa [State.freezeDown, State.newId] using ih

@[simp] theorem State.notices_mem (s : State) (a : Nat) : (s.notices a).mem = s.mem := by
  refine foldl_mem _ (fun s b => ?_) _ s
  dsimp only [State.newId]
  split <;> simp

@[simp] theorem State.noticePort_mem (s : State) (p : Nat) : (s.noticePort p).mem = s.mem := by
  unfold State.noticePort
  (repeat' split) <;> simp

@[simp] theorem State.portNotices_mem (s : State) : s.portNotices.mem = s.mem := by
  refine foldl_mem _ (fun s e => ?_) _ s
  split <;> simp

@[simp] theorem State.viralMove_mem (s : State) (a : Nat) (bysb : Bool) : (s.viralMove a bysb).mem = s.mem := by
  unfold State.viralMove
  dsimp only
  (repeat' split) <;> simp

@[simp] theorem State.goViral_mem (s : State) (cls src act unit : Nat) : (s.goViral cls src act unit).mem = s.mem := by
  unfold State.goViral
  dsimp only
  (repeat' split) <;> simp

@[simp] theorem State.sendAcc_mem (s : State) (a : Acc) : (s.sendAcc a).mem = s.mem :=
  (rfl)

@[simp] theorem State.atomEvent_mem (s : State) (a : Acc) (ret : Bool) (num party : Nat) : (s.atomEvent a ret num party).mem =
    s.mem := by
  unfold State.atomEvent
  split <;> rfl

@[simp] theorem State.ackMarker_mem (s : State) (n id : Nat) : (s.ackMarker n id).mem = s.mem :=
  (rfl)

@[simp] theorem State.loseAcc_mem (s : State) (d : Nat) (a : Acc) : (s.loseAcc d a).mem = s.mem := by
  unfold State.loseAcc
  dsimp only
  (repeat' split) <;> simp

@[simp] theorem State.losePkt_mem (s : State) (d : Nat) (p : Pkt) (code : Nat) : (s.losePkt d p code).mem = s.mem := by
  unfold State.losePkt
  (repeat' split) <;> simp

@[simp] theorem State.fillRdc_mem (s : State) (d id line : Nat) (l : List Byte) : (s.fillRdc d id line l).mem = s.mem := by
  unfold State.fillRdc
  split <;> rfl

@[simp] theorem State.portReq_mem (s : State) (d src : Nat) (p : Pkt) (a : Acc) (keep : Bool) : (s.portReq d src p a keep).mem =
    s.mem := by
  unfold State.portReq
  dsimp only
  (repeat' split) <;> simp

@[simp] theorem State.copyReport_mem (s : State) (n : Nat) (a : Acc) (code : Nat) : (s.copyReport n a code).mem = s.mem := by
  unfold State.copyReport
  (repeat' split) <;> simp

@[simp] theorem State.atTile_mem (s : State) (d src dst : Nat) (p : Pkt) (keep : Bool) : (s.atTile d src dst p keep).mem = s.mem
    := by
  unfold State.atTile
  dsimp only
  (repeat' split) <;> simp

@[simp] theorem State.emit_mem (s : State) (a b : Nat) (pkt : Pkt) : (s.emit a b pkt).mem = s.mem :=
  (rfl)

@[simp] theorem State.noteSend_mem (s : State) (a b : Nat) (p : Pkt) : (s.noteSend a b p).mem = s.mem := by
  unfold State.noteSend
  dsimp only
  (repeat' split) <;> simp

@[simp] theorem State.dropAt_mem (s : State) (d code : Nat) (x : DPkt) : (s.dropAt d code x).mem = s.mem := by
  simp [State.dropAt]

@[simp] theorem State.passOn_mem (s : State) (d : Nat) (p : Pkt) : (s.passOn d p).mem = s.mem := by
  unfold State.passOn
  (repeat' split) <;> simp

@[simp] theorem State.reportTo_mem (s : State) (d a : Nat) : (s.reportTo d a).mem = s.mem :=
  (rfl)

@[simp] theorem State.reportDue_mem (s : State) (d a : Nat) : (s.reportDue d a).mem = s.mem := by
  unfold State.reportDue
  split <;> rfl

@[simp] theorem State.homeRead_mem (s : State) (a : Acc) (n : Nat) : (s.homeRead a n).2.mem = s.mem := by
  unfold State.homeRead
  split <;> simp

@[simp] theorem State.reply_mem (s : State) (d src : Nat) (a : Acc) (ans : Ans) (line : Option (List Byte)) (id : Nat) :
    (s.reply d src a ans line id).mem = s.mem :=
  (rfl)

@[simp] theorem State.touchL2_mem (s : State) (d : Nat) (a : Acc) : (s.touchL2 d a).mem = s.mem := by
  unfold State.touchL2
  split <;> simp

@[simp] theorem State.hostPieces_mem (s : State) (addr : Nat) (l : List Byte) (n : Nat) :
    (s.hostPieces addr l n).mem = s.mem := by
  induction n generalizing s addr l with
  | zero => rfl
  | succ n ih =>
    unfold State.hostPieces
    dsimp only [State.newId]
    split
    · rfl
    · exact (ih _ _ _).trans (by simp)

@[simp] theorem State.chainStop_mem (s : State) (n kind : Nat) (va : W64) : (s.chainStop n kind va).mem = s.mem :=
  (rfl)

/-- A translation leaves the memories. -/
theorem State.mem_of_translate {s s' : State} {n : Nat} {va : W64} {u : Use} {r : TrRes} (h : s.translate n va u = (r, s')) :
    s'.mem = s.mem := by
  have := s.translate_mem n va u
  rwa [h] at this

@[simp] theorem State.copyRead_mem (s : State) (n : Nat) (c : CopyCmd) (k : Nat) : (s.copyRead n c k).mem = s.mem := by
  unfold State.copyRead
  split
  · rfl
  split
  · rfl
  split
  · dsimp only
    split <;> simp
  dsimp only
  split
  · simpa using State.mem_of_translate ‹_›
  · simpa using State.mem_of_translate ‹_›
  · exact State.mem_of_translate ‹_›

@[simp] theorem State.copyWrite_mem (s : State) (n : Nat) (c : CopyCmd) (k : Nat) : (s.copyWrite n c k).mem = s.mem := by
  have hfree : (s.freeBytes 4).2.mem = s.mem := s.freeBytes_mem 4
  unfold State.copyWrite
  split
  · rfl
  split
  · rfl
  dsimp only
  split
  · rfl
  split
  · split
    · simpa using (State.mem_of_translate ‹_›).trans hfree
    · simpa using (State.mem_of_translate ‹_›).trans hfree
    · exact (State.mem_of_translate ‹_›).trans hfree
  · simp

@[simp] theorem State.dropInbox_mem (s : State) (n index : Nat) : (s.dropInbox n index).mem = s.mem :=
  (rfl)

@[simp] theorem State.refuseEvent_mem (s : State) (n : Nat) (x : Net) (code : Nat) : (s.refuseEvent n x code).mem = s.mem :=
  (rfl)

@[simp] theorem State.putcEvent_mem (s : State) (n : Nat) (x : Net) : (s.putcEvent n x).mem = s.mem :=
  (rfl)

@[simp] theorem State.sendCack_mem (s : State) (n : Nat) (x : Net) : (s.sendCack n x).mem = s.mem := by
  simp [State.sendCack]

@[simp] theorem State.stage_mem (s : State) (n a pa k : Nat) : (s.stage n a pa k).mem = s.mem := by
  unfold State.stage
  (repeat' split) <;> simp

@[simp] theorem State.commitOne_mem (s : State) (n : Nat) (w : Async) : (s.commitOne n w).mem = s.mem := by
  unfold State.commitOne
  dsimp only
  (repeat' split) <;> simp

@[simp] theorem State.tmSend_mem (s : State) (n : Nat) (c : Tm) : (s.tmSend n c).mem = s.mem := by
  simp [State.tmSend]

@[simp] theorem State.expire_mem (s : State) (r : Req) (cls code : Nat) : (s.expire r cls code).mem = s.mem := by
  simp [State.expire]

@[simp] theorem State.failReq_mem (s : State) (r : Req) (cls code : Nat) : (s.failReq r cls code).mem = s.mem := by
  simp [State.failReq]

@[simp] theorem State.tellPeers_mem (s : State) (n e kind : Nat) : (s.tellPeers n e kind).mem = s.mem := by
  refine foldl_mem _ (fun s j => ?_) _ s
  split <;> simp

@[simp] theorem State.abortMember_mem (s : State) (n e : Nat) : (s.abortMember n e).mem = s.mem := by
  simp [State.abortMember]

@[simp] theorem State.finishMember_mem (s : State) (n e : Nat) : (s.finishMember n e).mem = s.mem := by
  unfold State.finishMember
  dsimp only
  (repeat' split) <;> simp

@[simp] theorem State.allFinMember_mem (s : State) (n e : Nat) : (s.allFinMember n e).mem = s.mem := by
  unfold State.allFinMember
  dsimp only
  split <;> simp

@[simp] theorem State.settleColl_mem (s : State) (n : Nat) : (s.settleColl n).mem = s.mem := by
  unfold State.settleColl
  (repeat' split) <;> simp [foldl_mem]

@[simp] theorem State.suspendSent_mem (s : State) (sel : W64 → Bool) : (s.suspendSent sel).mem = s.mem := by
  refine foldl_mem _ (fun s e => foldl_mem _ (fun s g => ?_) _ s) _ s
  split <;> simp

@[simp] theorem State.stale_mem (s : State) (n : Nat) : (s.stale n).mem = s.mem :=
  (rfl)

@[simp] theorem State.takeFin_mem (s : State) (n kind index : Nat) : (s.takeFin n kind index).mem = s.mem := by
  unfold State.takeFin
  dsimp only
  (repeat' split) <;> simp

@[simp] theorem State.recev_mem (s : State) (r code : Nat) : (s.recev r code).mem = s.mem :=
  (rfl)

@[simp] theorem State.makeReady_mem (s : State) (r : Nat) : (s.makeReady r).mem = s.mem :=
  (rfl)

@[simp] theorem State.armRec_mem (s : State) (r : Nat) : (s.armRec r).mem = s.mem := by
  unfold State.armRec
  split <;> rfl

@[simp] theorem State.decrement_mem (s : State) (r : Nat) : (s.decrement r).mem = s.mem := by
  unfold State.decrement
  dsimp only
  (repeat' split) <;> simp

@[simp] theorem State.decrementBy_mem (s : State) (p r : Nat) : (s.decrementBy p r).mem = s.mem := by
  unfold State.decrementBy
  split <;> simp

@[simp] theorem State.modRun_mem (s : State) (r : Nat) (f : Run → Run) : (s.modRun r f).mem = s.mem :=
  (rfl)

@[simp] theorem State.unbind_mem (s : State) (x : Run) : (s.unbind x).mem = s.mem := by
  unfold State.unbind
  simp [foldl_mem]

@[simp] theorem State.kill_mem (s : State) (r : Nat) (d : Dead) : (s.kill r d).mem = s.mem := by
  unfold State.kill
  (repeat' split) <;> simp [foldl_mem]

@[simp] theorem State.request_mem (s : State) (r reason : Nat) (pager : Bool) (except_ : List Nat) : (s.request r reason pager
    except_).mem = s.mem := by
  unfold State.request
  (repeat' split) <;> simp [foldl_mem]

@[simp] theorem State.saveDone_mem (s : State) (x : Run) : (s.saveDone x).mem = s.mem := by
  unfold State.saveDone
  dsimp only
  split <;> simp

@[simp] theorem State.resolveRec_mem (s : State) (r : Nat) : (s.resolveRec r).mem = s.mem := by
  unfold State.resolveRec
  (repeat' split) <;> simp

@[simp] theorem State.clearTile_mem (s : State) (p n : Nat) (e : PartE) : (s.clearTile p n e).mem = s.mem := by
  unfold State.clearTile
  split <;> rfl

@[simp] theorem State.wiped_mem (s : State) (p : Nat) : (s.wiped p).mem = s.mem := by
  unfold State.wiped
  (repeat' split) <;> simp [foldl_mem]

@[simp] theorem State.trigger_mem (s : State) (mask : Nat) : (s.trigger mask).mem = s.mem :=
  (rfl)

@[simp] theorem State.holdExpired_mem (s : State) (p : Nat) (x : DPkt) : (s.holdExpired p x).mem = s.mem := by
  simp [State.holdExpired]

@[simp] theorem State.selectCounter_mem (s : State) : (s.selectCounter).mem = s.mem :=
  (rfl)

@[simp] theorem State.dropHeld_mem (s : State) (p : Nat) : (s.dropHeld p).mem = s.mem := by
  unfold State.dropHeld
  simp [foldl_mem]

@[simp] theorem State.dropFlying_mem (s : State) (p : Nat) : (s.dropFlying p).mem = s.mem := by
  unfold State.dropFlying
  simp [foldl_mem]

@[simp] theorem State.loseTiles_mem (s : State) (mask : Nat) : (s.loseTiles mask).mem = s.mem := by
  refine foldl_mem _ (fun s d => ?_) _ s
  split <;> simp

@[simp] theorem State.dropLost_mem (s : State) : (s.dropLost).mem = s.mem :=
  (rfl)

@[simp] theorem State.resume_mem (s : State) (mask : Nat) : (s.resume mask).mem = s.mem := by
  unfold State.resume
  simp [foldl_mem]

@[simp] theorem State.settleQpts_mem (s : State) (n : Nat) : (s.settleQpts n).mem = s.mem := by
  unfold State.settleQpts
  dsimp only
  (repeat' split) <;> simp

@[simp] theorem State.yieldNow_mem (s : State) (n : Nat) (pager : Bool) : (s.yieldNow n pager).mem = s.mem := by
  unfold State.yieldNow
  (repeat' split) <;> simp

@[simp] theorem State.doubleTrap_mem (s : State) (n : Nat) : (s.doubleTrap n).mem = s.mem := by
  unfold State.doubleTrap
  (repeat' split) <;> simp

@[simp] theorem State.heldRequest_mem (s : State) (n : Nat) : (s.heldRequest n).mem = s.mem := by
  unfold State.heldRequest
  dsimp only
  (repeat' split) <;> simp

@[simp] theorem pickOld_mem (s : State) (l : List (Nat × W64 × Nat)) : (pickOld s l).2.mem = s.mem := by
  induction l generalizing s with
  | nil => rfl
  | cons e l ih => exact ih _

@[simp] theorem State.noteShape_mem (s : State) (n : Nat) : (s.noteShape n).mem = s.mem :=
  (rfl)

@[simp] theorem State.endTile_mem (s : State) (n : Nat) : (s.endTile n).mem = s.mem := by
  unfold State.endTile
  dsimp only
  split <;> simp

@[simp] theorem State.lostPacket_mem (s : State) (x : Net) : (s.lostPacket x).mem = s.mem := by
  unfold State.lostPacket
  dsimp only
  split <;> simp

@[simp] theorem State.linkDown_mem (s : State) (p : Nat) : (s.linkDown p).mem = s.mem := by
  unfold State.linkDown
  simp [foldl_mem]

@[simp] theorem State.arriving_mem (s : State) (p : Nat) (want : Flit → Bool) : (s.arriving p want).2.mem = s.mem := by
  unfold State.arriving
  dsimp only
  (repeat' split) <;> simp

@[simp] theorem State.badPacket_mem (s : State) (src ptag : Nat) : (s.badPacket src ptag).mem = s.mem :=
  (rfl)

@[simp] theorem State.inward_mem (s : State) (x : Net) : (s.inward x).mem = s.mem :=
  (rfl)

@[simp] theorem State.giveCredits_mem (s : State) (p : Nat) : (s.giveCredits p).mem = s.mem := by
  unfold State.giveCredits
  dsimp only [State.freeBool]
  (repeat' split) <;> simp

@[simp] theorem State.owe_mem (s : State) (p chan flits : Nat) : (s.owe p chan flits).mem = s.mem := by
  simp [State.owe]

@[simp] theorem State.freeVia_mem (s : State) (x : Net) : (s.freeVia x).mem = s.mem := by
  unfold State.freeVia
  split <;> simp

@[simp] theorem State.managerWrite_mem (s : State) : (s.managerWrite).mem = s.mem := by
  unfold State.managerWrite
  dsimp only
  (repeat' split) <;> simp

@[simp] theorem State.hears_mem (s : State) (q : Nat) (held : Bool) : (s.hears q held).mem = s.mem := by
  unfold State.hears
  dsimp only [State.freeBool, State.freeNat, State.freeWord, State.newId]
  (repeat' split) <;> simp [foldl_mem]

@[simp] theorem State.take_mem (s : State) (x : Net) : (s.take x).mem = s.mem := by
  unfold State.take
  dsimp only
  (repeat' split) <;> simp

@[simp] theorem State.packetIn_mem (s : State) (p : Nat) (h data : List Byte) : (s.packetIn p h data).mem = s.mem := by
  unfold State.packetIn
  (repeat' split) <;> simp

@[simp] theorem State.payload_mem (s : State) (p : Nat) (f : Flit) : (s.payload p f).mem = s.mem := by
  unfold State.payload
  dsimp only
  (repeat' split) <;> simp

@[simp] theorem State.accepted_mem (s : State) (p : Nat) (f : Flit) : (s.accepted p f).mem = s.mem := by
  unfold State.accepted
  split <;> simp

@[simp] theorem State.switch_mem (s : State) (p : Nat) (m : BitVec 8) : (s.switch p m).mem = s.mem := by
  unfold State.switch
  split <;> simp

@[simp] theorem State.frameDone_mem (s : State) (b : Bind) : (s.frameDone b).mem = s.mem := by
  unfold State.frameDone
  dsimp only
  (repeat' split) <;> simp

@[simp] theorem State.startTile_mem (s : State) (n : Nat) (b : Boot) : (s.startTile n b).mem = s.mem :=
  (rfl)

theorem State.restoreTile_mem {s r : State} {n : Nat} {b : Boot} {rank : Nat} (h : s.restoreTile n b rank = some r) :
    r.mem = s.mem := by
  have hfree : (s.freeBytes 393216).2.mem = s.mem := s.freeBytes_mem _
  obtain ⟨f, hf⟩ : ∃ f, f = s.freeBytes 393216 := ⟨_, rfl⟩
  unfold State.restoreTile at h
  rw [← hf] at h hfree
  rw [← Option.some.inj (Option.ite_none_left_eq_some.1 (Option.ite_none_left_eq_some.1 h).2).2]
  exact hfree

@[simp] theorem State.patch_mem (s : State) (n r l : Nat) (v : W64) : (s.patch n r l v).2.mem = s.mem := by
  unfold State.patch
  (repeat' split) <;> simp

@[simp] theorem State.armFrom_mem (s : State) (n r : Nat) : (s.armFrom n r).2.mem = s.mem := by
  unfold State.armFrom
  split <;> simp

theorem answerRec_mem (n : Nat) (k : Slot) (d : Fin 32) (op : State → Nat × State) (s : State) :
    (answerRec n k d op s).mem = (op s).2.mem := by
  simp [answerRec]

@[simp] theorem State.dropRequest_mem (s : State) (r : Nat) : (s.dropRequest r).mem = s.mem := by
  unfold State.dropRequest
  (repeat' split) <;> simp [foldl_mem]

@[simp] theorem State.arrive_mem (s : State) (n : Nat) (x : Run) (reason : Nat) (rest : List Nat) : (s.arrive n x reason
    rest).mem = s.mem := by
  unfold State.arrive
  dsimp only
  (repeat' split) <;> simp

@[simp] theorem State.qptLate_mem (s : State) (n r : Nat) : (s.qptLate n r).mem = s.mem := by
  simp [State.qptLate]

@[simp] theorem State.adaptive_mem (s : State) (x : Net) (peer : Nat) : (s.adaptive x peer).2.mem = s.mem := by
  unfold State.adaptive
  dsimp only [State.freeBool, State.freeNat]
  (repeat' split) <;> simp

@[simp] theorem State.dropRdq_mem (s : State) (index : Nat) : (s.dropRdq index).mem = s.mem :=
  (rfl)

@[simp] theorem State.sendOn_mem (s : State) (index port : Nat) (x : Net) : (s.sendOn index port x).mem = s.mem := by
  simp [State.sendOn]

@[simp] theorem State.deadHop_mem (s : State) (index : Nat) (x : Net) : (s.deadHop index x).mem = s.mem := by
  simp [State.deadHop]

@[simp] theorem State.forwardEscape_mem (s : State) (index port : Nat) (x : Net) : (s.forwardEscape index port x).mem = s.mem :=
    by
  unfold State.forwardEscape
  (repeat' split) <;> simp

/-- The choice of an adaptive route leaves the memories. -/
theorem State.mem_of_adaptive {s s' : State} {x : Net} {peer : Nat} {r : Option Net} (h : s.adaptive x peer = (r, s')) :
    s'.mem = s.mem := by
  have := s.adaptive_mem x peer
  rwa [h] at this

@[simp] theorem State.forwardAdaptive_mem (s : State) (index port : Nat) (x : Net) :
    (s.forwardAdaptive index port x).mem = s.mem := by
  unfold State.forwardAdaptive
  split
  · rfl
  dsimp only [State.freeNat]
  split
  · rename_i hroute
    split <;> simpa using State.mem_of_adaptive hroute
  · rename_i hroute
    simpa using State.mem_of_adaptive hroute

@[simp] theorem State.rewire_mem (s : State) (links : List (Nat × Nat)) : (s.rewire links).mem = s.mem := by
  unfold State.rewire
  dsimp only [State.freeBool]
  split
  · refine (foldl_mem _ (fun s p => ?_) _ _).trans (by simp)
    split <;> simp
  · simp

@[simp] theorem State.expireAll_mem (s : State) (sel : Nat → Bool) (cls code : Nat) : (s.expireAll sel cls code).mem = s.mem :=
    by
  unfold State.expireAll
  simp [foldl_mem]

@[simp] theorem State.tellManager_mem (s : State) : s.tellManager.mem = s.mem := by
  unfold State.tellManager
  dsimp only
  split <;> simp

@[simp] theorem State.setQueue_mem (s : State) (k : Nat) (x : Queue) : (s.setQueue k x).mem = s.mem :=
  (rfl)

@[simp] theorem State.buildRec_mem (s : State) (r j : Nat) (l : List Byte) : (s.buildRec r j l).mem = s.mem :=
  (rfl)

@[simp] theorem State.flushAsid_mem (s : State) (asid : Nat) : (s.flushAsid asid).mem = s.mem :=
  (rfl)

@[simp] theorem State.setPart_mem (s : State) (p : Nat) (e : PartE) : (s.setPart p e).mem = s.mem := by
  unfold State.setPart
  dsimp only
  (repeat' split) <;> simp

@[simp] theorem State.partset_mem (s : State) (p j : Nat) (e : PartE) : (s.partset p j e).mem = s.mem := by
  unfold State.partset
  split <;> simp

@[simp] theorem State.invalidate_mem (s : State) (v : InvP) (j : Nat) : (s.invalidate v j).mem = s.mem :=
  (rfl)

@[simp] theorem State.noteError_mem (s : State) (r : Err) : (s.noteError r).mem = s.mem := by
  unfold State.noteError
  dsimp only [State.freeBool, State.freeNat, State.freeWord, State.newId]
  (repeat' split) <;> simp [foldl_mem]

@[simp] theorem State.stopQueues_mem (s : State) (fn : Nat) : (s.stopQueues fn).mem = s.mem := by
  unfold State.stopQueues
  simp [foldl_mem]

@[simp] theorem State.engineFails_mem (s : State) (n choice : Nat) : (s.engineFails n choice).mem = s.mem := by
  unfold State.engineFails
  dsimp only
  (repeat' split) <;> simp

@[simp] theorem State.meet_mem (s : State) (e : ErrSite) : (s.meet e).mem = s.mem := by
  unfold State.meet
  dsimp only
  (repeat' split) <;> simp

@[simp] theorem State.detect_mem (s : State) (e : ErrSite) : (s.detect e).mem = s.mem := by
  unfold State.detect
  (repeat' split) <;> simp

@[simp] theorem State.placeWord_mem (s : State) (k : Slot) (w : W64) : (s.placeWord k w).mem = s.mem :=
  (rfl)

@[simp] theorem State.freezeTile_mem (s : State) (n : Nat) (bysb : Bool) (gen : BitVec 2) (row : List (BitVec 10)) :
    (s.freezeTile n bysb gen row).mem = s.mem := by
  simp [State.freezeTile]

@[simp] theorem State.stopRing_mem (s : State) (ring : Nat) : (s.stopRing ring).mem = s.mem := by
  unfold State.stopRing
  split <;> simp

@[simp] theorem State.holdDie_mem (s : State) (d : Nat) : (s.holdDie d).mem = s.mem := by
  unfold State.holdDie
  simp [foldl_mem]

@[simp] theorem State.releaseDie_mem (s : State) (d : Nat) : (s.releaseDie d).mem = s.mem := by
  refine (foldl_mem _ (fun s n => ?_) _ _).trans (by simp)
  split <;> simp

@[simp] theorem State.answerInbox_mem (s : State) (n : Nat) : (s.answerInbox n).mem = s.mem := by
  refine (foldl_mem _ (fun s p => ?_) _ _).trans (by simp)
  split <;> simp

@[simp] theorem State.leaveDie_mem (s : State) (d : Nat) : (s.leaveDie d).mem = s.mem := by
  unfold State.leaveDie
  simp [foldl_mem]

@[simp] theorem State.quiesced_mem (s : State) (d : Nat) (drop : Bool) (refs : List Nat) : (s.quiesced d drop refs).mem = s.mem
    := by
  unfold State.quiesced
  dsimp only [State.freeBool, State.freeNat, State.freeWord, State.newId]
  (repeat' split) <;> simp [foldl_mem]

@[simp] theorem State.restartTile_mem (s : State) (n : Nat) : (s.restartTile n).mem = s.mem := by
  simp [State.restartTile]

@[simp] theorem State.readmitTile_mem (s : State) (n : Nat) : (s.readmitTile n).mem = s.mem := by
  unfold State.readmitTile
  dsimp only
  (repeat' split) <;> simp

@[simp] theorem State.snapSend_mem (s : State) (x : Snap) (i : Nat) : (s.snapSend x i).mem = s.mem := by
  simp [State.snapSend]

@[simp] theorem State.snapStart_mem (s : State) (x : Snap) : (s.snapStart x).mem = s.mem := by
  unfold State.snapStart
  simp [foldl_mem]

@[simp] theorem State.sendManifest_mem (s : State) (x : Snap) (k : Kept) : (s.sendManifest x k).mem = s.mem :=
  (rfl)

@[simp] theorem State.repool_mem (s : State) (rs : List Nat) : (s.repool rs).mem = s.mem := by
  refine foldl_mem _ (fun s r => ?_) _ s
  split <;> simp

@[simp] theorem State.putRecs_mem (s : State) (k : Kept) (rs : List Nat) : (s.putRecs k rs).mem = s.mem :=
  (rfl)

@[simp] theorem State.farCopy_mem (s : State) (buddy : Nat) (base : W64) : (s.farCopy buddy base).2.mem = s.mem := by
  unfold State.farCopy
  dsimp only [State.freeBool]
  (repeat' split) <;> simp

@[simp] theorem State.copySect_mem (s : State) (a : Asm) (i : Nat) : (s.copySect a i).2.mem = s.mem := by
  unfold State.copySect
  simp [State.freeBool, State.freeNat]

@[simp] theorem State.openView_mem (s : State) (k view p : Nat) : (s.openView k view p).mem = s.mem :=
  (rfl)

@[simp] theorem State.loadTile_mem (s : State) (n : Nat) (b : Boot) : (s.loadTile n b).mem = s.mem := by
  unfold State.loadTile
  dsimp only
  split <;> simp

@[simp] theorem State.reserve_mem (s : State) (r : Nat) : (s.reserve r).mem = s.mem := by
  unfold State.reserve
  split <;> rfl

@[simp] theorem State.age_mem (s : State) (r : Nat) : (s.age r).mem = s.mem := by
  unfold State.age
  dsimp only
  (repeat' split) <;> simp

@[simp] theorem State.pressResv_mem (s : State) (v : Resv) : (s.pressResv v).mem = s.mem := by
  unfold State.pressResv
  simp [foldl_mem]

@[simp] theorem State.setCur_mem (s : State) (n : Nat) (k : Slot) (c : Ctl) (mayGo gather probe : Bool) : (s.setCur n k c mayGo
    gather probe).mem = s.mem :=
  (rfl)

@[simp] theorem State.settleEnt_mem (s : State) (n : Nat) (e : QEnt × Option TlbE) : (s.settleEnt n e).mem = s.mem := by
  unfold State.settleEnt
  dsimp only
  (repeat' split) <;> simp

@[simp] theorem State.settleAhead_mem (s : State) (n : Nat) : (s.settleAhead n).mem = s.mem := by
  unfold State.settleAhead
  simp [foldl_mem]

@[simp] theorem State.bump_mem (s : State) (n : Nat) : (s.bump n).mem = s.mem :=
  (rfl)

@[simp] theorem State.syncEvent_mem (s : State) (n : Nat) (k : Slot) (pc : Nat) (members : List Slot) : (s.syncEvent n k pc
    members).mem = s.mem := by
  unfold State.syncEvent
  split <;> rfl

@[simp] theorem State.meetFlaw_mem (s : State) (n : Nat) (k : Slot) (f : Flaw) : (s.meetFlaw n k f).mem = s.mem := by
  unfold State.meetFlaw
  dsimp only
  split <;> simp

@[simp] theorem State.shape_mem (s : State) (n : Nat) : (s.shape n).mem = s.mem := by
  unfold State.shape
  split <;> rfl

@[simp] theorem State.withFetchWord_mem (s : State) (nbits w : Nat) : (s.withFetchWord nbits w).mem = s.mem :=
  (rfl)

end Sys2Proof.Machine

end

section

/-! # The memories stay in their one form

Log 5: the devices' memory and the host's are lists with rising addresses and no zero byte listed. What writes them keeps
that form, one rule for each function that can write. -/

namespace Sys2Proof.Machine

/-- Both memories have their one form. -/
def Canonical (m : Mem × Mem) : Prop := Memory.wf m.1 = true ∧ Memory.wf m.2 = true

theorem Canonical.dmem {s : State} (h : Canonical s.mem) : Memory.wf s.dmem = true := h.1

theorem Canonical.hmem {s : State} (h : Canonical s.mem) : Memory.wf s.hmem = true := h.2

/-- A fold of steps that keep the form keeps it. -/
theorem foldl_canonical {α : Type} {f : State → α → State} {s : State} (l : List α)
    (hf : ∀ s x, Canonical s.mem → Canonical (f s x).mem) (h : Canonical s.mem) : Canonical (l.foldl f s).mem := by
  induction l generalizing s with
  | nil => exact h
  | cons x l ih => exact ih (hf s x h)

@[simp] theorem canonical_ite {c : Prop} [Decidable c] {a b : State} :
    Canonical (if c then a else b).mem ↔ (c → Canonical a.mem) ∧ (¬c → Canonical b.mem) := by
  split <;> simp [*]

/-! ## The functions that write a memory themselves -/

@[simp] theorem State.writePa_canonical {s : State} (pa : Nat) (l : List Byte) (h : Canonical s.mem) : Canonical (s.writePa pa l).mem := by
  unfold State.writePa
  split
  · exact ⟨h.dmem, Laws.wf_writeBytes _ _ h.hmem⟩
  · exact ⟨Laws.wf_writeBytes _ _ h.dmem, h.hmem⟩

@[simp] theorem State.writeBulk_canonical {s : State} (pa : Nat) (l : List Byte) (h : Canonical s.mem) :
    Canonical (s.writeBulk pa l).mem := by
  unfold State.writeBulk
  split
  · exact ⟨h.dmem, Laws.wf_writeRange _ _ h.hmem⟩
  · exact ⟨Laws.wf_writeRange _ _ h.dmem, h.hmem⟩

@[simp] theorem State.toHost_canonical {s : State} (fn : Nat) (addr : W64) (l : List Byte) (h : Canonical s.mem) :
    Canonical (s.toHost fn addr l).mem := by
  unfold State.toHost
  split
  · exact ⟨h.dmem, Laws.wf_writeBytes _ _ h.hmem⟩
  · simpa using h

@[simp] theorem State.journal_canonical {s : State} (queue state cmd rcd qseq ref detail : Nat) (h : Canonical s.mem) :
    Canonical (s.journal queue state cmd rcd qseq ref detail).mem := by
  have hp : Canonical ((s.freeNat.2).partyCycles 0 s.freeNat.1).mem := by simpa using h
  refine ⟨?_, hp.hmem⟩
  change Memory.wf (if _ then _ else _) = true
  split
  · exact hp.dmem
  · exact Laws.wf_writeBytes _ _ hp.dmem

@[simp] theorem State.zeroRange_canonical {s : State} (b : Nat × Nat) (h : Canonical s.mem) : Canonical (s.zeroRange b).mem :=
  ⟨Laws.wf_filter _ h.dmem, h.hmem⟩

@[simp] theorem State.putMem_canonical {s : State} (l : Mem) (h : Canonical s.mem) : Canonical (s.putMem l).mem := by
  refine ⟨?_, h.hmem⟩
  refine List.foldlRecOn (motive := fun d => Memory.wf d = true) l _ h.dmem fun d hd c _ => ?_
  split
  · exact hd
  · exact Laws.wf_writeByte _ _ hd

@[simp] theorem State.cold_canonical {s : State} (h : Canonical s.mem) : Canonical s.cold.mem := ⟨rfl, h.hmem⟩

@[simp] theorem State.warm_canonical {s : State} (h : Canonical s.mem) : Canonical s.warm.mem := ⟨h.dmem, h.hmem⟩

@[simp] theorem State.seal_canonical {s : State} (a : Asm) (v : Viral) (trunc : Bool) (h : Canonical s.mem) :
    Canonical (s.seal a v trunc).mem := by
  unfold State.seal
  rw [State.mem_mk]
  split
  · exact h
  · exact ⟨Laws.wf_writeRange _ _ h.dmem, h.hmem⟩

/-! ## Page faults and traps -/

@[simp] theorem State.putFault_canonical {s : State} (p : Nat) (l : List Byte) (h : Canonical s.mem) :
    Canonical (s.putFault p l).mem := by
  simp [State.putFault, h]

@[simp] theorem State.pageFault_canonical {s : State} (n : Nat) (k : Slot) (detail : Nat) (va : W64) (h : Canonical s.mem) :
    Canonical (s.pageFault n k detail va).mem := by
  unfold State.pageFault
  dsimp only [State.freeBool]
  split
  · simp [h]
  · repeat' split
    all_goals simp [h]

@[simp] theorem State.takeTrap_canonical {s : State} (n : Nat) (k : Slot) (cause : Cause) (detail : Nat) (v : Option W64)
    (pc : Nat) (h : Canonical s.mem) : Canonical (s.takeTrap n k cause detail v pc).mem := by
  unfold State.takeTrap
  cases v <;> cases cause <;> simp [h]

end Sys2Proof.Machine
end

section
namespace Sys2Proof.Machine

/-! ## The journal, the homes and a task's operands -/

@[simp] theorem State.journalDev_canonical {s : State} (state rcd ref detail : Nat) (h : Canonical s.mem) :
    Canonical (s.journalDev state rcd ref detail).mem := by
  simp [State.journalDev, h]

@[simp] theorem State.homeWrite_canonical {s : State} (pa : Nat) (l : List Byte) (h : Canonical s.mem) :
    Canonical (s.homeWrite pa l).mem := by
  simp [State.homeWrite, h]

@[simp] theorem State.pinWrite_canonical {s : State} (pins : List TlbE) (k va : Nat) (l : List Byte) (h : Canonical s.mem) :
    Canonical (s.pinWrite pins k va l).mem := by
  induction k generalizing s va l with
  | zero => exact h
  | succ k ih =>
    unfold State.pinWrite
    split
    · exact h
    · refine ih _ _ ?_
      split <;> simp [h]

@[simp] theorem State.pinStore_canonical {s : State} (pins : List TlbE) (va : Nat) (l : List Byte) (h : Canonical s.mem) :
    Canonical (s.pinStore pins va l).mem :=
  State.pinWrite_canonical _ _ _ _ h

@[simp] theorem State.complete_canonical {s : State} (r status : Nat) (trapc trapv : W64) (h : Canonical s.mem) :
    Canonical (s.complete r status trapc trapv).mem := by
  unfold State.complete
  dsimp only
  repeat' split
  all_goals simp [h]

@[simp] theorem State.applyAcc_canonical {s : State} (d src id : Nat) (a : Acc) (h : Canonical s.mem) :
    Canonical (s.applyAcc d src id a).mem := by
  unfold State.applyAcc
  cases a.op with
  | read n => simp [h]
  | write l => simp [h]
  | atom op dbl dat =>
    dsimp only
    cases atomNew op dbl (fromLe ((s.touchL2 d a).readPa a.pa (if dbl then 8 else 4))) dat <;> simp [h]

@[simp] theorem State.endRec_canonical {s : State} (r : Nat) (d : Dead) (h : Canonical s.mem) :
    Canonical (s.endRec r d).mem := by
  simp [State.endRec, h]

@[simp] theorem State.poison_canonical {s : State} (p n : Nat) (l : List Nat) (h : Canonical s.mem) :
    Canonical (s.poison_ p n l).mem := by
  fun_induction State.poison_ s p n l with
  | case1 => exact h
  | case2 => exact h
  | case3 s n r l _ ih => exact ih (State.endRec_canonical _ _ h)
  | case4 s n r l _ ih => exact ih h

@[simp] theorem State.poisonRec_canonical {s : State} (r : Nat) (d : Dead) (h : Canonical s.mem) :
    Canonical (s.poisonRec r d).mem := by
  simp [State.poisonRec, h]

@[simp] theorem State.writeBack_canonical {s : State} (x : Run) (h : Canonical s.mem) : Canonical (s.writeBack x).mem :=
  foldl_canonical _ (fun s o hs => by simp [hs]) h

@[simp] theorem State.taskDone_canonical {s : State} (x : Run) (h : Canonical s.mem) : Canonical (s.taskDone x).mem := by
  unfold State.taskDone
  rw [State.unbind_mem]
  exact foldl_canonical _ (fun s r hs => by simp [hs]) (by simp [h])

@[simp] theorem State.taskKilled_canonical {s : State} (x : Run) (d : Dead) (h : Canonical s.mem) :
    Canonical (s.taskKilled x d).mem := by
  simp [State.taskKilled, h]

@[simp] theorem State.writeFrame_canonical {s : State} (n : Nat) (d : Drain) (b : Bind) (h : Canonical s.mem) :
    Canonical (s.writeFrame n d b).mem := by
  unfold State.writeFrame
  dsimp only
  split
  · exact h
  · rw [State.tileEvent_mem, State.mem_mk, State.mem_eta]
    exact foldl_canonical _ (fun s a hs => by simp [hs]) (by simp [h])

/-! ## The host's commands -/

@[simp] theorem State.reject_canonical {s : State} (x : Packet) (rcd err : Nat) (h : Canonical s.mem) :
    Canonical (s.reject x rcd err).mem := by
  simp [State.reject, h]

@[simp] theorem State.accept_canonical {s : State} (x : Packet) (rcd : Nat) (h : Canonical s.mem) :
    Canonical (s.accept x rcd).2.mem := by
  simp [State.accept, h]

@[simp] theorem State.settleCmd_canonical {s : State} (x : Packet) (rcd err : Nat) {eff : Nat → State → State}
    (heff : ∀ j s, Canonical s.mem → Canonical (eff j s).mem) (h : Canonical s.mem) :
    Canonical (s.settleCmd x rcd err eff).mem := by
  unfold State.settleCmd
  split
  · simp [h]
  · exact heff _ _ (State.accept_canonical _ _ h)

theorem State.runCmd_canonical {s : State} (fn q cmd len : Nat) (pf : Bool) (rcd chk : Packet → Nat)
    {eff : Packet → Nat → State → State} (heff : ∀ x j s, Canonical s.mem → Canonical (eff x j s).mem)
    (h : Canonical s.mem) : Canonical (s.runCmd fn q cmd len pf rcd chk eff).mem := by
  unfold State.runCmd
  split
  · exact h
  · exact State.settleCmd_canonical _ _ _ (heff _) h

theorem State.fabset_canonical {s : State} (fn q reg : Nat) (chk : Packet → Nat) {eff : Packet → State → State}
    (heff : ∀ x s, Canonical s.mem → Canonical (eff x s).mem) (h : Canonical s.mem) :
    Canonical (s.fabset fn q reg chk eff).mem := by
  unfold State.fabset
  split
  · exact h
  · dsimp only
    split
    · exact h
    · exact State.settleCmd_canonical _ _ _ (fun _ => heff _) h

/-! ## Partitions, invalidations and page-fault rings -/

@[simp] theorem State.grant_canonical {s : State} (p : Nat) (e : PartE) (h : Canonical s.mem) : Canonical (s.grant p e).mem := by
  unfold State.grant
  refine foldl_canonical _ (fun s n hs => by simp [hs]) ?_
  rw [State.setPart_mem]
  exact foldl_canonical _ (fun s b hs => by simp [hs]) h

@[simp] theorem State.granted_canonical {s : State} (p j : Nat) (e : PartE) (h : Canonical s.mem) :
    Canonical (s.granted p j e).mem := by
  simp [State.granted, h]

@[simp] theorem State.invalDone_canonical {s : State} (f : InvF) (h : Canonical s.mem) : Canonical (s.invalDone f).mem := by
  refine State.journalDev_canonical _ _ _ _ ?_
  rw [State.mem_mk, State.mem_eta]
  exact foldl_canonical _ (fun s e hs => by simp [hs]) h

@[simp] theorem State.flushFault_canonical {s : State} (p : Nat) (f : FRing) (l : List Byte) (r : List (List Byte))
    (h : Canonical s.mem) : Canonical (s.flushFault p f l r).mem := by
  simp [State.flushFault, h]

/-! ## The actions on errors -/

@[simp] theorem State.resetPart_canonical {s : State} (p : Nat) (lost : Option Nat) (d : Dead) (h : Canonical s.mem) :
    Canonical (s.resetPart p lost d).mem := by
  unfold State.resetPart
  rw [State.wiped_mem, State.mem_mk, State.mem_eta, State.stopQueues_mem]
  refine foldl_canonical _ (fun s r hs => by simp [hs]) ?_
  exact foldl_canonical _ (fun s r hs => by simp [hs]) h

@[simp] theorem State.act_canonical {s : State} (r : Err) (a : Attr) (n : Nat) (h : Canonical s.mem) :
    Canonical (s.act r a n).mem := by
  unfold State.act
  dsimp only
  repeat' split
  all_goals simp [h]

@[simp] theorem State.settleErrors_canonical {s : State} (h : Canonical s.mem) : Canonical s.settleErrors.mem := by
  unfold State.settleErrors
  dsimp only
  split
  · exact h
  · refine foldl_canonical _ (fun s p hs => ?_) (foldl_canonical _ (fun s e hs => by simp [hs]) h)
    split <;> simp [hs]

@[simp] theorem State.settleStep_canonical {s : State} (h : Canonical s.mem) : Canonical s.settleStep.mem := by
  simp [State.settleStep, h]

/-! ## Dies, snapshots and the Cartouche -/

@[simp] theorem State.dieEntries_canonical {s : State} (state detail : Nat) (refs : List Nat) (h : Canonical s.mem) :
    Canonical (s.dieEntries state detail refs).mem :=
  foldl_canonical _ (fun s j hs => by simp [hs]) h

@[simp] theorem State.quiesce_canonical {s : State} (d : Nat) (drop : Bool) (refs : List Nat) (h : Canonical s.mem) :
    Canonical (s.quiesce d drop refs).mem := by
  unfold State.quiesce
  dsimp only
  split
  · simp [h]
  · rw [State.mem_mk, State.mem_eta]
    exact foldl_canonical _ (fun s r hs => by simp [hs]) (by simp [h])

@[simp] theorem State.retrained_canonical {s : State} (d : Nat) (refs : List Nat) (ok : Bool) (h : Canonical s.mem) :
    Canonical (s.retrained d refs ok).mem := by
  unfold State.retrained
  split
  · refine State.dieEntries_canonical _ _ _ ?_
    rw [State.modDie_mem]
    exact foldl_canonical _ (fun s n hs => by simp [hs]) h
  · simp [h]

@[simp] theorem State.snapDone_canonical {s : State} (x : Snap) (h : Canonical s.mem) : Canonical (s.snapDone x).mem :=
  State.journalDev_canonical _ _ _ _ (foldl_canonical _ (fun s k hs => by simp [hs]) h)

@[simp] theorem State.snapFail_canonical {s : State} (x : Snap) (h : Canonical s.mem) : Canonical (s.snapFail x).mem := by
  simp [State.snapFail, h]

@[simp] theorem State.snapAck_canonical {s : State} (x : Snap) (h : Canonical s.mem) : Canonical (s.snapAck x).mem := by
  simp [State.snapAck, h]

/-- The words that a page of a snapshot takes free, one by one. -/
theorem foldl_freeWord_canonical {s : State} (l : List Nat) (b : List Byte) (h : Canonical s.mem) :
    Canonical (l.foldl (fun (r : List Byte × State) _ =>
      let (w, s) := r.2.freeWord
      (r.1 ++ leBytes 8 w.toNat, s)) (b, s)).2.mem :=
  List.foldlRecOn (motive := fun r : List Byte × State => Canonical r.2.mem) l _ h fun r hr _ _ => by simpa using hr

@[simp] theorem State.snapTake_canonical {s : State} (q : Nat) (h : Canonical s.mem) : Canonical (s.snapTake q).mem := by
  unfold State.snapTake
  obtain ⟨r, hr⟩ : ∃ r, r = (List.range 512).foldl (fun (r : List Byte × State) _ =>
    let (w, s) := r.2.freeWord
    (r.1 ++ leBytes 8 w.toNat, s)) ([], s.freeNat.2) := ⟨_, rfl⟩
  have hc : Canonical r.2.mem := hr ▸ foldl_freeWord_canonical _ _ (by simpa using h)
  dsimp only
  rw [← hr]
  simp [hc]

@[simp] theorem State.putBack_canonical {s : State} (r : Rest) (h : Canonical s.mem) : Canonical (s.putBack r).mem := by
  unfold State.putBack
  rw [State.repool_mem]
  refine foldl_canonical _ (fun s e hs => foldl_canonical _ (fun s n hs => by simp [hs]) hs) ?_
  rw [State.putRecs_mem]
  refine foldl_canonical _ (fun s e hs => by simp [hs]) (State.putMem_canonical _ ?_)
  exact foldl_canonical _ (fun s b hs => by simp [hs]) h

@[simp] theorem State.restored_canonical {s : State} (r : Rest) (h : Canonical s.mem) : Canonical (s.restored r).mem := by
  simp [State.restored, h]

@[simp] theorem State.snapRestore_canonical {s : State} (x : Packet) (j : Nat) (h : Canonical s.mem) :
    Canonical (s.snapRestore x j).mem := by
  simp [State.snapRestore, h]

@[simp] theorem State.assemble_canonical {s : State} (v : Viral) (i : Nat) (h : Canonical s.mem) :
    Canonical (s.assemble v i).mem := by
  simp [State.assemble, h]

/-! ## Dispatch and start -/

@[simp] theorem State.dispatch_canonical {s : State} (r : Nat) (qs : List Nat) (p : Prep) (h : Canonical s.mem) :
    Canonical (s.dispatch r qs p).mem := by
  unfold State.dispatch
  dsimp only
  refine foldl_canonical _ (fun s e hs => by simp [hs]) ?_
  split <;> simp [h]

@[simp] theorem State.decide_canonical {s : State} (h : Canonical s.mem) : Canonical s.decide_.mem := by
  unfold State.decide_
  split
  · exact h
  · simp [h]
  · split
    · simp [h]
    · dsimp only
      have hs : Canonical (List.foldl State.age s ‹_›).mem := foldl_canonical _ (fun s r hs => by simp [hs]) h
      split <;> simp [hs]

@[simp] theorem State.startFresh_canonical {s : State} (n : Nat) (b : Boot) (rank : Nat) (h : Canonical s.mem) :
    Canonical (s.startFresh n b rank).mem := by
  simp [State.startFresh, h]

end Sys2Proof.Machine
end

section
namespace Sys2Proof.Machine

/-- The outcome, where there is a next state, has both memories in their one form. -/
def StaysCanonical (o : Out3) : Prop := ∀ r, o = .next r → Canonical r.mem

@[simp] theorem staysCanonical_next {r : State} : StaysCanonical (.next r) ↔ Canonical r.mem :=
  ⟨fun h => h r rfl, fun h _ e => by cases e; exact h⟩

@[simp] theorem staysCanonical_ite {c : Prop} [Decidable c] {a b : Out3} :
    StaysCanonical (if c then a else b) ↔ (c → StaysCanonical a) ∧ (¬c → StaysCanonical b) := by
  split <;> simp [*]

@[simp] theorem staysCanonical_fault (f : Fault) : StaysCanonical (.fault f) := fun _ e => by cases e

@[simp] theorem staysCanonical_refused (f : Refusal) : StaysCanonical (.refused f) := fun _ e => by cases e

theorem State.mem_of_arriving {s s' : State} {p : Nat} {want : Flit → Bool} {r : Option Flit} (h : s.arriving p want = (r, s')) :
    s'.mem = s.mem := by
  have := s.arriving_mem p want
  rwa [h] at this

theorem execStart_canonical {s : State} (tile : Nat) (h : Canonical s.mem) : StaysCanonical (execStart tile s) := by
  unfold execStart
  dsimp only
  split
  · split
    · simp [h]
    · split
      · simpa using h
      · split
        · split
          · simp [h]
          · simp [State.restoreTile_mem ‹_›, h]
          · simp [h]
        · simp [h]
  · simpa using h

theorem execFenceRetire_canonical {s : State} (tile : Nat) (h : Canonical s.mem) :
    StaysCanonical (execFenceRetire tile s) := by
  simp [execFenceRetire, h]

theorem execDeq_canonical {s : State} (tile : Nat) (store : Bool) (h : Canonical s.mem) :
    StaysCanonical (execDeq tile store s) := by
  unfold execDeq
  dsimp only
  repeat' split
  all_goals simp [h]

theorem execEntryTranslate_canonical {s : State} (tile : Nat) (store : Bool) (index : Nat) (h : Canonical s.mem) :
    StaysCanonical (execEntryTranslate tile store index s) := by
  unfold execEntryTranslate
  dsimp only
  repeat' split
  all_goals simp [h]

theorem execPageWalk_canonical {s : State} (die asid va : Nat) (h : Canonical s.mem) :
    StaysCanonical (execPageWalk die asid va s) := by
  unfold execPageWalk
  dsimp only
  repeat' split
  all_goals simp [h]

theorem execHop_canonical {s : State} (die path : Nat) (keep : Bool) (h : Canonical s.mem) :
    StaysCanonical (execHop die path keep s) := by
  unfold execHop
  dsimp only
  repeat' split
  all_goals simp [h]

theorem execRdcEvict_canonical {s : State} (die line : Nat) (h : Canonical s.mem) :
    StaysCanonical (execRdcEvict die line s) := by
  simp [execRdcEvict, h]

theorem execSend_canonical {s : State} (src dst path : Nat) (h : Canonical s.mem) :
    StaysCanonical (execSend src dst path s) := by
  unfold execSend
  dsimp only
  repeat' split
  all_goals simp [h]

theorem execPacketArrive_canonical {s : State} (src dst : Nat) (h : Canonical s.mem) :
    StaysCanonical (execPacketArrive src dst s) := by
  unfold execPacketArrive
  dsimp only
  repeat' split
  all_goals simp [h]

theorem execDeliver_canonical {s : State} (party index : Nat) (h : Canonical s.mem) :
    StaysCanonical (execDeliver party index s) := by
  unfold execDeliver
  dsimp only
  repeat' split
  all_goals simp [h]

theorem execDeliveryReport_canonical {s : State} (party src : Nat) (h : Canonical s.mem) :
    StaysCanonical (execDeliveryReport party src s) := by
  simp [execDeliveryReport, h]

theorem execReportReceive_canonical {s : State} (party index : Nat) (h : Canonical s.mem) :
    StaysCanonical (execReportReceive party index s) := by
  unfold execReportReceive
  dsimp only
  repeat' split
  all_goals simp [h]

theorem execPerform_canonical {s : State} (die index : Nat) (h : Canonical s.mem) :
    StaysCanonical (execPerform die index s) := by
  unfold execPerform
  dsimp only
  repeat' split
  all_goals simp [h]

theorem execReturnVal_canonical {s : State} (tile : Nat) (h : Canonical s.mem) : StaysCanonical (execReturnVal tile s) := by
  unfold execReturnVal
  dsimp only
  repeat' split
  all_goals simp [h]

theorem execCommit_canonical {s : State} (tile index : Nat) (h : Canonical s.mem) :
    StaysCanonical (execCommit tile index s) := by
  unfold execCommit
  dsimp only
  repeat' split
  all_goals simp [h]

theorem execHostCompletion_canonical {s : State} (index : Nat) (h : Canonical s.mem) :
    StaysCanonical (execHostCompletion index s) := by
  unfold execHostCompletion
  dsimp only
  repeat' split
  all_goals simp [h]

theorem execHostWrite_canonical {s : State} (addr : Nat) (bytes : List Byte) (h : Canonical s.mem) :
    StaysCanonical (execHostWrite addr bytes s) := by
  simp [execHostWrite, h]

theorem execCopyBegin_canonical {s : State} (tile : Nat) (h : Canonical s.mem) : StaysCanonical (execCopyBegin tile s) := by
  unfold execCopyBegin
  dsimp only
  repeat' split
  all_goals simp [h]

theorem execCopySector_canonical {s : State} (tile cmd index : Nat) (h : Canonical s.mem) :
    StaysCanonical (execCopySector tile cmd index s) := by
  unfold execCopySector
  dsimp only
  repeat' split
  all_goals simp [h]

theorem execCopySeqCommit_canonical {s : State} (tile : Nat) (h : Canonical s.mem) :
    StaysCanonical (execCopySeqCommit tile s) := by
  unfold execCopySeqCommit
  dsimp only
  repeat' split
  all_goals simp [h]

theorem execChainEntryRead_canonical {s : State} (tile : Nat) (h : Canonical s.mem) :
    StaysCanonical (execChainEntryRead tile s) := by
  unfold execChainEntryRead
  dsimp only
  repeat' split
  · simpa using h
  · simpa using h
  · simp [h]
  · simpa using h
  all_goals simp [State.mem_of_translate ‹s.translate _ _ _ = _›, h]

theorem execPutBegin_canonical {s : State} (tile : Nat) (h : Canonical s.mem) : StaysCanonical (execPutBegin tile s) := by
  unfold execPutBegin
  dsimp only
  repeat' split
  all_goals simp [h]

theorem execPutArrive_canonical {s : State} (tile index : Nat) (h : Canonical s.mem) :
    StaysCanonical (execPutArrive tile index s) := by
  unfold execPutArrive
  dsimp only
  repeat' split
  all_goals simp [h]

theorem execGetrqArrive_canonical {s : State} (tile index : Nat) (h : Canonical s.mem) :
    StaysCanonical (execGetrqArrive tile index s) := by
  unfold execGetrqArrive
  dsimp only
  repeat' split
  all_goals simp [h]

theorem execGetrsArrive_canonical {s : State} (tile index : Nat) (h : Canonical s.mem) :
    StaysCanonical (execGetrsArrive tile index s) := by
  unfold execGetrsArrive
  dsimp only
  repeat' split
  all_goals simp [h]

theorem execPackArrive_canonical {s : State} (tile index : Nat) (h : Canonical s.mem) :
    StaysCanonical (execPackArrive tile index s) := by
  unfold execPackArrive
  dsimp only
  repeat' split
  all_goals simp [h]

theorem execRouterTimeout_canonical {s : State} (index : Nat) (h : Canonical s.mem) :
    StaysCanonical (execRouterTimeout index s) := by
  unfold execRouterTimeout
  dsimp only
  repeat' split
  all_goals simp [h]

theorem execFlitReceive_canonical {s : State} (port : Nat) (h : Canonical s.mem) :
    StaysCanonical (execFlitReceive port s) := by
  unfold execFlitReceive
  dsimp only
  repeat' split
  all_goals simp [State.mem_of_arriving ‹s.arriving port _ = _›, h]

theorem execAckTimer_canonical {s : State} (port : Nat) (h : Canonical s.mem) : StaysCanonical (execAckTimer port s) := by
  simp [execAckTimer, h]

theorem execRetryReceive_canonical {s : State} (port : Nat) (h : Canonical s.mem) :
    StaysCanonical (execRetryReceive port s) := by
  unfold execRetryReceive
  dsimp only
  repeat' split
  all_goals simp [State.mem_of_arriving ‹s.arriving port _ = _›, h]

theorem execRetryRepeat_canonical {s : State} (port : Nat) (h : Canonical s.mem) :
    StaysCanonical (execRetryRepeat port s) := by
  simp [execRetryRepeat, h]

theorem execLaneShed_canonical {s : State} (port lane : Nat) (h : Canonical s.mem) :
    StaysCanonical (execLaneShed port lane s) := by
  simp [execLaneShed, h]

theorem execRshreqReceive_canonical {s : State} (port : Nat) (h : Canonical s.mem) :
    StaysCanonical (execRshreqReceive port s) := by
  unfold execRshreqReceive
  dsimp only
  repeat' split
  all_goals simp [State.mem_of_arriving ‹s.arriving port _ = _›, execRshreqReceive.agree, h]

theorem execRshackReceive_canonical {s : State} (port : Nat) (h : Canonical s.mem) :
    StaysCanonical (execRshackReceive port s) := by
  unfold execRshackReceive
  dsimp only
  repeat' split
  all_goals simp [State.mem_of_arriving ‹s.arriving port _ = _›, h]

theorem execRshreqRepeat_canonical {s : State} (port : Nat) (h : Canonical s.mem) :
    StaysCanonical (execRshreqRepeat port s) := by
  unfold execRshreqRepeat
  dsimp only
  repeat' split
  all_goals simp [h]

theorem execLinkTimeout_canonical {s : State} (port : Nat) (h : Canonical s.mem) :
    StaysCanonical (execLinkTimeout port s) := by
  simp [execLinkTimeout, h]

theorem execRetrain_canonical {s : State} (port : Nat) (m : BitVec 8) (h : Canonical s.mem) :
    StaysCanonical (execRetrain port m s) := by
  unfold execRetrain
  split
  · simpa using h
  · refine staysCanonical_next.2 ?_
    rw [State.setPort_mem]
    exact foldl_canonical _ (fun s q hs => by simp [hs]) h

theorem execPacketForward_canonical {s : State} (index port : Nat) (h : Canonical s.mem) :
    StaysCanonical (execPacketForward index port s) := by
  unfold execPacketForward
  repeat' split
  all_goals simp [h]

theorem execEscapeEntry_canonical {s : State} (index : Nat) (h : Canonical s.mem) :
    StaysCanonical (execEscapeEntry index s) := by
  unfold execEscapeEntry
  dsimp only
  repeat' split
  all_goals simp [h]

theorem execTreeInstall_canonical {s : State} (version : Nat) (links : List (Nat × Nat)) (h : Canonical s.mem) :
    StaysCanonical (execTreeInstall version links s) := by
  simp [execTreeInstall, h]

theorem execTreeRetire_canonical {s : State} (version : Nat) (h : Canonical s.mem) :
    StaysCanonical (execTreeRetire version s) := by
  simp [execTreeRetire, h]

theorem execLivenessSend_canonical {s : State} (port : Nat) (h : Canonical s.mem) :
    StaysCanonical (execLivenessSend port s) := by
  unfold execLivenessSend
  repeat' split
  all_goals simp [h]

theorem execLivenessReceive_canonical {s : State} (port : Nat) (h : Canonical s.mem) :
    StaysCanonical (execLivenessReceive port s) := by
  unfold execLivenessReceive
  dsimp only
  repeat' split
  all_goals simp [h]

theorem execGroupTimeout_canonical {s : State} (group : Nat) (h : Canonical s.mem) :
    StaysCanonical (execGroupTimeout group s) := by
  simp [execGroupTimeout, h]

theorem execHoldTimeout_canonical {s : State} (party index : Nat) (h : Canonical s.mem) :
    StaysCanonical (execHoldTimeout party index s) := by
  unfold execHoldTimeout
  dsimp only
  repeat' split
  all_goals simp [h]

theorem execInterdieLinkError_canonical {s : State} (p q : Nat) (h : Canonical s.mem) :
    StaysCanonical (execInterdieLinkError p q s) := by
  simp [execInterdieLinkError, h]

theorem execResurveyResume_canonical {s : State} (h : Canonical s.mem) : StaysCanonical (execResurveyResume s) := by
  unfold execResurveyResume
  repeat' split
  all_goals simp [h]

theorem execContribBegin_canonical {s : State} (tile : Nat) (h : Canonical s.mem) :
    StaysCanonical (execContribBegin tile s) := by
  unfold execContribBegin
  dsimp only
  repeat' split
  all_goals simp [h]

theorem execContribReceive_canonical {s : State} (tile index : Nat) (h : Canonical s.mem) :
    StaysCanonical (execContribReceive tile index s) := by
  unfold execContribReceive
  dsimp only
  repeat' split
  all_goals simp [h]

theorem execCackReceive_canonical {s : State} (tile index : Nat) (h : Canonical s.mem) :
    StaysCanonical (execCackReceive tile index s) := by
  unfold execCackReceive
  dsimp only
  repeat' split
  all_goals simp [h]

theorem execContribResend_canonical {s : State} (tile entry : Nat) (h : Canonical s.mem) :
    StaysCanonical (execContribResend tile entry s) := by
  unfold execContribResend
  dsimp only
  repeat' split
  all_goals simp [h]

theorem execFinReceive_canonical {s : State} (tile index : Nat) (h : Canonical s.mem) :
    StaysCanonical (execFinReceive tile index s) := by
  simp [execFinReceive, h]

theorem execBrelReceive_canonical {s : State} (tile index : Nat) (h : Canonical s.mem) :
    StaysCanonical (execBrelReceive tile index s) := by
  simp [execBrelReceive, h]

theorem execAllfinRelease_canonical {s : State} (tile entry : Nat) (h : Canonical s.mem) :
    StaysCanonical (execAllfinRelease tile entry s) := by
  simp [execAllfinRelease, h]

theorem execAbortReceive_canonical {s : State} (tile index : Nat) (h : Canonical s.mem) :
    StaysCanonical (execAbortReceive tile index s) := by
  unfold execAbortReceive
  dsimp only
  repeat' split
  all_goals simp [h]

theorem execDispatchDecision_canonical {s : State} (h : Canonical s.mem) : StaysCanonical (execDispatchDecision s) := by
  simp [execDispatchDecision, h]

theorem execReservationTimeout_canonical {s : State} (part : Nat) (h : Canonical s.mem) :
    StaysCanonical (execReservationTimeout part s) := by
  unfold execReservationTimeout
  repeat' split
  all_goals simp [h]

theorem execTaskEnd_canonical {s : State} (run : Nat) (h : Canonical s.mem) : StaysCanonical (execTaskEnd run s) := by
  unfold execTaskEnd
  repeat' split
  all_goals simp [h]

theorem execPreemptArrive_canonical {s : State} (tile : Nat) (h : Canonical s.mem) :
    StaysCanonical (execPreemptArrive tile s) := by
  unfold execPreemptArrive
  dsimp only
  repeat' split
  all_goals simp [h]

theorem execPreemptInhTimeout_canonical {s : State} (tile : Nat) (h : Canonical s.mem) :
    StaysCanonical (execPreemptInhTimeout tile s) := by
  unfold execPreemptInhTimeout
  dsimp only
  repeat' split
  all_goals simp [h]

theorem execStubTimeout_canonical {s : State} (tile : Nat) (slot : Slot) (h : Canonical s.mem) :
    StaysCanonical (execStubTimeout tile slot s) := by
  simp [execStubTimeout, h]

theorem execFrameComplete_canonical {s : State} (tile : Nat) (h : Canonical s.mem) :
    StaysCanonical (execFrameComplete tile s) := by
  unfold execFrameComplete
  dsimp only
  repeat' split
  all_goals simp [h]

theorem execQptWatchdog_canonical {s : State} (tile : Nat) (h : Canonical s.mem) :
    StaysCanonical (execQptWatchdog tile s) := by
  unfold execQptWatchdog
  dsimp only
  repeat' split
  all_goals simp [h]

theorem execStallWatchdog_canonical {s : State} (tile : Nat) (slot : Slot) (h : Canonical s.mem) :
    StaysCanonical (execStallWatchdog tile slot s) := by
  simp [execStallWatchdog, h]

theorem execInvalDone_canonical {s : State} (index : Nat) (h : Canonical s.mem) : StaysCanonical (execInvalDone index s) := by
  unfold execInvalDone
  repeat' split
  all_goals simp [h]

theorem execFaultRingFlush_canonical {s : State} (part : Nat) (h : Canonical s.mem) :
    StaysCanonical (execFaultRingFlush part s) := by
  unfold execFaultRingFlush
  dsimp only
  repeat' split
  all_goals simp [h]

theorem execErrorDetected_canonical {s : State} (e : ErrSite) (h : Canonical s.mem) :
    StaysCanonical (execErrorDetected e s) := by
  simp [execErrorDetected, h]

theorem execViralSideband_canonical {s : State} (party : Nat) (h : Canonical s.mem) :
    StaysCanonical (execViralSideband party s) := by
  simp [execViralSideband, h]

theorem execFreezePacketArrive_canonical {s : State} (tile : Nat) (h : Canonical s.mem) :
    StaysCanonical (execFreezePacketArrive tile s) := by
  unfold execFreezePacketArrive
  dsimp only
  repeat' split
  all_goals simp [h]

theorem execFreezeTimeout_canonical {s : State} (ring : Nat) (h : Canonical s.mem) :
    StaysCanonical (execFreezeTimeout ring s) := by
  simp [execFreezeTimeout, h]

theorem execCartoucheAssemble_canonical {s : State} (part : Nat) (h : Canonical s.mem) :
    StaysCanonical (execCartoucheAssemble part s) := by
  unfold execCartoucheAssemble
  repeat' split
  all_goals simp [h]

theorem execSealDeadline_canonical {s : State} (h : Canonical s.mem) : StaysCanonical (execSealDeadline s) := by
  unfold execSealDeadline
  repeat' split
  all_goals simp [h]

theorem execDebugHold_canonical {s : State} (die : Nat) (h : Canonical s.mem) : StaysCanonical (execDebugHold die s) := by
  simp [execDebugHold, h]

theorem execDebugRelease_canonical {s : State} (die : Nat) (h : Canonical s.mem) :
    StaysCanonical (execDebugRelease die s) := by
  simp [execDebugRelease, h]

theorem execDieQuiesceTimeout_canonical {s : State} (die : Nat) (h : Canonical s.mem) :
    StaysCanonical (execDieQuiesceTimeout die s) := by
  unfold execDieQuiesceTimeout
  dsimp only
  repeat' split
  all_goals simp [h]

theorem execDieRetrainDone_canonical {s : State} (die : Nat) (ok : Bool) (h : Canonical s.mem) :
    StaysCanonical (execDieRetrainDone die ok s) := by
  unfold execDieRetrainDone
  dsimp only
  repeat' split
  all_goals simp [h]

theorem execDieDropThreshold_canonical {s : State} (die : Nat) (h : Canonical s.mem) :
    StaysCanonical (execDieDropThreshold die s) := by
  simp [execDieDropThreshold, h]

theorem execSnapshotBegin_canonical {s : State} (h : Canonical s.mem) : StaysCanonical (execSnapshotBegin s) := by
  unfold execSnapshotBegin
  repeat' split
  all_goals simp [h]

theorem execSnapshotResend_canonical {s : State} (index : Nat) (h : Canonical s.mem) :
    StaysCanonical (execSnapshotResend index s) := by
  unfold execSnapshotResend
  repeat' split
  all_goals simp [h]

theorem execTrainingComplete_canonical {s : State} (h : Canonical s.mem) : StaysCanonical (execTrainingComplete s) := by
  simp [execTrainingComplete, h]

theorem execFullServiceBegin_canonical {s : State} (h : Canonical s.mem) : StaysCanonical (execFullServiceBegin s) := by
  unfold execFullServiceBegin
  split
  · exact staysCanonical_next.2 (foldl_canonical _ (fun s d hs => by simp [hs]) h)
  · simpa using h

theorem execColdReset_canonical {s : State} (h : Canonical s.mem) : StaysCanonical (execColdReset s) := by
  simp [execColdReset, h]

theorem execQtailWrite_canonical {s : State} (fn q : Nat) (value : BitVec 32) (h : Canonical s.mem) :
    StaysCanonical (execQtailWrite fn q value s) := by
  simp [execQtailWrite, h]

theorem execQueueRestart_canonical {s : State} (fn q : Nat) (h : Canonical s.mem) :
    StaysCanonical (execQueueRestart fn q s) := by
  simp [execQueueRestart, h]

theorem execHostRegWrite_canonical {s : State} (fn reg : Nat) (value : W64) (h : Canonical s.mem) :
    StaysCanonical (execHostRegWrite fn reg value s) := by
  simp [execHostRegWrite, h]

theorem execCmdNop_canonical {s : State} (fn q : Nat) (h : Canonical s.mem) : StaysCanonical (execCmdNop fn q s) := by
  unfold execCmdNop
  repeat' split
  all_goals simp [h]

theorem execBuild_canonical {s : State} (fn q : Nat) (h : Canonical s.mem) : StaysCanonical (execBuild fn q s) :=
  staysCanonical_next.2 <| State.runCmd_canonical _ _ _ _ _ _ _ (fun _ _ _ hs => by simp [hs]) h

theorem execArm_canonical {s : State} (fn q : Nat) (h : Canonical s.mem) : StaysCanonical (execArm fn q s) :=
  staysCanonical_next.2 <| State.runCmd_canonical _ _ _ _ _ _ _ (fun _ _ _ hs => by simp [hs]) h

theorem execRelease_canonical {s : State} (fn q : Nat) (h : Canonical s.mem) : StaysCanonical (execRelease fn q s) :=
  staysCanonical_next.2 <| State.runCmd_canonical _ _ _ _ _ _ _ (fun _ _ _ hs => by simp [hs]) h

theorem execPreempt_canonical {s : State} (fn q : Nat) (h : Canonical s.mem) : StaysCanonical (execPreempt fn q s) :=
  staysCanonical_next.2 <| State.runCmd_canonical _ _ _ _ _ _ _ (fun _ _ _ hs => by simp [hs]) h

theorem execResolve_canonical {s : State} (fn q : Nat) (h : Canonical s.mem) : StaysCanonical (execResolve fn q s) :=
  staysCanonical_next.2 <| State.runCmd_canonical _ _ _ _ _ _ _ (fun _ _ _ hs => by simp [hs]) h

theorem execInval_canonical {s : State} (fn q : Nat) (h : Canonical s.mem) : StaysCanonical (execInval fn q s) :=
  staysCanonical_next.2 <| State.runCmd_canonical _ _ _ _ _ _ _ (fun _ _ _ hs => by simp [hs]) h

theorem execJread_canonical {s : State} (fn q : Nat) (h : Canonical s.mem) : StaysCanonical (execJread fn q s) :=
  staysCanonical_next.2 <| State.runCmd_canonical _ _ _ _ _ _ _ (fun _ _ _ hs => by simp [hs]) h

theorem execCapsList_canonical {s : State} (fn q : Nat) (h : Canonical s.mem) : StaysCanonical (execCapsList fn q s) :=
  staysCanonical_next.2 <| State.runCmd_canonical _ _ _ _ _ _ _ (fun _ _ _ hs => by simp [hs]) h

theorem execCapsRead_canonical {s : State} (fn q : Nat) (h : Canonical s.mem) : StaysCanonical (execCapsRead fn q s) := by
  unfold execCapsRead
  split
  · simpa using h
  · exact staysCanonical_next.2 (State.runCmd_canonical _ _ _ _ _ _ _ (fun _ _ _ hs => by simp [hs]) h)

theorem execPartset_canonical {s : State} (fn q : Nat) (h : Canonical s.mem) : StaysCanonical (execPartset fn q s) :=
  staysCanonical_next.2 <| State.runCmd_canonical _ _ _ _ _ _ _ (fun _ _ _ hs => by simp [hs]) h

theorem execPartsetDone_canonical {s : State} (part : Nat) (h : Canonical s.mem) :
    StaysCanonical (execPartsetDone part s) := by
  unfold execPartsetDone
  repeat' split
  all_goals simp [h]

theorem execSevset_canonical {s : State} (fn q : Nat) (h : Canonical s.mem) : StaysCanonical (execSevset fn q s) :=
  staysCanonical_next.2 <| State.runCmd_canonical _ _ _ _ _ _ _ (fun _ _ _ hs => by simp [hs]) h

theorem execTmoset_canonical {s : State} (fn q : Nat) (h : Canonical s.mem) : StaysCanonical (execTmoset fn q s) :=
  staysCanonical_next.2 <| State.runCmd_canonical _ _ _ _ _ _ _ (fun _ _ _ hs => by simp [hs]) h

theorem execWdset_canonical {s : State} (fn q : Nat) (h : Canonical s.mem) : StaysCanonical (execWdset fn q s) :=
  staysCanonical_next.2 <| State.runCmd_canonical _ _ _ _ _ _ _ (fun _ _ _ hs => by simp [hs]) h

theorem execPower_canonical {s : State} (fn q : Nat) (h : Canonical s.mem) : StaysCanonical (execPower fn q s) :=
  staysCanonical_next.2 <| State.runCmd_canonical _ _ _ _ _ _ _ (fun _ _ _ hs => by simp [hs]) h

theorem execDiereset_canonical {s : State} (fn q : Nat) (h : Canonical s.mem) : StaysCanonical (execDiereset fn q s) := by
  unfold execDiereset
  split
  · simp [h]
  · exact staysCanonical_next.2 (State.runCmd_canonical _ _ _ _ _ _ _ (fun _ _ _ hs => by simp [hs]) h)

theorem execDiedrop_canonical {s : State} (fn q : Nat) (h : Canonical s.mem) : StaysCanonical (execDiedrop fn q s) :=
  staysCanonical_next.2 <| State.runCmd_canonical _ _ _ _ _ _ _ (fun _ _ _ hs => by simp [hs]) h

theorem execSnapshot_canonical {s : State} (fn q : Nat) (h : Canonical s.mem) : StaysCanonical (execSnapshot fn q s) :=
  staysCanonical_next.2 <| State.runCmd_canonical _ _ _ _ _ _ _ (fun _ _ _ hs => by simp [hs]) h

theorem execSnaprest_canonical {s : State} (fn q : Nat) (h : Canonical s.mem) : StaysCanonical (execSnaprest fn q s) :=
  staysCanonical_next.2 <| State.runCmd_canonical _ _ _ _ _ _ _ (fun _ _ _ hs => by simp [hs]) h

theorem execPkgreset_canonical {s : State} (fn q : Nat) (h : Canonical s.mem) : StaysCanonical (execPkgreset fn q s) := by
  unfold execPkgreset
  repeat' split
  · simpa using h
  · simp [h]
  · simpa using h
  · exact staysCanonical_next.2 (State.settleCmd_canonical _ _ _ (fun _ _ hs => by simp [hs]) h)

theorem execFabsetPctl_canonical {s : State} (fn q : Nat) (h : Canonical s.mem) : StaysCanonical (execFabsetPctl fn q s) :=
  staysCanonical_next.2 <| State.fabset_canonical _ _ _ _ (fun _ _ hs => by simp [hs]) h

theorem execFabsetRcfg_canonical {s : State} (fn q : Nat) (h : Canonical s.mem) : StaysCanonical (execFabsetRcfg fn q s) :=
  staysCanonical_next.2 <| State.fabset_canonical _ _ _ _ (fun _ _ hs => by simp [hs]) h

theorem execFabsetTcw_canonical {s : State} (fn q : Nat) (h : Canonical s.mem) : StaysCanonical (execFabsetTcw fn q s) :=
  staysCanonical_next.2 <| State.fabset_canonical _ _ _ _ (fun _ _ hs => by simp [hs]) h

theorem execPackageNumberAssign_canonical {s : State} (group : BitVec 17) (member : BitVec 9) (h : Canonical s.mem) :
    StaysCanonical (execPackageNumberAssign group member s) := by
  simp [execPackageNumberAssign, h]

theorem execDebuggerAttach_canonical {s : State} (part : Nat) (on : Bool) (h : Canonical s.mem) :
    StaysCanonical (execDebuggerAttach part on s) := by
  simp [execDebuggerAttach, h]

theorem execViralNoticeReceive_canonical {s : State} (port : Nat) (h : Canonical s.mem) :
    StaysCanonical (execViralNoticeReceive port s) := by
  unfold execViralNoticeReceive
  split
  · dsimp only
    split
    · simpa using h
    · refine staysCanonical_next.2 ?_
      rw [State.expireAll_mem, State.mem_mk, State.mem_eta]
      exact foldl_canonical _ (fun s r hs => by simp [hs]) (foldl_canonical _ (fun s q hs => by simp [hs]) h)
  · simpa using h

theorem execSnapshotPacketReceive_canonical {s : State} (port : Nat) (h : Canonical s.mem) :
    StaysCanonical (execSnapshotPacketReceive port s) := by
  simp [execSnapshotPacketReceive, h]

theorem execSnapshotAckReceive_canonical {s : State} (port : Nat) (h : Canonical s.mem) :
    StaysCanonical (execSnapshotAckReceive port s) := by
  unfold execSnapshotAckReceive
  repeat' split
  all_goals simp [h]

theorem execRemovalOfAParty_canonical {s : State} (party : Nat) (h : Canonical s.mem) :
    StaysCanonical (execRemovalOfAParty party s) := by
  simp [execRemovalOfAParty, h]

end Sys2Proof.Machine
end

section
namespace Sys2Proof.Machine

/-! ## Words

A word writes a memory only by the trap that it takes: what its plan does to the whole state keeps the form. -/

/-- What the plan does to the whole state keeps the memories in their one form. -/
def Plan.Keeps (p : Plan) : Prop := ∀ s, Canonical s.mem → Canonical (p.sys s).mem

theorem Plan.keeps_of_id {p : Plan} (h : p.sys = id) : p.Keeps := fun s hs => by rwa [h]

theorem Plan.keeps_raise (cause : Cause) (detail : Nat) (v : Option W64) : (Plan.raise cause detail v).Keeps :=
  Plan.keeps_of_id rfl

theorem Plan.keeps_ill4 : Plan.ill4.Keeps := Plan.keeps_raise _ _ _

theorem Plan.keeps_ite {c : Prop} [Decidable c] {p q : Plan} (hp : p.Keeps) (hq : q.Keeps) : (if c then p else q).Keeps := by
  split
  · exact hp
  · exact hq

theorem counted_keeps (v : List W64) (lim : Nat) {p : Plan} (h : p.Keeps) : (counted v lim p).Keeps :=
  Plan.keeps_ite Plan.keeps_ill4 h

theorem indexed_keeps (v : W64) (lim : Nat) {p : Plan} (h : p.Keeps) : (indexed v lim p).Keeps :=
  Plan.keeps_ite Plan.keeps_ill4 h

theorem branchPlan_keeps (t : Tile) (k : Slot) (kind target : Nat) (pops : Bool) : (branchPlan t k kind target pops).Keeps :=
  Plan.keeps_ite (Plan.keeps_raise _ _ _) (Plan.keeps_ite (Plan.keeps_raise _ _ _) (Plan.keeps_of_id rfl))

theorem mtsrPlan_keeps (t : Tile) (k : Slot) (num : Nat) (v : W64) : (mtsrPlan t k num v).Keeps := Plan.keeps_of_id rfl

theorem VSpec.plan_keeps (x : VSpec) (s : State) (t : Tile) : (x.plan s t).Keeps := by
  unfold VSpec.plan
  refine Plan.keeps_ite Plan.keeps_ill4 ?_
  split
  · exact Plan.keeps_of_id rfl
  · split <;> exact Plan.keeps_of_id rfl

theorem answerRec_keeps {n : Nat} {k : Slot} {d : Fin 32} {op : State → Nat × State} {p : Plan}
    (h : p.sys = answerRec n k d op) (hop : ∀ s, (op s).2.mem = s.mem) : p.Keeps := fun s hs => by
  rw [h, answerRec_mem, hop]
  exact hs

theorem runWord_canonical {s : State} (o : Operands) (plan : Tile → List W64 → Plan) (hp : ∀ t v, (plan t v).Keeps)
    (h : Canonical s.mem) : StaysCanonical (runWord s o plan) := by
  have hsys t v u (hu : Canonical u.mem) : Canonical ((plan t v).sys u).mem := hp t v u hu
  unfold runWord
  dsimp only
  repeat' split
  all_goals simp [h, hsys]

theorem readPrefix_canonical {s : State} (twice : Bool) (f : Prefixes → Prefixes) (h : Canonical s.mem) :
    StaysCanonical (readPrefix s twice f) := by
  simp [readPrefix, h]

theorem scalarWord_canonical {s : State} (d : Dst) (lat : Nat) (srcs : List Src) (f : List W64 → W64) (h : Canonical s.mem) :
    StaysCanonical (scalarWord s d lat srcs f) :=
  runWord_canonical _ _ (fun _ _ => Plan.keeps_of_id rfl) h

theorem guardWord_canonical {s : State} (d : Fin 8) (srcs : List Src) (grds : List (Fin 8)) (f : Tile → List W64 → Bool)
    (h : Canonical s.mem) : StaysCanonical (guardWord s d srcs grds f) :=
  runWord_canonical _ _ (fun _ _ => Plan.keeps_of_id rfl) h

theorem plainWord_canonical {s : State} (act : Tile → Tile) (h : Canonical s.mem) : StaysCanonical (plainWord s act) :=
  runWord_canonical _ _ (fun _ _ => Plan.keeps_of_id rfl) h

theorem elemWord_canonical {s : State} (op : VOp) (md : Mode) (lat : Nat) (rule : VRule) (forceReal moves : Bool) (d : Fin 32)
    (as : List (Fin 32)) (h : Canonical s.mem) : StaysCanonical (elemWord s op md lat rule forceReal moves d as) :=
  runWord_canonical _ _ (fun _ _ => VSpec.plan_keeps _ _ _) h

theorem reduceWord_canonical {s : State} (op : VOp) (md : Mode) (lat : Nat) (d a : Fin 32) (b : Option (Fin 32))
    (h : Canonical s.mem) : StaysCanonical (reduceWord s op md lat d a b) :=
  runWord_canonical _ _ (fun _ _ => VSpec.plan_keeps _ _ _) h

theorem fillWord_canonical {s : State} (lat : Nat) (d : Fin 32) (as : List Src) (op : List W64 → VOp) (h : Canonical s.mem) :
    StaysCanonical (fillWord s lat d as op) :=
  runWord_canonical _ _ (fun _ _ => VSpec.plan_keeps _ _ _) h

theorem engineWord_canonical {s : State} (srcs : List Src) (check : Tile → List W64 → Option TrapReq) (kind : EngKind)
    (retire : Tile → List W64 → Nat) (act : List W64 → Tile → Tile) (h : Canonical s.mem) :
    StaysCanonical (engineWord s srcs check kind retire act) :=
  runWord_canonical _ _ (fun _ _ => Plan.keeps_of_id rfl) h

theorem loadWord_canonical {s : State} (r : Nat) (a b : Src) (h : Canonical s.mem) : StaysCanonical (loadWord s r a b) := by
  unfold loadWord
  exact engineWord_canonical _ _ _ _ _ h

theorem setupWord_canonical {s : State} (srcs : List Src) (w : List W64 → Tgt) (h : Canonical s.mem) :
    StaysCanonical (setupWord s srcs w) :=
  runWord_canonical _ _ (fun _ _ => Plan.keeps_of_id rfl) h

theorem entryWord_canonical {s : State} (o : LdSt) (w : Nat) (kind : QKind) (need : Nat) (inL inS ret : Bool)
    (h : Canonical s.mem) : StaysCanonical (entryWord s o w kind need inL inS ret) :=
  runWord_canonical _ _ (fun _ _ => Plan.keeps_ite (Plan.keeps_raise _ _ _) (Plan.keeps_of_id rfl)) h

theorem atomWord_canonical {s : State} (o : Atom) (op need : Nat) (ret : Bool) (h : Canonical s.mem) :
    StaysCanonical (atomWord s o op need ret) :=
  runWord_canonical _ _ (fun _ _ => Plan.keeps_ite (Plan.keeps_raise _ _ _) (Plan.keeps_of_id rfl)) h

theorem markWord_canonical {s : State} (m : Mark) (h : Canonical s.mem) : StaysCanonical (markWord s m) :=
  runWord_canonical _ _ (fun _ _ => Plan.keeps_of_id rfl) h

theorem fenceWord_canonical {s : State} (sc : Scope) (h : Canonical s.mem) : StaysCanonical (fenceWord s sc) :=
  runWord_canonical _ _ (fun _ _ u hu => (State.sendMarkers_mem u _ _).symm ▸ hu) h

theorem copyWord_canonical {s : State} (toMem : Bool) (sd ga shape pitch : Src) (mf : MemF) (h : Canonical s.mem) :
    StaysCanonical (copyWord s toMem sd ga shape pitch mf) :=
  runWord_canonical _ _ (fun _ _ => Plan.keeps_of_id rfl) h

theorem putWord_canonical {s : State} (get : Bool) (tgt adr ctl : Src) (h : Canonical s.mem) :
    StaysCanonical (putWord s get tgt adr ctl) := by
  unfold putWord
  exact runWord_canonical _ _ (fun _ _ => Plan.keeps_of_id rfl) h

theorem execCabort_canonical {s : State} (a : Src) (h : Canonical s.mem) : StaysCanonical (execCabort a s) :=
  runWord_canonical _ _ (fun _ _ => Plan.keeps_ite Plan.keeps_ill4 fun _ hu => by simp [hu]) h

theorem execLrpatch_canonical {s : State} (d : Fin 32) (a b : Src) (f : Fin 21) (h : Canonical s.mem) :
    StaysCanonical (execLrpatch d a b f s) := by
  unfold execLrpatch
  refine runWord_canonical _ _ (fun t v => Plan.keeps_ite Plan.keeps_ill4 ?_) (by simpa using h)
  exact answerRec_keeps rfl fun u => State.patch_mem u _ _ _ _

theorem execLrarm_canonical {s : State} (d : Fin 32) (a : Src) (h : Canonical s.mem) : StaysCanonical (execLrarm d a s) := by
  unfold execLrarm
  refine runWord_canonical _ _ (fun t v => Plan.keeps_ite Plan.keeps_ill4 (Plan.keeps_ite (Plan.keeps_of_id rfl) ?_))
    (by simpa using h)
  exact answerRec_keeps rfl fun u => State.armFrom_mem u _ _

theorem execDsend_canonical {s : State} (a b : Src) (h : Canonical s.mem) : StaysCanonical (execDsend a b s) :=
  runWord_canonical _ _ (fun _ _ => Plan.keeps_ite Plan.keeps_ill4 (by
    split
    · exact Plan.keeps_ill4
    · exact Plan.keeps_of_id rfl)) h

theorem execXmov_canonical {s : State} (d : XDst) (a : Src) (h : Canonical s.mem) : StaysCanonical (execXmov d a s) := by
  cases d with
  | s n => exact scalarWord_canonical _ _ _ _ h
  | sq => exact scalarWord_canonical _ _ _ _ h
  | x n =>
    unfold execXmov
    exact runWord_canonical _ _ (fun _ _ => Plan.keeps_of_id rfl) h

theorem execSel_canonical {s : State} (d : Dst) (g : Fin 8) (a b : Src) (h : Canonical s.mem) :
    StaysCanonical (execSel d g a b s) :=
  runWord_canonical _ _ (fun _ _ => Plan.keeps_of_id rfl) h

theorem execBr_canonical {s : State} (disp : BitVec 24) (h : Canonical s.mem) : StaysCanonical (execBr disp s) :=
  runWord_canonical _ _ (fun _ _ => branchPlan_keeps _ _ _ _ _) h

theorem execBri_canonical {s : State} (a : Src) (h : Canonical s.mem) : StaysCanonical (execBri a s) :=
  runWord_canonical _ _ (fun _ _ => branchPlan_keeps _ _ _ _ _) h

theorem execCall_canonical {s : State} (d : Fin 32) (disp : BitVec 24) (h : Canonical s.mem) :
    StaysCanonical (execCall d disp s) :=
  runWord_canonical _ _ (fun _ _ => branchPlan_keeps _ _ _ _ _) h

theorem execRet_canonical {s : State} (a : Src) (h : Canonical s.mem) : StaysCanonical (execRet a s) :=
  runWord_canonical _ _ (fun _ _ => branchPlan_keeps _ _ _ _ _) h

theorem execLoop_canonical {s : State} (a : Src) (endw : BitVec 18) (h : Canonical s.mem) :
    StaysCanonical (execLoop a endw s) :=
  runWord_canonical _ _ (fun _ _ => Plan.keeps_ite Plan.keeps_ill4 (Plan.keeps_ite Plan.keeps_ill4 (Plan.keeps_ite Plan.keeps_ill4 (Plan.keeps_ite (Plan.keeps_of_id rfl) (Plan.keeps_ite Plan.keeps_ill4 (Plan.keeps_of_id rfl)))))) h

theorem execTaskend_canonical {s : State} (h : Canonical s.mem) : StaysCanonical (execTaskend s) :=
  runWord_canonical _ _ (fun _ _ => Plan.keeps_of_id rfl) h

theorem execTrap_canonical {s : State} (a : Src) (h : Canonical s.mem) : StaysCanonical (execTrap a s) :=
  runWord_canonical _ _ (fun _ _ => Plan.keeps_of_id rfl) h

theorem execEret_canonical {s : State} (h : Canonical s.mem) : StaysCanonical (execEret s) :=
  runWord_canonical _ _ (fun _ _ => Plan.keeps_ite (Plan.keeps_of_id rfl) Plan.keeps_ill4) h

theorem execMtsr_canonical {s : State} (num : BitVec 6) (a : Src) (h : Canonical s.mem) :
    StaysCanonical (execMtsr num a s) :=
  runWord_canonical _ _ (fun _ _ => mtsrPlan_keeps _ _ _ _) h

theorem execMtsrSrseed_canonical {s : State} (a : Src) (h : Canonical s.mem) :
    StaysCanonical (execMtsrSrseed a s) :=
  runWord_canonical _ _ (fun _ _ => mtsrPlan_keeps _ _ _ _) h

theorem execMtsrBfmt_canonical {s : State} (n : Fin 12) (a : Src) (h : Canonical s.mem) :
    StaysCanonical (execMtsrBfmt n a s) :=
  runWord_canonical _ _ (fun _ _ => Plan.keeps_ite Plan.keeps_ill4 (mtsrPlan_keeps _ _ _ _)) h

theorem execMtsrBscl_canonical {s : State} (n : Fin 12) (a : Src) (h : Canonical s.mem) :
    StaysCanonical (execMtsrBscl n a s) :=
  runWord_canonical _ _ (fun _ _ => Plan.keeps_ite Plan.keeps_ill4 (Plan.keeps_ite (Plan.keeps_raise _ _ _) (Plan.keeps_ite (Plan.keeps_raise _ _ _) (mtsrPlan_keeps _ _ _ _)))) h

theorem execMtsrCntsel_canonical {s : State} (n : Fin 8) (a : Src) (h : Canonical s.mem) :
    StaysCanonical (execMtsrCntsel n a s) :=
  runWord_canonical _ _ (fun _ _ => Plan.keeps_ite Plan.keeps_ill4 (mtsrPlan_keeps _ _ _ _)) h

theorem execHalt_canonical {s : State} (h : Canonical s.mem) : StaysCanonical (execHalt s) := by
  unfold execHalt
  exact runWord_canonical _ _ (fun _ _ => Plan.keeps_ite (Plan.keeps_of_id rfl) (Plan.keeps_of_id rfl)) h

theorem execVqnt_canonical {s : State} (d a : Fin 32) (rnd : Rnd) (h : Canonical s.mem) :
    StaysCanonical (execVqnt d a rnd s) :=
  runWord_canonical _ _ (fun _ _ => VSpec.plan_keeps _ _ _) h

theorem execVdqnt_canonical {s : State} (d a tb : Fin 32) (md : Mode) (h : Canonical s.mem) :
    StaysCanonical (execVdqnt d a tb md s) :=
  runWord_canonical _ _ (fun _ _ => VSpec.plan_keeps _ _ _) h

theorem execVpart_canonical {s : State} (d0 d1 d2 d3 o : Fin 32) (h : Canonical s.mem) :
    StaysCanonical (execVpart d0 d1 d2 d3 o s) := by
  unfold execVpart
  exact runWord_canonical _ _ (fun _ _ => VSpec.plan_keeps _ _ _) h

theorem execVgath_canonical {s : State} (d a l : Fin 32) (h : Canonical s.mem) :
    StaysCanonical (execVgath d a l s) :=
  runWord_canonical _ _ (fun _ _ => VSpec.plan_keeps _ _ _) h

theorem execVscat_canonical {s : State} (d a l : Fin 32) (h : Canonical s.mem) :
    StaysCanonical (execVscat d a l s) :=
  runWord_canonical _ _ (fun _ _ => VSpec.plan_keeps _ _ _) h

theorem execMgo_canonical {s : State} (a : Src) (h : Canonical s.mem) : StaysCanonical (execMgo a s) := by
  unfold execMgo
  exact engineWord_canonical _ _ _ _ _ h

theorem execMwait_canonical {s : State} (h : Canonical s.mem) : StaysCanonical (execMwait s) :=
  runWord_canonical _ _ (fun _ _ => Plan.keeps_of_id rfl) h

theorem execMdrain_canonical {s : State} (a b : Src) (acc : Fin 4) (zero : Bool) (md : Mode) (h : Canonical s.mem) :
    StaysCanonical (execMdrain a b acc zero md s) := by
  unfold execMdrain
  exact engineWord_canonical _ _ _ _ _ h

theorem execMbya_canonical {s : State} (reg : Bool) (acc : Fin 4) (zero : Bool) (fmt : BitVec 6) (md : Mode) (h : Canonical s.mem) :
    StaysCanonical (execMbya reg acc zero fmt md s) := by
  unfold execMbya
  exact engineWord_canonical _ _ _ _ _ h

theorem execMxp_canonical {s : State} (d e a b p : Src) (h : Canonical s.mem) :
    StaysCanonical (execMxp d e a b p s) := by
  unfold execMxp
  exact engineWord_canonical _ _ _ _ _ h

theorem execMsave_canonical {s : State} (a : Src) (h : Canonical s.mem) : StaysCanonical (execMsave a s) := by
  unfold execMsave
  exact runWord_canonical _ _ (fun _ _ => Plan.keeps_of_id rfl) h

theorem execMrest_canonical {s : State} (a : Src) (h : Canonical s.mem) : StaysCanonical (execMrest a s) := by
  unfold execMrest
  exact engineWord_canonical _ _ _ _ _ h

theorem execMstat_canonical {s : State} (d : Fin 32) (b : Src) (h : Canonical s.mem) :
    StaysCanonical (execMstat d b s) :=
  runWord_canonical _ _ (fun _ _ => Plan.keeps_of_id rfl) h

theorem execCset_canonical {s : State} (a : Src) (h : Canonical s.mem) : StaysCanonical (execCset a s) :=
  engineWord_canonical _ _ _ _ _ h

theorem execCldc_canonical {s : State} (a : Src) (h : Canonical s.mem) : StaysCanonical (execCldc a s) := by
  unfold execCldc
  exact engineWord_canonical _ _ _ _ _ h

theorem execCrun_canonical {s : State} (a : Src) (h : Canonical s.mem) : StaysCanonical (execCrun a s) :=
  engineWord_canonical _ _ _ _ _ h

theorem execCleaf_canonical {s : State} (d a : Src) (h : Canonical s.mem) : StaysCanonical (execCleaf d a s) :=
  engineWord_canonical _ _ _ _ _ h

theorem execCidx_canonical {s : State} (d : Src) (h : Canonical s.mem) : StaysCanonical (execCidx d s) :=
  engineWord_canonical _ _ _ _ _ h

theorem execCstatContour_canonical {s : State} (d : Fin 32) (b : Src) (h : Canonical s.mem) :
    StaysCanonical (execCstatContour d b s) :=
  runWord_canonical _ _ (fun _ _ => Plan.keeps_of_id rfl) h

theorem execChainTail_canonical {s : State} (a : Src) (h : Canonical s.mem) :
    StaysCanonical (execChainTail a s) :=
  runWord_canonical _ _ (fun _ _ => Plan.keeps_ite (Plan.keeps_raise _ _ _) (Plan.keeps_of_id rfl)) h

theorem execChainWait_canonical {s : State} (d : Fin 32) (a : Src) (clr : Bool) (h : Canonical s.mem) :
    StaysCanonical (execChainWait d a clr s) :=
  runWord_canonical _ _ (fun _ _ => Plan.keeps_of_id rfl) h

theorem execArradd_canonical {s : State} (d : Fin 32) (a b : Src) (h : Canonical s.mem) :
    StaysCanonical (execArradd d a b s) :=
  runWord_canonical _ _ (fun _ _ => counted_keeps _ _ (Plan.keeps_of_id rfl)) h

theorem execArrset_canonical {s : State} (a b : Src) (h : Canonical s.mem) : StaysCanonical (execArrset a b s) :=
  runWord_canonical _ _ (fun _ _ => counted_keeps _ _ (Plan.keeps_of_id rfl)) h

theorem execArrw_canonical {s : State} (d : Fin 32) (a b : Src) (subt : Bool) (h : Canonical s.mem) :
    StaysCanonical (execArrw d a b subt s) :=
  runWord_canonical _ _ (fun _ _ => counted_keeps _ _ (Plan.keeps_of_id rfl)) h

theorem execBcbPost_canonical {s : State} (d : Fin 32) (a b : Src) (h : Canonical s.mem) :
    StaysCanonical (execBcbPost d a b s) :=
  runWord_canonical _ _ (fun _ _ => counted_keeps _ _ (Plan.keeps_of_id rfl)) h

theorem execBcbWait_canonical {s : State} (d : Fin 32) (a b : Src) (clr : Bool) (h : Canonical s.mem) :
    StaysCanonical (execBcbWait d a b clr s) :=
  runWord_canonical _ _ (fun _ _ => counted_keeps _ _ (Plan.keeps_of_id rfl)) h

theorem execCtbl_canonical {s : State} (a b : Src) (h : Canonical s.mem) : StaysCanonical (execCtbl a b s) := by
  unfold execCtbl
  exact runWord_canonical _ _ (fun _ _ => Plan.keeps_ite Plan.keeps_ill4 (Plan.keeps_of_id rfl)) h

theorem execCready_canonical {s : State} (a : Src) (h : Canonical s.mem) : StaysCanonical (execCready a s) :=
  runWord_canonical _ _ (fun _ _ => Plan.keeps_ite Plan.keeps_ill4 (Plan.keeps_of_id rfl)) h

theorem execCevw_canonical {s : State} (d : Fin 32) (a b : Src) (h : Canonical s.mem) :
    StaysCanonical (execCevw d a b s) :=
  runWord_canonical _ _ (fun _ _ => Plan.keeps_ite Plan.keeps_ill4 (Plan.keeps_of_id rfl)) h

theorem execCstatColl_canonical {s : State} (d : Fin 32) (a : Src) (clr : Bool) (h : Canonical s.mem) :
    StaysCanonical (execCstatColl d a clr s) :=
  runWord_canonical _ _ (fun _ _ => Plan.keeps_ite Plan.keeps_ill4 (Plan.keeps_of_id rfl)) h

theorem execBara_canonical {s : State} (d : Fin 32) (b : Src) (h : Canonical s.mem) :
    StaysCanonical (execBara d b s) := by
  unfold execBara
  exact runWord_canonical _ _ (fun _ _ => indexed_keeps _ _ (Plan.keeps_of_id rfl)) h

theorem execBarw_canonical {s : State} (b p : Src) (h : Canonical s.mem) : StaysCanonical (execBarw b p s) :=
  runWord_canonical _ _ (fun _ _ => indexed_keeps _ _ (Plan.keeps_of_id rfl)) h

theorem execBars_canonical {s : State} (d : Fin 32) (b : Src) (h : Canonical s.mem) :
    StaysCanonical (execBars d b s) := by
  unfold execBars
  exact runWord_canonical _ _ (fun _ _ => indexed_keeps _ _ (Plan.keeps_of_id rfl)) h

theorem execBarcfg_canonical {s : State} (b n : Src) (h : Canonical s.mem) : StaysCanonical (execBarcfg b n s) :=
  runWord_canonical _ _ (fun _ _ => indexed_keeps _ _ (Plan.keeps_ite Plan.keeps_ill4 (Plan.keeps_of_id rfl))) h

theorem execMlock_canonical {s : State} (m : Src) (h : Canonical s.mem) : StaysCanonical (execMlock m s) := by
  unfold execMlock
  exact runWord_canonical _ _ (fun _ _ => indexed_keeps _ _ (Plan.keeps_ite Plan.keeps_ill4 (Plan.keeps_of_id rfl))) h

theorem execMtry_canonical {s : State} (d : Fin 32) (m : Src) (h : Canonical s.mem) :
    StaysCanonical (execMtry d m s) := by
  unfold execMtry
  exact runWord_canonical _ _ (fun _ _ => indexed_keeps _ _ (Plan.keeps_of_id rfl)) h

theorem execMunlk_canonical {s : State} (m : Src) (h : Canonical s.mem) : StaysCanonical (execMunlk m s) := by
  unfold execMunlk
  exact runWord_canonical _ _ (fun _ _ => indexed_keeps _ _ (Plan.keeps_ite Plan.keeps_ill4 (Plan.keeps_of_id rfl))) h

theorem execSemp_canonical {s : State} (m : Src) (h : Canonical s.mem) : StaysCanonical (execSemp m s) := by
  unfold execSemp
  exact runWord_canonical _ _ (fun _ _ => indexed_keeps _ _ (Plan.keeps_of_id rfl)) h

theorem execSemv_canonical {s : State} (m n : Src) (h : Canonical s.mem) : StaysCanonical (execSemv m n s) :=
  runWord_canonical _ _ (fun _ _ => indexed_keeps _ _ (Plan.keeps_ite Plan.keeps_ill4 (Plan.keeps_of_id rfl))) h

theorem execSemtry_canonical {s : State} (d : Fin 32) (m : Src) (h : Canonical s.mem) :
    StaysCanonical (execSemtry d m s) := by
  unfold execSemtry
  exact runWord_canonical _ _ (fun _ _ => indexed_keeps _ _ (Plan.keeps_of_id rfl)) h

theorem execYield_canonical {s : State} (a : Src) (h : Canonical s.mem) : StaysCanonical (execYield a s) := by
  unfold execYield
  exact runWord_canonical _ _ (fun _ _ => Plan.keeps_ite Plan.keeps_ill4 (Plan.keeps_of_id rfl)) h

/-! ## Every instruction -/

theorem staysCanonical_of {o p : Out3} (e : o = p) (h : StaysCanonical p) : StaysCanonical o := e ▸ h

/-- What exec does with an instruction or move keeps both memories in their one form. -/
theorem exec_canonical {s : State} (i : Instr) (h : Canonical s.mem) : StaysCanonical (exec i s) := by
  cases i with
  | add d a b => exact staysCanonical_of (exec_add d a b s) (scalarWord_canonical _ _ _ _ h)
  | sub d a b => exact staysCanonical_of (exec_sub d a b s) (scalarWord_canonical _ _ _ _ h)
  | mul d a b => exact staysCanonical_of (exec_mul d a b s) (scalarWord_canonical _ _ _ _ h)
  | mulh d a b => exact staysCanonical_of (exec_mulh d a b s) (scalarWord_canonical _ _ _ _ h)
  | mulhs d a b => exact staysCanonical_of (exec_mulhs d a b s) (scalarWord_canonical _ _ _ _ h)
  | div d a b => exact staysCanonical_of (exec_div d a b s) (scalarWord_canonical _ _ _ _ h)
  | divs d a b => exact staysCanonical_of (exec_divs d a b s) (scalarWord_canonical _ _ _ _ h)
  | rem d a b => exact staysCanonical_of (exec_rem d a b s) (scalarWord_canonical _ _ _ _ h)
  | rems d a b => exact staysCanonical_of (exec_rems d a b s) (scalarWord_canonical _ _ _ _ h)
  | min d a b => exact staysCanonical_of (exec_min d a b s) (scalarWord_canonical _ _ _ _ h)
  | mins d a b => exact staysCanonical_of (exec_mins d a b s) (scalarWord_canonical _ _ _ _ h)
  | max d a b => exact staysCanonical_of (exec_max d a b s) (scalarWord_canonical _ _ _ _ h)
  | maxs d a b => exact staysCanonical_of (exec_maxs d a b s) (scalarWord_canonical _ _ _ _ h)
  | sel d g a b => exact staysCanonical_of (exec_sel d g a b s) (execSel_canonical _ _ _ _ h)
  | movk d imm => exact staysCanonical_of (exec_movk d imm s) (scalarWord_canonical _ _ _ _ h)
  | movkh d imm => exact staysCanonical_of (exec_movkh d imm s) (scalarWord_canonical _ _ _ _ h)
  | xmov d a => exact staysCanonical_of (exec_xmov d a s) (execXmov_canonical _ _ h)
  | rgn d base stride count fmt list => exact staysCanonical_of (exec_rgn d base stride count fmt list s) (scalarWord_canonical _ _ _ _ h)
  | and d a b => exact staysCanonical_of (exec_and d a b s) (scalarWord_canonical _ _ _ _ h)
  | or d a b => exact staysCanonical_of (exec_or d a b s) (scalarWord_canonical _ _ _ _ h)
  | xor d a b => exact staysCanonical_of (exec_xor d a b s) (scalarWord_canonical _ _ _ _ h)
  | andn d a b => exact staysCanonical_of (exec_andn d a b s) (scalarWord_canonical _ _ _ _ h)
  | shl d a b => exact staysCanonical_of (exec_shl d a b s) (scalarWord_canonical _ _ _ _ h)
  | shr d a b => exact staysCanonical_of (exec_shr d a b s) (scalarWord_canonical _ _ _ _ h)
  | sra d a b => exact staysCanonical_of (exec_sra d a b s) (scalarWord_canonical _ _ _ _ h)
  | rot d a b => exact staysCanonical_of (exec_rot d a b s) (scalarWord_canonical _ _ _ _ h)
  | clz d a => exact staysCanonical_of (exec_clz d a s) (scalarWord_canonical _ _ _ _ h)
  | ctz d a => exact staysCanonical_of (exec_ctz d a s) (scalarWord_canonical _ _ _ _ h)
  | popc d a => exact staysCanonical_of (exec_popc d a s) (scalarWord_canonical _ _ _ _ h)
  | extr d a pos lenm1 => exact staysCanonical_of (exec_extr d a pos lenm1 s) (scalarWord_canonical _ _ _ _ h)
  | ins d a pos lenm1 => exact staysCanonical_of (exec_ins d a pos lenm1 s) (scalarWord_canonical _ _ _ _ h)
  | clmul d a b => exact staysCanonical_of (exec_clmul d a b s) (scalarWord_canonical _ _ _ _ h)
  | clmulh d a b => exact staysCanonical_of (exec_clmulh d a b s) (scalarWord_canonical _ _ _ _ h)
  | gand d g1 g2 => exact staysCanonical_of (exec_gand d g1 g2 s) (guardWord_canonical _ _ _ _ h)
  | gor d g1 g2 => exact staysCanonical_of (exec_gor d g1 g2 s) (guardWord_canonical _ _ _ _ h)
  | gnot d g1 => exact staysCanonical_of (exec_gnot d g1 s) (guardWord_canonical _ _ _ _ h)
  | cmpEq d a b => exact staysCanonical_of (exec_cmpEq d a b s) (guardWord_canonical _ _ _ _ h)
  | cmpNe d a b => exact staysCanonical_of (exec_cmpNe d a b s) (guardWord_canonical _ _ _ _ h)
  | cmpLt d a b => exact staysCanonical_of (exec_cmpLt d a b s) (guardWord_canonical _ _ _ _ h)
  | cmpLts d a b => exact staysCanonical_of (exec_cmpLts d a b s) (guardWord_canonical _ _ _ _ h)
  | cmpLe d a b => exact staysCanonical_of (exec_cmpLe d a b s) (guardWord_canonical _ _ _ _ h)
  | cmpLes d a b => exact staysCanonical_of (exec_cmpLes d a b s) (guardWord_canonical _ _ _ _ h)
  | nop => exact staysCanonical_of (exec_nop s) (plainWord_canonical _ h)
  | br disp => exact staysCanonical_of (exec_br disp s) (execBr_canonical _ h)
  | bri a => exact staysCanonical_of (exec_bri a s) (execBri_canonical _ h)
  | call d disp => exact staysCanonical_of (exec_call d disp s) (execCall_canonical _ _ h)
  | ret a => exact staysCanonical_of (exec_ret a s) (execRet_canonical _ h)
  | loop a endw => exact staysCanonical_of (exec_loop a endw s) (execLoop_canonical _ _ h)
  | taskend => exact staysCanonical_of (exec_taskend s) (execTaskend_canonical h)
  | pfxK k => exact staysCanonical_of (exec_pfxK k s) (readPrefix_canonical _ _ h)
  | pfxSm m1 m2 m3 => exact staysCanonical_of (exec_pfxSm m1 m2 m3 s) (readPrefix_canonical _ _ h)
  | trap a => exact staysCanonical_of (exec_trap a s) (execTrap_canonical _ h)
  | eret => exact staysCanonical_of (exec_eret s) (execEret_canonical h)
  | mfsr d num => exact staysCanonical_of (exec_mfsr d num s) (scalarWord_canonical _ _ _ _ h)
  | mtsr num a => exact staysCanonical_of (exec_mtsr num a s) (execMtsr_canonical _ _ h)
  | mtsrSrseed a => exact staysCanonical_of (exec_mtsrSrseed a s) (execMtsrSrseed_canonical _ h)
  | mtsrBfmt n a => exact staysCanonical_of (exec_mtsrBfmt n a s) (execMtsrBfmt_canonical _ _ h)
  | mtsrBscl n a => exact staysCanonical_of (exec_mtsrBscl n a s) (execMtsrBscl_canonical _ _ h)
  | mtsrCntsel n a => exact staysCanonical_of (exec_mtsrCntsel n a s) (execMtsrCntsel_canonical _ _ h)
  | halt => exact staysCanonical_of (exec_halt s) (execHalt_canonical h)
  | iclr => exact staysCanonical_of (exec_iclr s) (plainWord_canonical _ h)
  | vadd d a b md => exact staysCanonical_of (exec_vadd d a b md s) (elemWord_canonical _ _ _ _ _ _ _ _ h)
  | vsub d a b md => exact staysCanonical_of (exec_vsub d a b md s) (elemWord_canonical _ _ _ _ _ _ _ _ h)
  | vmul d a b md => exact staysCanonical_of (exec_vmul d a b md s) (elemWord_canonical _ _ _ _ _ _ _ _ h)
  | vfma d a b c md => exact staysCanonical_of (exec_vfma d a b c md s) (elemWord_canonical _ _ _ _ _ _ _ _ h)
  | vfms d a b c md => exact staysCanonical_of (exec_vfms d a b c md s) (elemWord_canonical _ _ _ _ _ _ _ _ h)
  | vfnma d a b c md => exact staysCanonical_of (exec_vfnma d a b c md s) (elemWord_canonical _ _ _ _ _ _ _ _ h)
  | vmin d a b md => exact staysCanonical_of (exec_vmin d a b md s) (elemWord_canonical _ _ _ _ _ _ _ _ h)
  | vmax d a b md => exact staysCanonical_of (exec_vmax d a b md s) (elemWord_canonical _ _ _ _ _ _ _ _ h)
  | vabs d a md => exact staysCanonical_of (exec_vabs d a md s) (elemWord_canonical _ _ _ _ _ _ _ _ h)
  | vneg d a md => exact staysCanonical_of (exec_vneg d a md s) (elemWord_canonical _ _ _ _ _ _ _ _ h)
  | vand d a b => exact staysCanonical_of (exec_vand d a b s) (elemWord_canonical _ _ _ _ _ _ _ _ h)
  | vor d a b => exact staysCanonical_of (exec_vor d a b s) (elemWord_canonical _ _ _ _ _ _ _ _ h)
  | vxor d a b => exact staysCanonical_of (exec_vxor d a b s) (elemWord_canonical _ _ _ _ _ _ _ _ h)
  | vshl d a b => exact staysCanonical_of (exec_vshl d a b s) (elemWord_canonical _ _ _ _ _ _ _ _ h)
  | vshr d a b => exact staysCanonical_of (exec_vshr d a b s) (elemWord_canonical _ _ _ _ _ _ _ _ h)
  | vsra d a b => exact staysCanonical_of (exec_vsra d a b s) (elemWord_canonical _ _ _ _ _ _ _ _ h)
  | vcmpEq d a b => exact staysCanonical_of (exec_vcmpEq d a b s) (elemWord_canonical _ _ _ _ _ _ _ _ h)
  | vcmpNe d a b => exact staysCanonical_of (exec_vcmpNe d a b s) (elemWord_canonical _ _ _ _ _ _ _ _ h)
  | vcmpLt d a b => exact staysCanonical_of (exec_vcmpLt d a b s) (elemWord_canonical _ _ _ _ _ _ _ _ h)
  | vcmpLts d a b => exact staysCanonical_of (exec_vcmpLts d a b s) (elemWord_canonical _ _ _ _ _ _ _ _ h)
  | vcmpLe d a b => exact staysCanonical_of (exec_vcmpLe d a b s) (elemWord_canonical _ _ _ _ _ _ _ _ h)
  | vcmpLes d a b => exact staysCanonical_of (exec_vcmpLes d a b s) (elemWord_canonical _ _ _ _ _ _ _ _ h)
  | vsel d m a b => exact staysCanonical_of (exec_vsel d m a b s) (elemWord_canonical _ _ _ _ _ _ _ _ h)
  | vcvt d a md => exact staysCanonical_of (exec_vcvt d a md s) (elemWord_canonical _ _ _ _ _ _ _ _ h)
  | vqnt d a rnd => exact staysCanonical_of (exec_vqnt d a rnd s) (execVqnt_canonical _ _ _ h)
  | vdqnt d a t md => exact staysCanonical_of (exec_vdqnt d a t md s) (execVdqnt_canonical _ _ _ _ h)
  | vrcpe d a => exact staysCanonical_of (exec_vrcpe d a s) (elemWord_canonical _ _ _ _ _ _ _ _ h)
  | vrsqe d a => exact staysCanonical_of (exec_vrsqe d a s) (elemWord_canonical _ _ _ _ _ _ _ _ h)
  | vrcps d a b rnd => exact staysCanonical_of (exec_vrcps d a b rnd s) (elemWord_canonical _ _ _ _ _ _ _ _ h)
  | vrsqs d a b rnd => exact staysCanonical_of (exec_vrsqs d a b rnd s) (elemWord_canonical _ _ _ _ _ _ _ _ h)
  | vexp2e d a => exact staysCanonical_of (exec_vexp2e d a s) (elemWord_canonical _ _ _ _ _ _ _ _ h)
  | vlog2e d a => exact staysCanonical_of (exec_vlog2e d a s) (elemWord_canonical _ _ _ _ _ _ _ _ h)
  | vsum d a md => exact staysCanonical_of (exec_vsum d a md s) (reduceWord_canonical _ _ _ _ _ _ h)
  | vdot d a b md => exact staysCanonical_of (exec_vdot d a b md s) (reduceWord_canonical _ _ _ _ _ _ h)
  | vmaxr d a => exact staysCanonical_of (exec_vmaxr d a s) (reduceWord_canonical _ _ _ _ _ _ h)
  | vminr d a => exact staysCanonical_of (exec_vminr d a s) (reduceWord_canonical _ _ _ _ _ _ h)
  | viota d a b => exact staysCanonical_of (exec_viota d a b s) (fillWord_canonical _ _ _ _ h)
  | vfill d a => exact staysCanonical_of (exec_vfill d a s) (fillWord_canonical _ _ _ _ h)
  | vcopy d a => exact staysCanonical_of (exec_vcopy d a s) (elemWord_canonical _ _ _ _ _ _ _ _ h)
  | vpart d0 d1 d2 d3 o => exact staysCanonical_of (exec_vpart d0 d1 d2 d3 o s) (execVpart_canonical _ _ _ _ _ h)
  | vgath d a l => exact staysCanonical_of (exec_vgath d a l s) (execVgath_canonical _ _ _ h)
  | vscat d a l => exact staysCanonical_of (exec_vscat d a l s) (execVscat_canonical _ _ _ h)
  | mln lvl a => exact staysCanonical_of (exec_mln lvl a s) (setupWord_canonical _ _ h)
  | mopa src a b => exact staysCanonical_of (exec_mopa src a b s) (setupWord_canonical _ _ h)
  | mopb src a b => exact staysCanonical_of (exec_mopb src a b s) (setupWord_canonical _ _ h)
  | macc acc init => exact staysCanonical_of (exec_macc acc init s) (setupWord_canonical _ _ h)
  | mlda reg a b => exact staysCanonical_of (exec_mlda reg a b s) (loadWord_canonical _ _ _ h)
  | mldb reg a b => exact staysCanonical_of (exec_mldb reg a b s) (loadWord_canonical _ _ _ h)
  | mgo a => exact staysCanonical_of (exec_mgo a s) (execMgo_canonical _ h)
  | mwait => exact staysCanonical_of (exec_mwait s) (execMwait_canonical h)
  | mdrain a b acc zero md => exact staysCanonical_of (exec_mdrain a b acc zero md s) (execMdrain_canonical _ _ _ _ _ h)
  | mbya reg acc zero fmt md => exact staysCanonical_of (exec_mbya reg acc zero fmt md s) (execMbya_canonical _ _ _ _ _ h)
  | mxp d e a b p => exact staysCanonical_of (exec_mxp d e a b p s) (execMxp_canonical _ _ _ _ _ h)
  | msave a => exact staysCanonical_of (exec_msave a s) (execMsave_canonical _ h)
  | mrest a => exact staysCanonical_of (exec_mrest a s) (execMrest_canonical _ h)
  | mstat d b => exact staysCanonical_of (exec_mstat d b s) (execMstat_canonical _ _ h)
  | cset a => exact staysCanonical_of (exec_cset a s) (execCset_canonical _ h)
  | cldc a => exact staysCanonical_of (exec_cldc a s) (execCldc_canonical _ h)
  | crun a => exact staysCanonical_of (exec_crun a s) (execCrun_canonical _ h)
  | cleaf d a => exact staysCanonical_of (exec_cleaf d a s) (execCleaf_canonical _ _ h)
  | cidx d => exact staysCanonical_of (exec_cidx d s) (execCidx_canonical _ h)
  | cstatContour d b => exact staysCanonical_of (exec_cstatContour d b s) (execCstatContour_canonical _ _ h)
  | ldB o => exact staysCanonical_of (exec_ldB o s) (entryWord_canonical _ _ _ _ _ _ _ h)
  | ldH o => exact staysCanonical_of (exec_ldH o s) (entryWord_canonical _ _ _ _ _ _ _ h)
  | ldW o => exact staysCanonical_of (exec_ldW o s) (entryWord_canonical _ _ _ _ _ _ _ h)
  | ldD o => exact staysCanonical_of (exec_ldD o s) (entryWord_canonical _ _ _ _ _ _ _ h)
  | ldsB o => exact staysCanonical_of (exec_ldsB o s) (entryWord_canonical _ _ _ _ _ _ _ h)
  | ldsH o => exact staysCanonical_of (exec_ldsH o s) (entryWord_canonical _ _ _ _ _ _ _ h)
  | ldsW o => exact staysCanonical_of (exec_ldsW o s) (entryWord_canonical _ _ _ _ _ _ _ h)
  | stB o => exact staysCanonical_of (exec_stB o s) (entryWord_canonical _ _ _ _ _ _ _ h)
  | stH o => exact staysCanonical_of (exec_stH o s) (entryWord_canonical _ _ _ _ _ _ _ h)
  | stW o => exact staysCanonical_of (exec_stW o s) (entryWord_canonical _ _ _ _ _ _ _ h)
  | stD o => exact staysCanonical_of (exec_stD o s) (entryWord_canonical _ _ _ _ _ _ _ h)
  | pf o => exact staysCanonical_of (exec_pf o s) (entryWord_canonical _ _ _ _ _ _ _ h)
  | qmark => exact staysCanonical_of (exec_qmark s) (markWord_canonical _ h)
  | fenceSlot => exact staysCanonical_of (exec_fenceSlot s) (fenceWord_canonical _ h)
  | fenceTile => exact staysCanonical_of (exec_fenceTile s) (fenceWord_canonical _ h)
  | fenceDie => exact staysCanonical_of (exec_fenceDie s) (fenceWord_canonical _ h)
  | fencePkg => exact staysCanonical_of (exec_fencePkg s) (fenceWord_canonical _ h)
  | fenceSys => exact staysCanonical_of (exec_fenceSys s) (fenceWord_canonical _ h)
  | acqSlot => exact staysCanonical_of (exec_acqSlot s) (markWord_canonical _ h)
  | acqTile => exact staysCanonical_of (exec_acqTile s) (markWord_canonical _ h)
  | acqDie => exact staysCanonical_of (exec_acqDie s) (markWord_canonical _ h)
  | acqPkg => exact staysCanonical_of (exec_acqPkg s) (markWord_canonical _ h)
  | acqSys => exact staysCanonical_of (exec_acqSys s) (markWord_canonical _ h)
  | relSlot => exact staysCanonical_of (exec_relSlot s) (markWord_canonical _ h)
  | relTile => exact staysCanonical_of (exec_relTile s) (markWord_canonical _ h)
  | relDie => exact staysCanonical_of (exec_relDie s) (markWord_canonical _ h)
  | relPkg => exact staysCanonical_of (exec_relPkg s) (markWord_canonical _ h)
  | relSys => exact staysCanonical_of (exec_relSys s) (markWord_canonical _ h)
  | aadd o => exact staysCanonical_of (exec_aadd o s) (atomWord_canonical _ _ _ _ h)
  | amin o => exact staysCanonical_of (exec_amin o s) (atomWord_canonical _ _ _ _ h)
  | amins o => exact staysCanonical_of (exec_amins o s) (atomWord_canonical _ _ _ _ h)
  | amax o => exact staysCanonical_of (exec_amax o s) (atomWord_canonical _ _ _ _ h)
  | amaxs o => exact staysCanonical_of (exec_amaxs o s) (atomWord_canonical _ _ _ _ h)
  | aand o => exact staysCanonical_of (exec_aand o s) (atomWord_canonical _ _ _ _ h)
  | aor o => exact staysCanonical_of (exec_aor o s) (atomWord_canonical _ _ _ _ h)
  | axor o => exact staysCanonical_of (exec_axor o s) (atomWord_canonical _ _ _ _ h)
  | aswp o => exact staysCanonical_of (exec_aswp o s) (atomWord_canonical _ _ _ _ h)
  | acas o => exact staysCanonical_of (exec_acas o s) (atomWord_canonical _ _ _ _ h)
  | aaddF32 o => exact staysCanonical_of (exec_aaddF32 o s) (atomWord_canonical _ _ _ _ h)
  | aaddBf16 o => exact staysCanonical_of (exec_aaddBf16 o s) (atomWord_canonical _ _ _ _ h)
  | aaddNr o => exact staysCanonical_of (exec_aaddNr o s) (atomWord_canonical _ _ _ _ h)
  | aminNr o => exact staysCanonical_of (exec_aminNr o s) (atomWord_canonical _ _ _ _ h)
  | aminsNr o => exact staysCanonical_of (exec_aminsNr o s) (atomWord_canonical _ _ _ _ h)
  | amaxNr o => exact staysCanonical_of (exec_amaxNr o s) (atomWord_canonical _ _ _ _ h)
  | amaxsNr o => exact staysCanonical_of (exec_amaxsNr o s) (atomWord_canonical _ _ _ _ h)
  | aandNr o => exact staysCanonical_of (exec_aandNr o s) (atomWord_canonical _ _ _ _ h)
  | aorNr o => exact staysCanonical_of (exec_aorNr o s) (atomWord_canonical _ _ _ _ h)
  | axorNr o => exact staysCanonical_of (exec_axorNr o s) (atomWord_canonical _ _ _ _ h)
  | aswpNr o => exact staysCanonical_of (exec_aswpNr o s) (atomWord_canonical _ _ _ _ h)
  | acasNr o => exact staysCanonical_of (exec_acasNr o s) (atomWord_canonical _ _ _ _ h)
  | aaddF32Nr o => exact staysCanonical_of (exec_aaddF32Nr o s) (atomWord_canonical _ _ _ _ h)
  | aaddBf16Nr o => exact staysCanonical_of (exec_aaddBf16Nr o s) (atomWord_canonical _ _ _ _ h)
  | cpygs sd ga shape pitch mf => exact staysCanonical_of (exec_cpygs sd ga shape pitch mf s) (copyWord_canonical _ _ _ _ _ _ h)
  | cpysg sd ga shape pitch mf => exact staysCanonical_of (exec_cpysg sd ga shape pitch mf s) (copyWord_canonical _ _ _ _ _ _ h)
  | chainTail a => exact staysCanonical_of (exec_chainTail a s) (execChainTail_canonical _ h)
  | chainWait d a clr => exact staysCanonical_of (exec_chainWait d a clr s) (execChainWait_canonical _ _ _ h)
  | put tgt adr ctl mf => exact staysCanonical_of (exec_put tgt adr ctl mf s) (putWord_canonical _ _ _ _ h)
  | get tgt adr ctl mf => exact staysCanonical_of (exec_get tgt adr ctl mf s) (putWord_canonical _ _ _ _ h)
  | arradd d a b => exact staysCanonical_of (exec_arradd d a b s) (execArradd_canonical _ _ _ h)
  | arrset a b => exact staysCanonical_of (exec_arrset a b s) (execArrset_canonical _ _ h)
  | arrw d a b subt => exact staysCanonical_of (exec_arrw d a b subt s) (execArrw_canonical _ _ _ _ h)
  | bcbPost d a b => exact staysCanonical_of (exec_bcbPost d a b s) (execBcbPost_canonical _ _ _ h)
  | bcbWait d a b clr => exact staysCanonical_of (exec_bcbWait d a b clr s) (execBcbWait_canonical _ _ _ _ h)
  | ctbl a b => exact staysCanonical_of (exec_ctbl a b s) (execCtbl_canonical _ _ h)
  | cready a => exact staysCanonical_of (exec_cready a s) (execCready_canonical _ h)
  | cevw d a b => exact staysCanonical_of (exec_cevw d a b s) (execCevw_canonical _ _ _ h)
  | cabort a => exact staysCanonical_of (exec_cabort a s) (execCabort_canonical _ h)
  | cstatColl d a clr => exact staysCanonical_of (exec_cstatColl d a clr s) (execCstatColl_canonical _ _ _ h)
  | bara d b => exact staysCanonical_of (exec_bara d b s) (execBara_canonical _ _ h)
  | barw b p => exact staysCanonical_of (exec_barw b p s) (execBarw_canonical _ _ h)
  | bars d b => exact staysCanonical_of (exec_bars d b s) (execBars_canonical _ _ h)
  | barcfg b n => exact staysCanonical_of (exec_barcfg b n s) (execBarcfg_canonical _ _ h)
  | mlock m => exact staysCanonical_of (exec_mlock m s) (execMlock_canonical _ h)
  | mtry d m => exact staysCanonical_of (exec_mtry d m s) (execMtry_canonical _ _ h)
  | munlk m => exact staysCanonical_of (exec_munlk m s) (execMunlk_canonical _ h)
  | semp m => exact staysCanonical_of (exec_semp m s) (execSemp_canonical _ h)
  | semv m n => exact staysCanonical_of (exec_semv m n s) (execSemv_canonical _ _ h)
  | semtry d m => exact staysCanonical_of (exec_semtry d m s) (execSemtry_canonical _ _ h)
  | tokcnt d src dst => exact staysCanonical_of (exec_tokcnt d src dst s) (scalarWord_canonical _ _ _ _ h)
  | yield a => exact staysCanonical_of (exec_yield a s) (execYield_canonical _ h)
  | qpt => exact staysCanonical_of (exec_qpt s) (plainWord_canonical _ h)
  | dsend a b => exact staysCanonical_of (exec_dsend a b s) (execDsend_canonical _ _ h)
  | lrpatch d a b fld => exact staysCanonical_of (exec_lrpatch d a b fld s) (execLrpatch_canonical _ _ _ _ h)
  | lrarm d a => exact staysCanonical_of (exec_lrarm d a s) (execLrarm_canonical _ _ h)
  | start tile => exact staysCanonical_of (exec_start tile s) (execStart_canonical _ h)
  | fenceRetire tile => exact staysCanonical_of (exec_fenceRetire tile s) (execFenceRetire_canonical _ h)
  | deq tile store => exact staysCanonical_of (exec_deq tile store s) (execDeq_canonical _ _ h)
  | entryTranslate tile store index => exact staysCanonical_of (exec_entryTranslate tile store index s) (execEntryTranslate_canonical _ _ _ h)
  | pageWalk die asid va => exact staysCanonical_of (exec_pageWalk die asid va s) (execPageWalk_canonical _ _ _ h)
  | hop die path keep => exact staysCanonical_of (exec_hop die path keep s) (execHop_canonical _ _ _ h)
  | rdcEvict die line => exact staysCanonical_of (exec_rdcEvict die line s) (execRdcEvict_canonical _ _ h)
  | send src dst path => exact staysCanonical_of (exec_send src dst path s) (execSend_canonical _ _ _ h)
  | packetArrive src dst => exact staysCanonical_of (exec_packetArrive src dst s) (execPacketArrive_canonical _ _ h)
  | deliver party index => exact staysCanonical_of (exec_deliver party index s) (execDeliver_canonical _ _ h)
  | deliveryReport party src => exact staysCanonical_of (exec_deliveryReport party src s) (execDeliveryReport_canonical _ _ h)
  | reportReceive party index => exact staysCanonical_of (exec_reportReceive party index s) (execReportReceive_canonical _ _ h)
  | perform die index => exact staysCanonical_of (exec_perform die index s) (execPerform_canonical _ _ h)
  | returnVal tile => exact staysCanonical_of (exec_returnVal tile s) (execReturnVal_canonical _ h)
  | commit tile count => exact staysCanonical_of (exec_commit tile count s) (execCommit_canonical _ _ h)
  | hostCompletion index => exact staysCanonical_of (exec_hostCompletion index s) (execHostCompletion_canonical _ h)
  | hostWrite addr bytes => exact staysCanonical_of (exec_hostWrite addr bytes s) (execHostWrite_canonical _ _ h)
  | copyBegin tile => exact staysCanonical_of (exec_copyBegin tile s) (execCopyBegin_canonical _ h)
  | copySector tile cmd index => exact staysCanonical_of (exec_copySector tile cmd index s) (execCopySector_canonical _ _ _ h)
  | copySeqCommit tile => exact staysCanonical_of (exec_copySeqCommit tile s) (execCopySeqCommit_canonical _ h)
  | chainEntryRead tile => exact staysCanonical_of (exec_chainEntryRead tile s) (execChainEntryRead_canonical _ h)
  | putBegin tile => exact staysCanonical_of (exec_putBegin tile s) (execPutBegin_canonical _ h)
  | putArrive tile index => exact staysCanonical_of (exec_putArrive tile index s) (execPutArrive_canonical _ _ h)
  | getrqArrive tile index => exact staysCanonical_of (exec_getrqArrive tile index s) (execGetrqArrive_canonical _ _ h)
  | getrsArrive tile index => exact staysCanonical_of (exec_getrsArrive tile index s) (execGetrsArrive_canonical _ _ h)
  | packArrive tile index => exact staysCanonical_of (exec_packArrive tile index s) (execPackArrive_canonical _ _ h)
  | routerTimeout index => exact staysCanonical_of (exec_routerTimeout index s) (execRouterTimeout_canonical _ h)
  | flitReceive port => exact staysCanonical_of (exec_flitReceive port s) (execFlitReceive_canonical _ h)
  | ackTimer port => exact staysCanonical_of (exec_ackTimer port s) (execAckTimer_canonical _ h)
  | retryReceive port => exact staysCanonical_of (exec_retryReceive port s) (execRetryReceive_canonical _ h)
  | retryRepeat port => exact staysCanonical_of (exec_retryRepeat port s) (execRetryRepeat_canonical _ h)
  | laneShed port lane => exact staysCanonical_of (exec_laneShed port lane s) (execLaneShed_canonical _ _ h)
  | rshreqReceive port => exact staysCanonical_of (exec_rshreqReceive port s) (execRshreqReceive_canonical _ h)
  | rshackReceive port => exact staysCanonical_of (exec_rshackReceive port s) (execRshackReceive_canonical _ h)
  | rshreqRepeat port => exact staysCanonical_of (exec_rshreqRepeat port s) (execRshreqRepeat_canonical _ h)
  | linkTimeout port => exact staysCanonical_of (exec_linkTimeout port s) (execLinkTimeout_canonical _ h)
  | retrain port lanes => exact staysCanonical_of (exec_retrain port lanes s) (execRetrain_canonical _ _ h)
  | packetForward index port => exact staysCanonical_of (exec_packetForward index port s) (execPacketForward_canonical _ _ h)
  | escapeEntry index => exact staysCanonical_of (exec_escapeEntry index s) (execEscapeEntry_canonical _ h)
  | treeInstall version links => exact staysCanonical_of (exec_treeInstall version links s) (execTreeInstall_canonical _ _ h)
  | treeRetire version => exact staysCanonical_of (exec_treeRetire version s) (execTreeRetire_canonical _ h)
  | livenessSend port => exact staysCanonical_of (exec_livenessSend port s) (execLivenessSend_canonical _ h)
  | livenessReceive port => exact staysCanonical_of (exec_livenessReceive port s) (execLivenessReceive_canonical _ h)
  | groupTimeout group => exact staysCanonical_of (exec_groupTimeout group s) (execGroupTimeout_canonical _ h)
  | holdTimeout party index => exact staysCanonical_of (exec_holdTimeout party index s) (execHoldTimeout_canonical _ _ h)
  | interdieLinkError p q => exact staysCanonical_of (exec_interdieLinkError p q s) (execInterdieLinkError_canonical _ _ h)
  | resurveyResume => exact staysCanonical_of (exec_resurveyResume s) (execResurveyResume_canonical h)
  | contribBegin tile => exact staysCanonical_of (exec_contribBegin tile s) (execContribBegin_canonical _ h)
  | contribReceive tile index => exact staysCanonical_of (exec_contribReceive tile index s) (execContribReceive_canonical _ _ h)
  | cackReceive tile index => exact staysCanonical_of (exec_cackReceive tile index s) (execCackReceive_canonical _ _ h)
  | contribResend tile entry => exact staysCanonical_of (exec_contribResend tile entry s) (execContribResend_canonical _ _ h)
  | finReceive tile index => exact staysCanonical_of (exec_finReceive tile index s) (execFinReceive_canonical _ _ h)
  | brelReceive tile index => exact staysCanonical_of (exec_brelReceive tile index s) (execBrelReceive_canonical _ _ h)
  | allfinRelease tile entry => exact staysCanonical_of (exec_allfinRelease tile entry s) (execAllfinRelease_canonical _ _ h)
  | abortReceive tile index => exact staysCanonical_of (exec_abortReceive tile index s) (execAbortReceive_canonical _ _ h)
  | dispatchDecision => exact staysCanonical_of (exec_dispatchDecision s) (execDispatchDecision_canonical h)
  | reservationTimeout part => exact staysCanonical_of (exec_reservationTimeout part s) (execReservationTimeout_canonical _ h)
  | taskEnd run => exact staysCanonical_of (exec_taskEnd run s) (execTaskEnd_canonical _ h)
  | preemptArrive tile => exact staysCanonical_of (exec_preemptArrive tile s) (execPreemptArrive_canonical _ h)
  | preemptInhTimeout tile => exact staysCanonical_of (exec_preemptInhTimeout tile s) (execPreemptInhTimeout_canonical _ h)
  | stubTimeout tile slot => exact staysCanonical_of (exec_stubTimeout tile slot s) (execStubTimeout_canonical _ _ h)
  | frameComplete tile => exact staysCanonical_of (exec_frameComplete tile s) (execFrameComplete_canonical _ h)
  | qptWatchdog tile => exact staysCanonical_of (exec_qptWatchdog tile s) (execQptWatchdog_canonical _ h)
  | stallWatchdog tile slot => exact staysCanonical_of (exec_stallWatchdog tile slot s) (execStallWatchdog_canonical _ _ h)
  | invalDone index => exact staysCanonical_of (exec_invalDone index s) (execInvalDone_canonical _ h)
  | faultRingFlush part => exact staysCanonical_of (exec_faultRingFlush part s) (execFaultRingFlush_canonical _ h)
  | errorDetected e => exact staysCanonical_of (exec_errorDetected e s) (execErrorDetected_canonical _ h)
  | viralSideband party => exact staysCanonical_of (exec_viralSideband party s) (execViralSideband_canonical _ h)
  | freezePacketArrive tile => exact staysCanonical_of (exec_freezePacketArrive tile s) (execFreezePacketArrive_canonical _ h)
  | freezeTimeout ring => exact staysCanonical_of (exec_freezeTimeout ring s) (execFreezeTimeout_canonical _ h)
  | cartoucheAssemble part => exact staysCanonical_of (exec_cartoucheAssemble part s) (execCartoucheAssemble_canonical _ h)
  | sealDeadline => exact staysCanonical_of (exec_sealDeadline s) (execSealDeadline_canonical h)
  | debugHold die => exact staysCanonical_of (exec_debugHold die s) (execDebugHold_canonical _ h)
  | debugRelease die => exact staysCanonical_of (exec_debugRelease die s) (execDebugRelease_canonical _ h)
  | dieQuiesceTimeout die => exact staysCanonical_of (exec_dieQuiesceTimeout die s) (execDieQuiesceTimeout_canonical _ h)
  | dieRetrainDone die ok => exact staysCanonical_of (exec_dieRetrainDone die ok s) (execDieRetrainDone_canonical _ _ h)
  | dieDropThreshold die => exact staysCanonical_of (exec_dieDropThreshold die s) (execDieDropThreshold_canonical _ h)
  | snapshotBegin => exact staysCanonical_of (exec_snapshotBegin s) (execSnapshotBegin_canonical h)
  | snapshotResend index => exact staysCanonical_of (exec_snapshotResend index s) (execSnapshotResend_canonical _ h)
  | trainingComplete => exact staysCanonical_of (exec_trainingComplete s) (execTrainingComplete_canonical h)
  | fullServiceBegin => exact staysCanonical_of (exec_fullServiceBegin s) (execFullServiceBegin_canonical h)
  | coldReset => exact staysCanonical_of (exec_coldReset s) (execColdReset_canonical h)
  | qtailWrite fn q value => exact staysCanonical_of (exec_qtailWrite fn q value s) (execQtailWrite_canonical _ _ _ h)
  | queueRestart fn q => exact staysCanonical_of (exec_queueRestart fn q s) (execQueueRestart_canonical _ _ h)
  | hostRegWrite fn reg value => exact staysCanonical_of (exec_hostRegWrite fn reg value s) (execHostRegWrite_canonical _ _ _ h)
  | cmdNop fn q => exact staysCanonical_of (exec_cmdNop fn q s) (execCmdNop_canonical _ _ h)
  | build fn q => exact staysCanonical_of (exec_build fn q s) (execBuild_canonical _ _ h)
  | arm fn q => exact staysCanonical_of (exec_arm fn q s) (execArm_canonical _ _ h)
  | release fn q => exact staysCanonical_of (exec_release fn q s) (execRelease_canonical _ _ h)
  | preempt fn q => exact staysCanonical_of (exec_preempt fn q s) (execPreempt_canonical _ _ h)
  | resolve fn q => exact staysCanonical_of (exec_resolve fn q s) (execResolve_canonical _ _ h)
  | inval fn q => exact staysCanonical_of (exec_inval fn q s) (execInval_canonical _ _ h)
  | jread fn q => exact staysCanonical_of (exec_jread fn q s) (execJread_canonical _ _ h)
  | capsList fn q => exact staysCanonical_of (exec_capsList fn q s) (execCapsList_canonical _ _ h)
  | capsRead fn q => exact staysCanonical_of (exec_capsRead fn q s) (execCapsRead_canonical _ _ h)
  | partset fn q => exact staysCanonical_of (exec_partset fn q s) (execPartset_canonical _ _ h)
  | partsetDone part => exact staysCanonical_of (exec_partsetDone part s) (execPartsetDone_canonical _ h)
  | sevset fn q => exact staysCanonical_of (exec_sevset fn q s) (execSevset_canonical _ _ h)
  | tmoset fn q => exact staysCanonical_of (exec_tmoset fn q s) (execTmoset_canonical _ _ h)
  | wdset fn q => exact staysCanonical_of (exec_wdset fn q s) (execWdset_canonical _ _ h)
  | power fn q => exact staysCanonical_of (exec_power fn q s) (execPower_canonical _ _ h)
  | diereset fn q => exact staysCanonical_of (exec_diereset fn q s) (execDiereset_canonical _ _ h)
  | diedrop fn q => exact staysCanonical_of (exec_diedrop fn q s) (execDiedrop_canonical _ _ h)
  | snapshot fn q => exact staysCanonical_of (exec_snapshot fn q s) (execSnapshot_canonical _ _ h)
  | snaprest fn q => exact staysCanonical_of (exec_snaprest fn q s) (execSnaprest_canonical _ _ h)
  | pkgreset fn q => exact staysCanonical_of (exec_pkgreset fn q s) (execPkgreset_canonical _ _ h)
  | fabsetPctl fn q => exact staysCanonical_of (exec_fabsetPctl fn q s) (execFabsetPctl_canonical _ _ h)
  | fabsetRcfg fn q => exact staysCanonical_of (exec_fabsetRcfg fn q s) (execFabsetRcfg_canonical _ _ h)
  | fabsetTcw fn q => exact staysCanonical_of (exec_fabsetTcw fn q s) (execFabsetTcw_canonical _ _ h)
  | packageNumberAssign group member => exact staysCanonical_of (exec_packageNumberAssign group member s) (execPackageNumberAssign_canonical _ _ h)
  | debuggerAttach part on => exact staysCanonical_of (exec_debuggerAttach part on s) (execDebuggerAttach_canonical _ _ h)
  | viralNoticeReceive port => exact staysCanonical_of (exec_viralNoticeReceive port s) (execViralNoticeReceive_canonical _ h)
  | snapshotPacketReceive port => exact staysCanonical_of (exec_snapshotPacketReceive port s) (execSnapshotPacketReceive_canonical _ h)
  | snapshotAckReceive port => exact staysCanonical_of (exec_snapshotAckReceive port s) (execSnapshotAckReceive_canonical _ h)
  | removalOfAParty party => exact staysCanonical_of (exec_removalOfAParty party s) (execRemovalOfAParty_canonical _ h)

end Sys2Proof.Machine
end

section
namespace Sys2Proof.Machine

/-! ## A step -/

theorem canonical_of_exec {s r : State} {i : Instr} (h : Canonical s.mem) (e : exec i s = .next r) : Canonical r.mem :=
  exec_canonical i h r e

theorem State.lookAhead_canonical {s : State} (n : Nat) (h : Canonical s.mem) : Canonical (s.lookAhead n).mem := by
  unfold State.lookAhead
  dsimp only [State.freeBool]
  repeat' split
  all_goals simp [h]

/-- The word that a slot issues: a trap of its decoding, an annulled word, a wait for its bundle, or what exec does. -/
theorem State.issueWord_canonical {s : State} (n : Nat) (k : Slot) (h : Canonical s.mem) : StaysCanonical (s.issueWord n k) := by
  have hgo (c : Ctl) (i : Instr) (may gather : Bool) : StaysCanonical
      (if (s.tile n).guards k c then exec i (s.setCur n k c may gather false)
        else if may then .next (s.setTile n ((s.tile n).annul k)) else .next (s.modTile n fun t => t.stallOn k .bundle)) := by
    have he : StaysCanonical (exec i (s.setCur n k c may gather false)) := exec_canonical i (by simpa using h)
    simp [he, h]
  unfold State.issueWord
  dsimp only
  split
  · simp [h]
  · split
    · exact hgo _ _ _ _
    · split
      · split <;> exact hgo _ _ _ _
      · exact hgo _ _ _ _
      · split
        · have hr := hgo _ _ _ _ _ ‹_ = Host.Outcome.next _›
          split <;> simp [hr, h]
        · exact hgo _ _ _ _
      · split
        · split
          · have hr := hgo _ _ _ _ _ ‹_ = Host.Outcome.next _›
            split
            · simp [hr]
            · split
              · simpa using hr
              · exact hgo _ _ _ _
          · exact hgo _ _ _ _
        · exact hgo _ _ _ _

theorem State.slotStep_canonical {s : State} (n : Nat) (k : Slot) (h : Canonical s.mem) : StaysCanonical (s.slotStep n k) := by
  unfold State.slotStep
  dsimp only
  split
  · split <;> simp [h]
  · split
    · split <;> simp [h]
    · split
      · split <;> simp [h]
      · split
        · simp [h]
        · split
          · simp [h]
          · have hw := s.issueWord_canonical n k h
            split
            · have hr := hw _ ‹_›
              simp [hr]
            · exact hw

theorem State.beginTile_canonical {s : State} (n : Nat) (h : Canonical s.mem) : Canonical (s.beginTile n).mem := by
  unfold State.beginTile
  dsimp only
  rw [State.modTile_mem]
  exact State.lookAhead_canonical n (by simpa using h)

theorem State.tileStep_canonical {s : State} (n : Nat) (rest : List Move) (h : Canonical s.mem) :
    StaysCanonical (s.tileStep n rest) := by
  unfold State.tileStep
  split
  · exact staysCanonical_next.2 (State.beginTile_canonical n h)
  · exact State.slotStep_canonical n _ h
  · exact State.slotStep_canonical n _ h
  · exact State.slotStep_canonical n _ h
  · exact State.slotStep_canonical n _ h
  · simp [h]

theorem State.nextStep_canonical {s : State} (h : Canonical s.mem) : StaysCanonical s.nextStep := by
  unfold State.nextStep
  split
  · simpa using h
  · split
    · exact State.tileStep_canonical _ _ h
    · simpa using h
  · split
    · exact exec_canonical _ (by simpa using h)
    · simpa using h

theorem step_canonical {s : State} (h : Canonical s.mem) : StaysCanonical (step s) := by
  unfold step
  split
  · exact staysCanonical_next.2 (State.settleStep_canonical (State.nextStep_canonical h _ ‹_›))
  · simp
  · simp

end Sys2Proof.Machine

namespace Sys2Proof.Laws
open Sys2Proof.Machine

/-- Settles O59: every function that writes a memory keeps its one form, so exec of every instruction and move does, and with
it the step. -/
theorem memoryStaysCanonical : Obligations.MemoryStaysCanonical := by
  unfold Obligations.MemoryStaysCanonical
  intro s t hd hh e
  exact step_canonical ⟨hd, hh⟩ t e

/-- Settles O60: after reset nothing is listed in either memory. -/
theorem memoryCanonicalAtReset : Obligations.MemoryCanonicalAtReset := ⟨wf_nil, wf_nil⟩

end Sys2Proof.Laws
end

section

/-! # Scalar words: their results -/

namespace Sys2Proof.Machine

theorem fld_zero (w : W64) (len : Nat) : fld w 0 len = w.toNat % 2 ^ len := by simp [fld]

theorem fld_lt (w : W64) (lo len : Nat) : fld w lo len < 2 ^ len := Nat.mod_lt _ (Nat.two_pow_pos _)

theorem w64_toNat (w : W64) : w64 w.toNat = w := by simp [w64]

theorem w64i_toInt (w : W64) : w64i w.toInt = w := BitVec.ofInt_toInt

/-! ### The results, as the statements write them -/

theorem divVal_eq (a b : W64) : divVal a b = if b = 0 then BitVec.allOnes 64 else a.udiv b := by
  unfold divVal
  congr 1
  rw [← w64_toNat (a.udiv b)]
  exact congrArg w64 BitVec.toNat_udiv.symm

theorem remVal_eq (a b : W64) : remVal a b = if b = 0 then a else a.umod b := by
  unfold remVal
  congr 1
  rw [← w64_toNat (a.umod b)]
  exact congrArg w64 BitVec.toNat_umod.symm

theorem divsVal_eq (a b : W64) : divsVal a b = if b = 0 then BitVec.allOnes 64 else a.sdiv b := by
  unfold divsVal truncDiv w64i
  congr 1
  rw [← BitVec.toInt_inj, BitVec.toInt_ofInt, BitVec.toInt_sdiv]

theorem remsVal_eq (a b : W64) : remsVal a b = if b = 0 then a else a.srem b := by
  unfold remsVal truncDiv
  congr 1
  rw [← w64i_toInt (a.srem b), BitVec.toInt_srem, Int.tmod_def, Int.mul_comm]

theorem minVal_eq (a b : W64) : minVal a b = if a.ult b then a else b := by
  simp only [minVal, BitVec.ult, decide_eq_true_eq]
  split <;> split
  · rfl
  · exact BitVec.eq_of_toNat_eq (by omega)
  · omega
  · rfl

theorem maxVal_eq (a b : W64) : maxVal a b = if a.ult b then b else a := by
  simp only [maxVal, BitVec.ult, decide_eq_true_eq]
  split <;> split
  · rfl
  · exact BitVec.eq_of_toNat_eq (by omega)
  · omega
  · rfl

theorem minsVal_eq (a b : W64) : minsVal a b = if a.slt b then a else b := by
  simp only [minsVal, BitVec.slt, decide_eq_true_eq]
  split <;> split
  · rfl
  · exact BitVec.eq_of_toInt_eq (by omega)
  · omega
  · rfl

theorem maxsVal_eq (a b : W64) : maxsVal a b = if a.slt b then b else a := by
  simp only [maxsVal, BitVec.slt, decide_eq_true_eq]
  split <;> split
  · rfl
  · exact BitVec.eq_of_toInt_eq (by omega)
  · omega
  · rfl

theorem rgnVal_eq (a b c : W64) (fmt : BitVec 4) (list : Bool) : rgnVal a b c fmt list =
    w64 (a.toNat % 2 ^ 22 + b.toNat % 2 ^ 16 * 2 ^ 24 + c.toNat % 2 ^ 16 * 2 ^ 40 + fmt.toNat * 2 ^ 56 +
      if list then 2 ^ 60 else 0) := by
  cases list <;> simp [rgnVal, fld_zero]

theorem shl_eq (a b : W64) : a <<< fld b 0 6 = w64 (a.toNat * 2 ^ (b.toNat % 64)) :=
  BitVec.eq_of_toNat_eq (by simp [fld_zero, w64, Nat.shiftLeft_eq])

theorem shr_eq (a b : W64) : a >>> fld b 0 6 = w64 (a.toNat / 2 ^ (b.toNat % 64)) := by
  rw [← w64_toNat (a >>> fld b 0 6), BitVec.toNat_ushiftRight, Nat.shiftRight_eq_div_pow, fld_zero,
    show (2 : Nat) ^ 6 = 64 from rfl]

theorem sra_eq (a b : W64) : a.sshiftRight (fld b 0 6) = w64i (a.toInt / 2 ^ (b.toNat % 64)) := by
  rw [← w64i_toInt (a.sshiftRight _), BitVec.toInt_sshiftRight, Int.shiftRight_eq_div_pow, fld_zero]
  simp

theorem rotVal_eq (a b : W64) : rotVal a b = a.rotateLeft (b.toNat % 64) := by
  have hlt : b.toNat % 64 < 64 := Nat.mod_lt _ (by decide)
  unfold rotVal
  rw [fld_zero, show (2 : Nat) ^ 6 = 64 from rfl]
  generalize b.toNat % 64 = n at hlt
  rw [BitVec.rotateLeft_eq_rotateLeftAux_of_lt hlt]
  unfold BitVec.rotateLeftAux
  rcases Nat.eq_zero_or_pos n with rfl | hn
  · ext i hi
    simp
  · rw [Nat.mod_eq_of_lt (show 64 - n < 64 by omega)]

theorem popcVal_eq (a : W64) : popcVal a = (List.range 64).countP fun i => a.getLsbD i :=
  (List.countP_eq_length_filter ..).symm

theorem movk_eq (imm : BitVec 24) : imm.signExtend 64 = BitVec.ofInt 64 imm.toInt := rfl

theorem movkh_eq (imm : BitVec 20) (a : W64) : imm ++ a.setWidth 44 = w64 (imm.toNat * 2 ^ 44 + a.toNat % 2 ^ 44) := by
  refine BitVec.eq_of_toNat_eq ?_
  have hi : imm.toNat < 2 ^ 20 := imm.isLt
  have hlo : a.toNat % 2 ^ 44 < 2 ^ 44 := Nat.mod_lt _ (by decide)
  rw [BitVec.toNat_append, BitVec.toNat_setWidth, Nat.shiftLeft_eq, Nat.mul_comm, ← Nat.two_pow_add_eq_or_of_lt hlo]
  simp only [w64, BitVec.toNat_ofNat]
  omega

end Sys2Proof.Machine

namespace Sys2Proof.Laws
open Sys2Proof.Machine Sys2Proof.Claim

/-- A guard word sets its guard at issue + 1. -/
theorem sets_of {s : State} {i : Instr} {d : Fin 8} {srcs : List Src} {grds : List (Fin 8)} {f : Tile → List W64 → Bool}
    {g : List W64 → Bool} (hi : exec i s = guardWord s d srcs grds f) (hfg : ∀ v, f (tl s) v = g v) :
    Sets s i d srcs grds g := by
  intro v h
  unfold guardWord at hi
  rw [hi, runWord_next (p := { outs := [(.g d, 1)]
                               act := fun u => u.schedG (slot s) d (u.cyc + 1) (f (tl s) v)
                               retire := now s + 1 }) rfl h rfl (Bool.and_false _) rfl rfl, hfg]
  simp

/-- Bit 5 of F4 is reserved in RGN: a word that sets it is refused (05 R97, 03 R51). -/
theorem decode_rgn_reserved {k : Slot} {w : W64} (hop : fld w 30 10 = 0x011) (hbit : bitAt w 5 = true) (r : Ctl × Instr) :
    decode k w ≠ .ok r := by
  have hop' : w.extractLsb' 30 10 = 0x011#10 := BitVec.eq_of_toNat_eq (by
    rw [BitVec.extractLsb'_toNat, Nat.shiftRight_eq_div_pow]; exact hop)
  have hf4 : ¬ (Fields.ofWord w).f4.toNat < 32 := by
    have : (w.extractLsb' 0 6).getLsbD 5 = true := by simpa [bitAt] using hbit
    intro hlt
    rw [BitVec.getLsbD, Nat.testBit_lt_two_pow hlt] at this
    cases this
  have hbody : decodeBody (Fields.ofWord w) = none := by
    have : (Fields.ofWord w).op = 0x011#10 := hop'
    simp only [decodeBody, this, BitVec.toNat_ofNat, Nat.reduceMod, Nat.reduceDiv, Nat.reducePow, body0, rdRgn, if_neg hf4]
    split <;> rfl
  unfold decode
  rw [hop', if_neg (by decide), if_neg (by decide)]
  unfold decodeFields
  rw [hbody]
  repeat' split
  all_goals simp_all

/-- Settles O1: each word is scalarWord with its own function of the two sources. -/
theorem scalarArithmeticResults : Obligations.ScalarArithmeticResults := by
  unfold Obligations.ScalarArithmeticResults
  intro s d x y
  exact ⟨gives_of (exec_add d x y s) fun _ => rfl, gives_of (exec_sub d x y s) fun _ => rfl,
    gives_of (exec_mul d x y s) fun _ => rfl, gives_of (exec_mulh d x y s) fun _ => rfl,
    gives_of (exec_mulhs d x y s) fun _ => rfl, gives_of (exec_div d x y s) fun _ => divVal_eq _ _,
    gives_of (exec_divs d x y s) fun _ => divsVal_eq _ _, gives_of (exec_rem d x y s) fun _ => remVal_eq _ _,
    gives_of (exec_rems d x y s) fun _ => remsVal_eq _ _, gives_of (exec_min d x y s) fun _ => minVal_eq _ _,
    gives_of (exec_mins d x y s) fun _ => minsVal_eq _ _, gives_of (exec_max d x y s) fun _ => maxVal_eq _ _,
    gives_of (exec_maxs d x y s) fun _ => maxsVal_eq _ _⟩

theorem execXmov_x (n : Fin 8) (x : Src) (s : State) : execXmov (.x n) x s = runWord s { srcs := [x] } fun t v =>
    { outs := [(.x n, 1)], act := fun u => u.schedX s.cur.slot n (u.cyc + 1) (nth v 0), retire := t.cyc + 1 } := rfl

/-- Settles O2: SEL and XMOV to an exchange register have a plan of their own, the others are scalarWord; RGN's reserved bit is
refused by the decoder. -/
theorem scalarMoveResults : Obligations.ScalarMoveResults := by
  unfold Obligations.ScalarMoveResults
  intro s d x y z
  refine ⟨fun g v h => ?sel, fun imm => gives_of (exec_movk d imm s) fun _ => movk_eq imm,
    fun n imm => gives_of (exec_movkh n imm s) fun _ => movkh_eq imm _, fun n => gives_of (exec_xmov (.s n) x s) fun _ => rfl,
    gives_of (exec_xmov .sq x s) fun _ => rfl, fun n => does_of ((exec_xmov (.x n) x s).trans (execXmov_x n x s)) fun _ _ =>
      ⟨_, rfl, rfl, rfl, Bool.and_false _, rfl, rfl, rfl, max_eq_left (Nat.le_succ _), rfl, rfl, rfl⟩,
    fun fmt list => gives_of (exec_rgn d x y z fmt list s) fun _ => rgnVal_eq _ _ _ fmt list,
    fun k w hop hbit r => decode_rgn_reserved hop hbit r, fun num => gives_of (exec_mfsr d num s) fun _ => rfl⟩
  case sel =>
    rw [exec_sel, execSel, runWord_next (p := { outs := dstOut d 1, act := _, retire := now s + 1 }) rfl h rfl
      (Bool.and_false _) rfl rfl]
    exact congrArg (fun r => Host.Outcome.next (done s [x, y] (some r) _)) (max_eq_left (Nat.le_succ _))

/-- Settles O3: each word is scalarWord with its own function of its sources. -/
theorem scalarLogicResults : Obligations.ScalarLogicResults := by
  unfold Obligations.ScalarLogicResults
  intro s d x y n pos len
  exact ⟨gives_of (exec_and d x y s) fun _ => rfl, gives_of (exec_or d x y s) fun _ => rfl,
    gives_of (exec_xor d x y s) fun _ => rfl, gives_of (exec_andn d x y s) fun _ => rfl,
    gives_of (exec_shl d x y s) fun _ => shl_eq _ _, gives_of (exec_shr d x y s) fun _ => shr_eq _ _,
    gives_of (exec_sra d x y s) fun _ => sra_eq _ _, gives_of (exec_rot d x y s) fun _ => rotVal_eq _ _,
    gives_of (exec_clz d x s) fun _ => rfl, gives_of (exec_ctz d x s) fun _ => rfl,
    gives_of (exec_popc d x s) fun _ => congrArg w64 (popcVal_eq _), gives_of (exec_extr d x pos len s) fun _ => rfl,
    gives_of (exec_ins n x pos len s) fun _ => rfl, gives_of (exec_clmul d x y s) fun _ => rfl,
    gives_of (exec_clmulh d x y s) fun _ => rfl⟩

/-- Settles O4: each word is guardWord with its own function of the guards or of the two sources. -/
theorem guardWordResults : Obligations.GuardWordResults := by
  unfold Obligations.GuardWordResults
  intro s d g h x y
  exact ⟨sets_of (exec_gand d g h s) fun _ => rfl, sets_of (exec_gor d g h s) fun _ => rfl,
    sets_of (exec_gnot d g s) fun _ => rfl, sets_of (exec_cmpEq d x y s) fun _ => beq_eq_decide ..,
    sets_of (exec_cmpNe d x y s) fun _ => by simp [cmpVal, bne, beq_eq_decide, decide_not], sets_of (exec_cmpLt d x y s) fun _ => rfl,
    sets_of (exec_cmpLts d x y s) fun _ => rfl, sets_of (exec_cmpLe d x y s) fun _ => rfl,
    sets_of (exec_cmpLes d x y s) fun _ => rfl⟩

end Sys2Proof.Laws
end
section

/-! # What a word leaves alone as it issues -/

namespace Sys2Proof.Laws
open Sys2Proof.Machine Sys2Proof.Claim

theorem kept_refl (t : Tile) : Kept t t := by
  constructor <;> simp

theorem kept_trans {t u v : Tile} (h : Kept t u) (h' : Kept u v) : Kept t v where
  regs k := (h'.regs k).trans (h.regs k)
  grds k := (h'.grds k).trans (h.grds k)
  runs k := (h'.runs k).trans (h.runs k)
  xs := h'.xs.trans h.xs
  bank := ⟨h'.bank.1.trans h.bank.1, h'.bank.2.trans h.bank.2⟩
  store := h'.store.trans h.store
  spad := h'.spad.trans h.spad
  fmts := ⟨h'.fmts.1.trans h.fmts.1, h'.fmts.2.trans h.fmts.2⟩
  trap := by simp [h'.trap, h.trap]
  sysr := by simp [h'.sysr, h.sysr]
  cnts := ⟨h'.cnts.1.trans h.cnts.1, h'.cnts.2.trans h.cnts.2⟩
  bind := ⟨h'.bind.1.trans h.bind.1, h'.bind.2.trans h.bind.2⟩
  eng := h'.eng.trans h.eng
  sync := by simp [h'.sync, h.sync]
  chain := h'.chain.trans h.chain

/-- The queues, tokens, scheduled writes, counts and events are none of what Kept names. -/
theorem kept_update (t : Tile) (toks tpush lq tally pend board evs eoc) :
    Kept t { t with toks := toks, tpush := tpush, lq := lq, tally := tally, pend := pend, board := board, evs := evs, eoc := eoc } where
  regs k := by cases k <;> rfl
  grds k := by cases k <;> rfl
  runs k := by cases k <;> rfl
  xs := rfl
  bank := ⟨rfl, rfl⟩
  store := rfl
  spad := rfl
  fmts := ⟨rfl, rfl⟩
  trap := ⟨rfl, rfl, rfl, rfl⟩
  sysr := ⟨rfl, rfl, rfl, rfl, rfl⟩
  cnts := ⟨rfl, rfl⟩
  bind := ⟨rfl, rfl⟩
  eng := rfl
  sync := ⟨rfl, rfl, rfl, rfl, rfl, rfl⟩
  chain := rfl

/-- A slot's place may change: what Kept names of a slot are its registers, guards and mode bit. -/
theorem kept_setSlot (t : Tile) (k : Slot) (x : SlotSt) (hs : x.s = (t.slot k).s) (hg : x.g = (t.slot k).g)
    (hr : x.running = (t.slot k).running) : Kept t (t.setSlot k x) := by
  have hslot (j : Slot) : ((t.setSlot k x).slot j).s = (t.slot j).s ∧ ((t.setSlot k x).slot j).g = (t.slot j).g ∧
      ((t.setSlot k x).slot j).running = (t.slot j).running := by
    rcases eq_or_ne j k with rfl | hj
    · simp [hs, hg, hr]
    · simp [Tile.slot_setSlot_ne t k j x hj]
  exact ⟨fun j => (hslot j).1, fun j => (hslot j).2.1, fun j => (hslot j).2.2, by simp, by simp, by simp, by simp, by simp,
    by simp, by simp, by simp, by simp, by simp, by simp, by simp⟩

theorem kept_takeToken (t : Tile) (k : Slot) (tok : Tok) (r : Option Nat) : Kept t (t.takeToken k tok r) := by
  unfold Tile.takeToken
  cases popFifo k tok <;> cases pushFifo k tok <;> exact kept_update t ..

theorem kept_popLq (t : Tile) (n : Nat) : Kept t (t.popLq n) := kept_update t ..

theorem kept_count (t : Tile) (code slot n : Nat) : Kept t (t.count code slot n) := kept_update t ..

theorem kept_advance (t : Tile) (k : Slot) (f : Flow) : Kept t (t.advance k f) := by
  cases f with
  | seq => exact kept_setSlot t k _ rfl rfl rfl
  | jump target pops => exact kept_setSlot t k _ rfl rfl rfl
  | open_ stop left => exact kept_setSlot t k _ rfl rfl rfl
  | stay => exact kept_refl t

theorem kept_sched (t : Tile) (k : Slot) (at_ : Nat) (w : Tgt) : Kept t (t.sched k at_ w) := kept_update t ..

theorem kept_schedS (t : Tile) (k : Slot) (n : Fin 32) (at_ : Nat) (v : W64) : Kept t (t.schedS k n at_ v) := by
  unfold Tile.schedS
  split
  · exact kept_refl t
  · exact kept_update t ..

theorem kept_schedG (t : Tile) (k : Slot) (n : Fin 8) (at_ : Nat) (v : Bool) : Kept t (t.schedG k n at_ v) := by
  unfold Tile.schedG
  split
  · exact kept_refl t
  · exact kept_update t ..

theorem kept_schedX (t : Tile) (k : Slot) (n : Fin 8) (at_ : Nat) (v : W64) : Kept t (t.schedX k n at_ v) := kept_update t ..

theorem kept_putDst (t : Tile) (k : Slot) (d : Dst) (lat : Nat) (v : W64) : Kept t (t.putDst k d lat v) := by
  cases d with
  | s n => exact kept_schedS t k n _ v
  | sq => exact kept_sched t k _ _

/-- A word whose effect keeps a tile keeps it, and every other tile and the rest of the state. -/
theorem frame_done {s : State} {srcs : List Src} {ret : Option Nat} {act : Tile → Tile} {flow : Flow}
    (hact : ∀ t, Kept t (act t)) : Frame s (done s srcs ret act flow) := by
  refine ⟨?_, fun n hn => State.tile_setTile_ne _ _ _ _ hn, rfl⟩
  unfold done
  rw [State.tile_setTile]
  exact kept_trans (kept_takeToken (tl s) _ _ _) <| kept_trans (kept_popLq _ _) <| kept_trans (hact _) <|
    kept_trans (kept_advance _ _ _) (kept_count _ _ _ _)

/-! ### What a word schedules -/

/-- A word's scheduled writes are those that its effect leaves on its tile, which its token and its LQ entries have no part
in. -/
theorem pend_done (s : State) (srcs : List Src) (ret : Option Nat) (act : Tile → Tile) :
    ((done s srcs ret act).tile s.cur.tile).pend =
      (act (((tl s).takeToken (slot s) s.cur.ctl.tok ret).popLq (pops srcs))).pend := by
  unfold done
  rw [State.tile_setTile, Tile.count_pend, (advance_queues _ _).1]

/-- What a scheduled write says of the word that schedules it is no part of what its token or its LQ entries change. -/
theorem issue_takeToken (t : Tile) (k j : Slot) (tok : Tok) (r : Option Nat) (n : Nat) :
    let u := (t.takeToken k tok r).popLq n
    u.pend = t.pend ∧ u.cyc = t.cyc ∧ u.inh = t.inh ∧ u.slot j = t.slot j := by
  unfold Tile.takeToken
  cases popFifo k tok <;> cases pushFifo k tok <;> cases j <;> exact ⟨rfl, rfl, rfl, rfl⟩

theorem schedS_pend (t : Tile) (k : Slot) (n : Fin 32) (at_ : Nat) (v : W64) : (t.schedS k n at_ v).pend =
    t.pend ++ if n = 0 then [] else [⟨at_, k, t.cyc, (t.slot k).pc.toNat, .reg k n (t.banked k n) v⟩] := by
  unfold Tile.schedS
  split <;> simp [Tile.sched]

theorem schedG_pend (t : Tile) (k : Slot) (n : Fin 8) (at_ : Nat) (v : Bool) : (t.schedG k n at_ v).pend =
    t.pend ++ if n = 0 then [] else [⟨at_, k, t.cyc, (t.slot k).pc.toNat, .grd k n (t.gbanked k n) v⟩] := by
  unfold Tile.schedG
  split <;> simp [Tile.sched]

/-- Settles O5: the effect of each word is one scheduled write, which is none of what Frame names, and which reads of its tile
only what taking a token and popping LQ leave. -/
theorem scalarWordFrame : Obligations.ScalarWordFrame := by
  unfold Obligations.ScalarWordFrame
  intro s d lat x g y n srcs ret
  obtain ⟨hpend, hcyc, hinh, hslot⟩ := issue_takeToken (tl s) (slot s) (slot s) s.cur.ctl.tok (some ret) (pops srcs)
  refine ⟨frame_done fun _ => kept_putDst _ _ _ _ _, frame_done fun _ => kept_schedG _ _ _ _ _,
    frame_done fun _ => kept_schedX _ _ _ _ _, ?_, ?_, ?_⟩ <;> rw [pend_done]
  · cases d with
    | s m => simp only [Tile.putDst, schedS_pend, Tile.banked, hpend, hcyc, hinh, hslot]; rfl
    | sq => simp only [Tile.putDst, Tile.sched, hpend, hcyc, hslot]; rfl
  · simp only [schedG_pend, Tile.gbanked, hpend, hcyc, hinh, hslot]; rfl
  · simp only [Tile.schedX, Tile.sched, hpend, hcyc, hslot]; rfl

end Sys2Proof.Laws
end
section

/-! # The write that lands, and the handler bank -/

namespace Sys2Proof.Machine

theorem vector_get_set {α : Type} {w : Nat} (v : Vector α w) (n m : Fin w) (x : α) :
    (v.set n x).get m = if n = m then x else v.get m := by
  simp [Vector.get_eq_getElem, Vector.getElem_set, Fin.ext_iff]

@[simp] theorem vector_get_set_same {α : Type} {w : Nat} (v : Vector α w) (n : Fin w) (x : α) : (v.set n x).get n = x := by
  simp [vector_get_set]

@[simp] theorem Tile.readS_zero (t : Tile) (k : Slot) : t.readS k 0 = 0 := rfl

@[simp] theorem Tile.readG_zero (t : Tile) (k : Slot) : t.readG k 0 = true := rfl

theorem Tile.slot_modSlot (t : Tile) (k j : Slot) (f : SlotSt → SlotSt) :
    (t.modSlot k f).slot j = if j = k then f (t.slot k) else t.slot j := by
  unfold Tile.modSlot
  split
  · subst j
    simp
  · exact Tile.slot_setSlot_ne t k j _ ‹_›

/-- Without a write that is due the registers and memories stay (03 R55). -/
theorem Tile.applyDue_of_early {t : Tile} {p : PendW} (hpend : t.pend = [p]) (hearly : t.cyc < p.at_) :
    ∃ pend board reserved, t.applyDue = { t with pend := pend, board := board, reserved := reserved } := by
  have hfilter : t.pend.filter (fun q => q.at_ ≤ t.cyc) = [] := by simp [hpend, hearly]
  unfold Tile.applyDue
  dsimp only
  rw [hfilter]
  exact ⟨_, _, _, rfl⟩

/-- A single write that is due is made, and no longer scheduled (03 R55). -/
theorem Tile.applyDue_of_due {t : Tile} {p : PendW} (hpend : t.pend = [p]) (hdue : p.at_ ≤ t.cyc) :
    ∃ board reserved, t.applyDue = { t.apply p.tgt with pend := [], board := board, reserved := reserved } := by
  have hfilter : t.pend.filter (fun q => q.at_ ≤ t.cyc) = [p] := by simp [hpend, hdue]
  have hrest : t.pend.filter (fun q => t.cyc < q.at_) = [] := by simp [hpend, hdue]
  obtain ⟨at_, k, iss, pc, w⟩ := p
  unfold Tile.applyDue
  dsimp only
  rw [hfilter, hrest]
  cases k <;> exact ⟨_, _, rfl⟩

/-- A tile reads of its registers and guards the slots, the handler bank and INH alone. -/
theorem Tile.reads_update (t : Tile) (pend board reserved) (j : Slot) (m : Fin 32) (g : Fin 8) :
    let u : Tile := { t with pend := pend, board := board, reserved := reserved }
    u.readS j m = t.readS j m ∧ u.readG j g = t.readG j g := by
  cases j <;> exact ⟨rfl, rfl⟩

/-- Writing a register outside the handler bank changes that register alone. -/
theorem Tile.readS_writeS {t : Tile} (k j : Slot) (n m : Fin 32) (x : W64) (hn : n ≠ 0) (hb : t.banked k n = false) :
    (t.writeS k n false x).readS j m = if (j, m) = (k, n) then x else t.readS j m := by
  have hset : t.writeS k n false x = t.modSlot k fun z => { z with s := z.s.set n x } := by simp [Tile.writeS, hn]
  have hinh : (t.writeS k n false x).banked j m = t.banked j m := by rw [hset]; simp [Tile.banked, Tile.modSlot]
  unfold Tile.readS
  rw [hinh, hset, Tile.slot_modSlot]
  rcases eq_or_ne j k with rfl | hj
  · rcases eq_or_ne m n with rfl | hm
    · simp [hn, hb]
    · simp [hm, Tile.modSlot, vector_get_set, Ne.symm hm]
  · simp [hj, Tile.modSlot]

theorem Tile.readG_writeS (t : Tile) (k j : Slot) (n : Fin 32) (g : Fin 8) (bank : Bool) (x : W64) :
    (t.writeS k n bank x).readG j g = t.readG j g := by
  unfold Tile.writeS
  split
  · rfl
  · split
    · cases j <;> rfl
    · unfold Tile.readG Tile.gbanked
      rw [Tile.slot_modSlot]
      rcases eq_or_ne j k with rfl | hj
      · simp [Tile.modSlot]
      · simp [hj, Tile.modSlot]

/-- A register write leaves the memories of the tile, its exchange registers and its engine. -/
theorem Tile.writeS_rest (t : Tile) (k : Slot) (n : Fin 32) (bank : Bool) (x : W64) :
    (t.writeS k n bank x).spad = t.spad ∧ (t.writeS k n bank x).istore = t.istore ∧ (t.writeS k n bank x).x = t.x ∧
      (t.writeS k n bank x).eng = t.eng := by
  unfold Tile.writeS
  split
  · exact ⟨rfl, rfl, rfl, rfl⟩
  · split
    · exact ⟨rfl, rfl, rfl, rfl⟩
    · simp [Tile.modSlot]

end Sys2Proof.Machine

namespace Sys2Proof.Laws
open Sys2Proof.Machine Sys2Proof.Claim

/-- Settles O6: before its cycle the write is only kept, and at its cycle writeS makes it. -/
theorem scheduledWriteLands : Obligations.ScheduledWriteLands := by
  unfold Obligations.ScheduledWriteLands
  intro t k j n m g x at_ iss pc hinh hn hpend u
  have hbank : t.banked k n = false := by simp [Tile.banked, hinh]
  rcases Nat.lt_or_ge t.cyc at_ with hearly | hdue
  · obtain ⟨pend, board, reserved, hu⟩ := Tile.applyDue_of_early hpend hearly
    replace hu : u = _ := hu
    have hS (i) : u.readS j i = t.readS j i := by
      rw [hu]
      exact (t.reads_update pend board reserved j i g).1
    have hG : u.readG j g = t.readG j g := by
      rw [hu]
      exact (t.reads_update pend board reserved j m g).2
    refine ⟨fun _ => hS, fun h => absurd h (Nat.not_le.2 hearly), hG, ?_, ?_, ?_, ?_, rfl, rfl⟩ <;> rw [hu]
  · obtain ⟨board, reserved, hu⟩ := Tile.applyDue_of_due hpend hdue
    replace hu : u = _ := hu
    have hS (i l) : u.readS i l = if (i, l) = (k, n) then x else t.readS i l := by
      rw [← Tile.readS_writeS k i n l x hn hbank, hu]
      exact (Tile.reads_update (t.writeS k n false x) [] board reserved i l g).1
    have hG : u.readG j g = t.readG j g := by
      rw [← t.readG_writeS k j n g false x, hu]
      exact (Tile.reads_update (t.writeS k n false x) [] board reserved j m g).2
    obtain ⟨hspad, histore, hx, heng⟩ := t.writeS_rest k n false x
    refine ⟨fun h => absurd hdue (Nat.not_le.2 h), fun _ => ⟨?_, fun hne => ?_, by rw [hu]⟩, hG, ?_, ?_, ?_, ?_, rfl, rfl⟩
    · rw [hS, if_pos rfl]
    · rw [hS, if_neg hne]
    · rw [hu]
      exact hspad
    · rw [hu]
      exact histore
    · rw [hu]
      exact hx
    · rw [hu]
      exact heng

/-- Settles O12: while INH = 1 banked and gbanked are C's upper registers and guards; the bank is read where it is written. -/
theorem handlerBankReadsAndWrites : Obligations.HandlerBankReadsAndWrites := by
  unfold Obligations.HandlerBankReadsAndWrites
  intro t n g k v y hinh
  refine ⟨fun hn => ?_, fun hg => ?_, fun hlt hn => ?_, fun hk hn => ?_⟩
  · have hz : n ≠ 0 := by rintro rfl; simp at hn
    have hb : t.banked .c n = true := by simp [Tile.banked, hinh, hn]
    refine ⟨?_, ?_, ?_⟩
    · simp [Tile.readS, hz, hb]
    · simp only [Tile.readS, Tile.writeS, Tile.banked, hz, hinh, hn, if_false, if_true, BEq.rfl, decide_true, Bool.and_self]
      exact vector_get_set_same ..
    · simp [Tile.writeS, hz, hb]
  · have hz : g ≠ 0 := by rintro rfl; simp at hg
    have hb : t.gbanked .c g = true := by simp [Tile.gbanked, hinh, hg]
    refine ⟨?_, ?_, ?_⟩
    · simp [Tile.readG, hz, hb]
    · simp only [Tile.readG, Tile.writeG, Tile.gbanked, hz, hinh, hg, if_false, if_true, BEq.rfl, decide_true, Bool.and_self]
      exact vector_get_set_same ..
    · simp [Tile.writeG, hz, hb]
  · have hb : t.banked .c n = false := by simp [Tile.banked, hlt]
    simp [Tile.readS, hn, hb, Tile.slot]
  · have hb : t.banked k n = false := by simp [Tile.banked, hk]
    refine ⟨by simp [Tile.readS, hn, hb], ?_⟩
    rw [hb, Tile.readS_writeS k k n n v hn hb, if_pos rfl]

end Sys2Proof.Laws
end
section

/-! # Where a slot goes, and how the handler is entered -/

namespace Sys2Proof.Machine

/-- The frames whose iterations are used up are left, the innermost first (05 R109). -/
theorem loopEdge_append_of_used {a : Nat} {ended : List Loop} (rest : List Loop)
    (h : ∀ g ∈ ended, g.stop = a ∧ g.left ≤ 1) : loopEdge a (ended ++ rest) = loopEdge a rest := by
  induction ended with
  | nil => rfl
  | cons g ended ih =>
    obtain ⟨hstop, hleft⟩ := h g List.mem_cons_self
    rw [List.cons_append, loopEdge, if_pos hstop, if_neg (Nat.not_lt.2 hleft)]
    exact ih fun g hg => h g (List.mem_cons_of_mem _ hg)

theorem loopEdge_of_head {a : Nat} {rest : List Loop} (h : ∀ g ∈ rest.head?, g.stop ≠ a) : loopEdge a rest = (rest, none) := by
  cases rest with
  | nil => rfl
  | cons g rest => rw [loopEdge, if_neg (h g rfl)]

theorem loopEdge_of_left {a : Nat} {f : Loop} (rest : List Loop) (hstop : f.stop = a) (hleft : 1 < f.left) :
    loopEdge a (f :: rest) = (⟨f.start, f.stop, f.left - 1⟩ :: rest, some f.start) := by
  rw [loopEdge, if_pos hstop, if_pos hleft]

/-- The slot after a word that does not branch, by what the edge of its loops gives. -/
theorem Tile.advance_seq_slot {t : Tile} {k : Slot} (h : t.inHandler k = false) {ls : List Loop} {back : Option Nat}
    (hedge : (if (t.slot k).stub then ((t.slot k).loops, none) else loopEdge (t.slot k).wordPc (t.slot k).loops) = (ls, back)) :
    ((t.advance k .seq).slot k).pc = BitVec.ofNat 18 (back.getD ((t.slot k).wordPc + 8)) ∧
      ((t.advance k .seq).slot k).base = t.cyc + 1 ∧ ((t.advance k .seq).slot k).loops = ls := by
  have hcond : (if (!(k == .c && t.inh) && !(t.slot k).stub) = true then loopEdge (t.slot k).wordPc (t.slot k).loops
      else ((t.slot k).loops, none)) = (ls, back) := by
    rw [← hedge, show (k == .c && t.inh) = false from h]
    cases (t.slot k).stub <;> rfl
  unfold Tile.advance
  dsimp only
  rw [hcond, Tile.slot_setSlot]
  exact ⟨rfl, rfl, rfl⟩

theorem popFrames_eq (a : Nat) (l : List Loop) : popFrames a l = l.filter fun f => f.start ≤ a ∧ a ≤ f.stop := by
  simp [popFrames, Loop.has]

end Sys2Proof.Machine

namespace Sys2Proof.Laws
open Sys2Proof.Machine Sys2Proof.Claim

/-- Settles O7: the edge of a slot's loops, by the frames at its head. -/
theorem nextWordOfASlot : Obligations.NextWordOfASlot := by
  unfold Obligations.NextWordOfASlot
  intro t k target stop n f ended rest hnot x pc u usedUp
  have hloops : (k == .c && t.inh) = false := hnot
  refine ⟨fun hstub => ?_, fun hstub hl hused hhead => ?_, fun hstub hl hused hstop hleft => ?_, ⟨?_, ?_, ?_⟩, ?_, ?_, ?_⟩
  · exact Tile.advance_seq_slot hnot (if_pos hstub)
  · refine Tile.advance_seq_slot hnot (back := none) ((if_neg (Bool.eq_false_iff.1 hstub)).trans ?_)
    rw [hl, loopEdge_append_of_used rest hused, loopEdge_of_head hhead]
  · refine Tile.advance_seq_slot hnot (back := some f.start) ((if_neg (Bool.eq_false_iff.1 hstub)).trans ?_)
    rw [hl, loopEdge_append_of_used _ hused, loopEdge_of_left rest hstop hleft]
  · simp [Tile.advance]
  · simp [Tile.advance]
  · simp only [Tile.advance, Tile.slot_setSlot, hloops, popFrames_eq]
    cases x.stub <;> rfl
  · simp [Tile.advance, x]
  · simp [Tile.advance, x, pc]
  · simp [Tile.advance, pc, x]

/-- Settles O11: enterTrap writes the trap record, INH and slot C's place; the withdrawal of the slot from its mutexes and
semaphores is none of the rest. -/
theorem trapEntry : Obligations.TrapEntry := by
  unfold Obligations.TrapEntry
  intro t k cause detail v pc u
  have hslot (j : Slot) : (u.slot j).s = (t.slot j).s ∧ (u.slot j).g = (t.slot j).g ∧ (u.slot j).loops = (t.slot j).loops ∧
      (u.slot j).running = (t.slot j).running ∧ (j ≠ .c → (u.slot j).pc = (t.slot j).pc) := by
    refine ⟨?_, ?_, ?_, ?_, fun hj => ?_⟩
    case refine_5 =>
      cases j with
      | c => exact absurd rfl hj
      | a => cases k <;> rfl
      | v => cases k <;> rfl
      | m => cases k <;> rfl
    all_goals cases k <;> cases j <;> rfl
  cases k <;> exact ⟨rfl, rfl, rfl, rfl, rfl, rfl, rfl, rfl, hslot, rfl, rfl, rfl, rfl, rfl, rfl, rfl, rfl, rfl, rfl, rfl, rfl⟩

end Sys2Proof.Laws
end

section

/-! # Control flow -/

namespace Sys2Proof.Laws
open Sys2Proof.Machine Sys2Proof.Claim

/-- A word without sources reads nothing. -/
theorem ready_nil {s : State} {grds : List (Fin 8)} {sq : Bool} {outs : List (Out × Nat)} {v : List W64}
    (h : Ready s [] grds sq outs v) : v = [] := by
  obtain ⟨_, _, _, ⟨q, _, hv⟩, _⟩ := h
  rw [← hv]
  rfl

/-- A word whose plan is known, and names no trap, no stall and no later check, issues with the plan's effect. -/
theorem issues_of {s : State} {i : Instr} {srcs : List Src} {grds : List (Fin 8)} {sq : Bool} {v : List W64}
    {plan : Tile → List W64 → Plan} {p : Plan} {r : Nat} (hi : exec i s = runWord s ⟨srcs, grds, sq⟩ plan)
    (hr : Ready s srcs grds sq p.outs v) (hp : plan (tl s) v = p) (hret : max p.retire (now s) = r) (ht : p.trap = none := by rfl)
    (he : p.early = false := by rfl) (hw : p.wait = none := by rfl) (ha : p.after = none := by rfl)
    (hopen : p.open_ = false := by rfl) (hsys : p.sys = id := by rfl) :
    exec i s = .next (done s srcs (some r) p.act p.flow) := by
  rw [hi, runWord_next hp hr ht (by rw [he, Bool.and_false]) hw ha, hsys, hopen, hret]
  rfl

/-- A word that only does something to its tile, and retires at issue. -/
theorem does_of_plainWord {s : State} {i : Instr} {act : Tile → Tile} (hi : exec i s = plainWord s act) (ok : List W64 → Prop) :
    Does s i [] [] (now s) ok fun _ => act := by
  unfold plainWord at hi
  exact does_of hi fun _ _ => ⟨_, rfl, rfl, rfl, Bool.and_false _, rfl, rfl, rfl, max_self _, rfl, rfl, rfl⟩

/-- A target that may be taken has the plan of a taken branch. -/
theorem branchPlan_of_mayGoTo {s : State} {target : Nat} (h : MayGoTo s target) (kind : Nat) (pops : Bool) :
    branchPlan (tl s) (slot s) kind target pops =
      { flow := .jump target pops, act := fun u => u.branchEvent (slot s) kind target (wordAt s), retire := now s } := by
  obtain ⟨halign, hres⟩ := h
  unfold branchPlan
  dsimp only
  rw [if_neg (by simp [halign]), if_neg]
  · rfl
  · rintro ⟨hlt, hh⟩
    rcases hres with hge | hin
    · omega
    · rw [hin] at hh
      cases hh

theorem branchPlan_align (t : Tile) (k : Slot) (kind : Nat) {target : Nat} (pops : Bool) (h : target % 8 ≠ 0) :
    branchPlan t k kind target pops = Plan.raise .align 0 (some (w64 target)) := if_pos h

theorem branchPlan_resident {s : State} (hm : MayTrap s) (kind : Nat) {target : Nat} (pops : Bool) (h : target % 8 = 0)
    (hres : target < 0x8000) : branchPlan (tl s) (slot s) kind target pops = Plan.raise .ill 4 (some (w64 target)) := by
  have hh : (tl s).inHandler (slot s) = false := by simp [Tile.inHandler, hm.2.1]
  unfold branchPlan
  dsimp only
  rw [if_neg (by simp [h]), if_pos ⟨hres, hh⟩]

/-- A word whose plan is a branch that may be taken branches. -/
theorem branches_of {s : State} {i : Instr} {srcs : List Src} {v : List W64} {plan : Tile → List W64 → Plan} {kind target : Nat}
    {pops : Bool} (hi : exec i s = runWord s { srcs := srcs } plan) (hr : Ready s srcs [] false [] v)
    (hgo : MayGoTo s target) (hp : plan (tl s) v = branchPlan (tl s) (slot s) kind target pops) :
    exec i s = .next (branches s srcs kind target pops) := by
  rw [hi, runWord_next (hp.trans (branchPlan_of_mayGoTo hgo kind pops)) hr rfl (Bool.and_false _) rfl rfl]
  exact congrArg (fun r => Host.Outcome.next (done s srcs (some r) _ _)) (max_self _)

theorem brTarget_eq (pc : Nat) (disp : BitVec 24) :
    brTarget pc disp = (((pc : Int) + 8 * disp.toInt) % 2 ^ 18).toNat := rfl

/-- Settles O8: each word is runWord with the plan of a taken branch; CALL's differs by its link and by its frames. -/
theorem branchWordsTaken : Obligations.BranchWordsTaken := by
  unfold Obligations.BranchWordsTaken
  intro s d disp x rel
  refine ⟨does_of_plainWord (exec_nop s) _,
    fun hgo hr => branches_of (exec_br disp s) hr hgo rfl, fun v hr hgo => ⟨branches_of (exec_bri x s) hr hgo ?_,
    branches_of (exec_ret x s) hr hgo ?_⟩, fun hgo hr => ?_⟩
  · rw [← fld_zero]
    rfl
  · rw [← fld_zero]
    rfl
  · refine issues_of (p := { flow := .jump rel.toNat false
                             outs := [(.s d, 1)]
                             act := fun u => (u.branchEvent (slot s) 2 rel.toNat (wordAt s)).schedS (slot s) d (u.cyc + 1)
                               (w64 (wordAt s + 8))
                             retire := now s + 1 }) (exec_call d disp s) hr ?_ (max_eq_left (Nat.le_succ _))
    have hp : branchPlan (tl s) s.cur.slot 2 (brTarget ((tl s).slot s.cur.slot).wordPc disp) false = _ :=
      branchPlan_of_mayGoTo hgo 2 false
    dsimp only
    rw [hp]
    rfl

/-- Settles O9: a target that is no multiple of 8 has the plan of ALIGN, and one in the resident area that of ILL. -/
theorem branchWordsTrap : Obligations.BranchWordsTrap := by
  unfold Obligations.BranchWordsTrap
  intro s d disp x hm rel enter reg
  have hreg (i : Instr) (kind : Nat) (hi : exec i s = runWord s { srcs := [x] } fun t v =>
      branchPlan t s.cur.slot kind (fld (nth v 0) 0 18) true) : reg i := by
    refine ⟨traps_of hm hi (fun v hv => ?_) (by decide) (by decide), traps_of hm hi (fun v hv => ?_) (by decide) (by decide)⟩
    · rw [fld_zero, branchPlan_align _ _ _ _ (by unfold a at hv; omega)]
      rfl
    · rw [fld_zero]
      exact congrArg Plan.trap (branchPlan_resident hm kind true (by omega) hv.2)
  refine ⟨hreg _ 1 (exec_bri x s), hreg _ 3 (exec_ret x s), fun halign hres => ⟨?_, ?_⟩⟩
  · exact traps_of hm (exec_br disp s) (fun v _ => congrArg Plan.trap (branchPlan_resident hm 0 true halign hres)) (by decide)
      (by decide)
  · exact traps_of hm (exec_call d disp s) (fun v _ => congrArg Plan.trap (branchPlan_resident hm 2 false halign hres))
      (by decide) (by decide)

theorem prefixAt_eq_false {t : Tile} {a : Nat} (hsm : fld (t.iword a) 30 10 ≠ 0x0BE) (hk : fld (t.iword a) 30 10 ≠ 0x0BF) :
    t.prefixAt a = false := by
  simp [Tile.prefixAt, hsm, hk]

/-- A PFX word that is the first of its kind in the unit is noted, and nothing issues (03 R48). -/
theorem readPrefix_first {s : State} {twice : Bool} {f : Prefixes → Prefixes} (h : twice = false) :
    readPrefix s twice f = .next (s.setTile s.cur.tile ((tl s).setSlot (slot s) { (tl s).slot (slot s) with
      pre := f { ((tl s).slot (slot s)).pre with words := ((tl s).slot (slot s)).pre.words + 1 } })) := by
  subst h
  rfl

/-- Settles O10: LOOP's checks pass by the hypotheses, and each of the other words has one plan. -/
theorem loopTaskendAndPrefixes : Obligations.LoopTaskendAndPrefixes := by
  unfold Obligations.LoopTaskendAndPrefixes
  intro s x endw kk m1 m2 m3 t sl stop
  refine ⟨fun v hr hh hstub hstop hsm hk => ?_, fun hr hh => ?_, fun hr hh => ?_, fun hpre => ?_, fun hpre => ?_⟩
  · have hbad : ¬ (t.inHandler (slot s) || sl.stub) = true := by simp [hh, hstub]
    have hpfx : ¬ t.prefixAt stop = true := by simp [prefixAt_eq_false hsm hk]
    refine ⟨fun hn => ?_, fun hn hlen => ?_⟩
    · exact issues_of (p := { flow := .jump (stop + 8) false, retire := now s }) (exec_loop x endw s) hr
        ((if_neg hbad).trans <| (if_neg (Nat.not_le.2 hstop)).trans <| (if_neg hpfx).trans <|
          if_pos ((fld_zero _ _).trans hn)) (max_self _)
    · refine issues_of (p := { flow := .open_ stop ((a v).toNat % 2 ^ 32), retire := now s }) (exec_loop x endw s) hr
        ((if_neg hbad).trans <| (if_neg (Nat.not_le.2 hstop)).trans <| (if_neg hpfx).trans <|
          (if_neg fun h => hn ((fld_zero _ _).symm.trans h)).trans <| (if_neg (Nat.not_le.2 hlen)).trans ?_) (max_self _)
      rw [fld_zero]
      rfl
  · have hh' : (tl s).inHandler s.cur.slot = false := hh
    refine issues_of (p := { flow := .stay, act := _, retire := now s }) (exec_taskend s) hr ?_ (max_self _)
    simp only [hh', Bool.false_eq_true, if_false]
    rfl
  · have hh' : (tl s).inHandler s.cur.slot = true := hh
    refine issues_of (p := { flow := .stay, act := _, retire := now s }) (exec_taskend s) hr ?_ (max_self _)
    simp only [hh', if_true]
    rfl
  · exact (exec_pfxK kk s).trans <| readPrefix_first <| Option.isSome_eq_false_iff.2 <| Option.isNone_iff_eq_none.2 hpre
  · exact (exec_pfxSm m1 m2 m3 s).trans <| readPrefix_first <| Option.isSome_eq_false_iff.2 <| Option.isNone_iff_eq_none.2 hpre

/-! ### ERET (05 R117, 03 R60) -/

/-- What an issuing word's token and LQ entries change of its tile. -/
theorem issue_eq (t : Tile) (k : Slot) (tok : Tok) (r : Option Nat) (n : Nat) :
    ∃ toks tpush lq, (t.takeToken k tok r).popLq n = { t with toks := toks, tpush := tpush, lq := lq } := by
  unfold Tile.takeToken
  cases popFifo k tok <;> cases pushFifo k tok <;> exact ⟨_, _, _, rfl⟩

/-- What resuming slots leaves of a tile: the place, the registers and the guards of every slot, and what is none of the
slots'. -/
structure Resumed (t u : Tile) : Prop where
  pcs : ∀ j, (u.slot j).pc = (t.slot j).pc
  regs : ∀ j, (u.slot j).s = (t.slot j).s ∧ (u.slot j).g = (t.slot j).g
  bank : u.hs = t.hs ∧ u.hg = t.hg
  mems : u.spad = t.spad ∧ u.istore = t.istore
  rest : u.inh = t.inh ∧ u.flags = t.flags ∧ u.trapc = t.trapc ∧ u.trappc = t.trappc ∧ u.trapv = t.trapv

theorem resumed_resumeSlot (t : Tile) (k : Slot) (e c : Nat) : Resumed t (t.resumeSlot k e c) := by
  have hslot (j : Slot) : ((t.resumeSlot k e c).slot j).pc = (t.slot j).pc ∧ ((t.resumeSlot k e c).slot j).s = (t.slot j).s ∧
      ((t.resumeSlot k e c).slot j).g = (t.slot j).g := by
    rcases eq_or_ne j k with rfl | hj
    · simp [Tile.resumeSlot]
    · simp [Tile.resumeSlot, Tile.slot_setSlot_ne t k j _ hj]
  exact ⟨fun j => (hslot j).1, fun j => (hslot j).2, by simp [Tile.resumeSlot], by simp [Tile.resumeSlot],
    by simp [Tile.resumeSlot]⟩

theorem resumed_foldl (l : List Slot) (t : Tile) (e c : Nat) : Resumed t (l.foldl (fun t k => t.resumeSlot k e c) t) := by
  induction l generalizing t with
  | nil => exact ⟨fun _ => rfl, fun _ => ⟨rfl, rfl⟩, ⟨rfl, rfl⟩, ⟨rfl, rfl⟩, ⟨rfl, rfl, rfl, rfl, rfl⟩⟩
  | cons k l ih =>
    obtain ⟨hpc, hregs, hbank, hmems, hrest⟩ := ih (t.resumeSlot k e c)
    obtain ⟨hpc', hregs', hbank', hmems', hrest'⟩ := resumed_resumeSlot t k e c
    exact ⟨fun j => (hpc j).trans (hpc' j), fun j => ⟨(hregs j).1.trans (hregs' j).1, (hregs j).2.trans (hregs' j).2⟩,
      by simpa [hbank'] using hbank, by simpa [hmems'] using hmems, by simpa [hrest'] using hrest⟩

/-- The tile with C's task stream taken up again, the handler left. -/
def streamTaken (t : Tile) : Tile :=
  let u := match t.heldC with
    | some h => { t with sc := { t.sc with
        pc := h.pc, pre := .none, base := h.base, due := h.due, stall := h.stall, joined := h.joined, mark := h.mark } }
    | none => t
  { u with inh := false, hEnded := false }

/-- The trapping slot's place as the handler is left at cycle e. -/
def trappedAt (pc : BitVec 18) (e : Nat) (x : SlotSt) : SlotSt :=
  { x with pc := pc, pre := .none, due := some (e + 3), stall := none, joined := false }

/-- The tile before the handler is forgotten: C's stream taken up, and every slot resumed. -/
def resumedAt (t : Tile) (e : Nat) : Tile := allSlots.foldl (fun u k => u.resumeSlot k e (t.trapT.getD e)) (streamTaken t)

theorem unwind_eq (t : Tile) (e : Nat) : t.unwind e =
    { (resumedAt t e).modSlot (slotOf (fld t.trapc 8 2)) (trappedAt (BitVec.ofNat 18 (fld (resumedAt t e).trappc 0 18)) e) with
      trapT := none, heldC := none } := rfl

theorem slot_forget (t : Tile) (x y) (j : Slot) : ({ t with trapT := x, heldC := y } : Tile).slot j = t.slot j := by
  cases j <;> rfl

theorem streamTaken_slot (t : Tile) (j : Slot) : ((streamTaken t).slot j).s = (t.slot j).s ∧
    ((streamTaken t).slot j).g = (t.slot j).g ∧ (j ≠ .c → (streamTaken t).slot j = t.slot j) := by
  unfold streamTaken
  cases t.heldC <;> cases j <;> simp [Tile.slot]

theorem streamTaken_rest (t : Tile) : (streamTaken t).inh = false ∧ (streamTaken t).hs = t.hs ∧ (streamTaken t).hg = t.hg ∧
    (streamTaken t).spad = t.spad ∧ (streamTaken t).istore = t.istore ∧ (streamTaken t).flags = t.flags ∧
    (streamTaken t).trapc = t.trapc ∧ (streamTaken t).trappc = t.trappc ∧ (streamTaken t).trapv = t.trapv := by
  unfold streamTaken
  cases t.heldC <;> exact ⟨rfl, rfl, rfl, rfl, rfl, rfl, rfl, rfl, rfl⟩

/-- Leaving the handler: the trapping slot goes back to TRAPPC, eligible at e + 3, C's task stream is taken up, the others stay;
registers, trap record, flags and memories are kept. -/
theorem unwind_spec (t : Tile) (e : Nat) :
    let k := slotOf (fld t.trapc 8 2)
    let u := t.unwind e
    u.inh = false ∧ u.trapT = none ∧ u.heldC = none ∧
    (u.slot k).pc = BitVec.ofNat 18 (fld t.trappc 0 18) ∧ (u.slot k).due = some (e + 3) ∧
    (∀ h, t.heldC = some h → k ≠ .c → u.sc.pc = h.pc) ∧
    (∀ j, j ≠ .c → j ≠ k → (u.slot j).pc = (t.slot j).pc) ∧
    (∀ j, (u.slot j).s = (t.slot j).s ∧ (u.slot j).g = (t.slot j).g) ∧
    u.hs = t.hs ∧ u.hg = t.hg ∧ u.spad = t.spad ∧ u.istore = t.istore ∧ u.flags = t.flags ∧ u.trapc = t.trapc ∧
    u.trappc = t.trappc ∧ u.trapv = t.trapv := by
  intro k u
  obtain ⟨hpc, hregs, ⟨hhs, hhg⟩, ⟨hspad, histore⟩, hinh, hflags, htrapc, htrappc, htrapv⟩ :
    Resumed (streamTaken t) (resumedAt t e) := resumed_foldl ..
  obtain ⟨sinh, shs, shg, sspad, sistore, sflags, strapc, strappc, strapv⟩ := streamTaken_rest t
  have hpc' : fld (resumedAt t e).trappc 0 18 = fld t.trappc 0 18 := by rw [htrappc, strappc]
  have hu : u = _ := unwind_eq t e
  have hslot (j : Slot) : u.slot j = if j = k then trappedAt (BitVec.ofNat 18 (fld t.trappc 0 18)) e ((resumedAt t e).slot k)
      else (resumedAt t e).slot j := by
    rw [hu, slot_forget, Tile.slot_modSlot, hpc']
  rw [hpc'] at hu
  refine ⟨?_, by rw [hu], by rw [hu], ?_, ?_, ?_, ?_, ?_, ?_, ?_, ?_, ?_, ?_, ?_, ?_, ?_⟩
  · simp [hu, Tile.modSlot, hinh, sinh]
  · rw [hslot, if_pos rfl]
    rfl
  · rw [hslot, if_pos rfl]
    rfl
  · intro h hh hk
    have hc : u.slot .c = (resumedAt t e).slot .c := by rw [hslot, if_neg (Ne.symm hk)]
    change (u.slot .c).pc = h.pc
    rw [hc, hpc]
    simp [streamTaken, hh, Tile.slot]
  · intro j hj hjk
    rw [hslot, if_neg hjk, hpc, (streamTaken_slot t j).2.2 hj]
  · intro j
    obtain ⟨hs, hg, -⟩ := streamTaken_slot t j
    rw [← hs, ← hg, ← (hregs j).1, ← (hregs j).2, hslot]
    split
    · subst j
      exact ⟨rfl, rfl⟩
    · exact ⟨rfl, rfl⟩
  · simp [hu, Tile.modSlot, hhs, shs]
  · simp [hu, Tile.modSlot, hhg, shg]
  · simp [hu, Tile.modSlot, hspad, sspad]
  · simp [hu, Tile.modSlot, histore, sistore]
  · simp [hu, Tile.modSlot, hflags, sflags]
  · simp [hu, Tile.modSlot, htrapc, strapc]
  · simp [hu, Tile.modSlot, htrappc, strappc]
  · simp [hu, Tile.modSlot, htrapv, strapv]

/-- What ERET does after it has left the handler (the event, the retry of refused entries, the word counted) moves no slot and
changes nothing of the trap record, the bank, the flags and the memories. -/
theorem eret_tail (w : Tile) (slot type addr info code n m : Nat) :
    let u := ((w.event slot type addr info).retryFaults).count code n m
    (∀ j, u.slot j = w.slot j) ∧ u.inh = w.inh ∧ u.trapT = w.trapT ∧ u.heldC = w.heldC ∧ u.hs = w.hs ∧ u.hg = w.hg ∧
      u.spad = w.spad ∧ u.istore = w.istore ∧ u.flags = w.flags ∧ u.trapc = w.trapc ∧ u.trappc = w.trappc ∧
      u.trapv = w.trapv :=
  ⟨fun j => by cases j <;> rfl, rfl, rfl, rfl, rfl, rfl, rfl, rfl, rfl, rfl, rfl, rfl⟩

/-- Settles O13: with INH = 1 ERET's effect is unwind, and what follows it moves no slot; with INH = 0 its plan is ILL. -/
theorem eretReturns : Obligations.EretReturns := by
  unfold Obligations.EretReturns
  intro s
  refine ⟨fun hr hinh => ?_, fun hm w hw hr => ?_⟩
  · refine ⟨_, issues_of (p := { flow := .stay, act := fun u => (u.returnTrap u.cyc).retryFaults, retire := now s })
      (exec_eret s) hr (if_pos hinh) (max_self _), ?_, fun n hn => State.tile_setTile_ne _ _ _ _ hn, rfl⟩
    obtain ⟨toks, tpush, lq, hissue⟩ := issue_eq (tl s) (slot s) s.cur.ctl.tok (some (now s)) (pops [])
    intro t u k
    obtain ⟨hinh, htrapT, hheld, hpc, hdue, hstream, hothers, hregs, hrest⟩ :=
      unwind_spec { t with toks := toks, tpush := tpush, lq := lq } t.cyc
    have hu : u = (((({ t with toks := toks, tpush := tpush, lq := lq } : Tile).unwind t.cyc).event 0 0x02
        (fld t.trappc 0 18) 0).retryFaults).count 2 (Slot.num (slot s)) 1 := by
      change (done s _ _ _ _).tile _ = _
      unfold done
      rw [State.tile_setTile, hissue]
      rfl
    have hbase (j : Slot) : ({ t with toks := toks, tpush := tpush, lq := lq } : Tile).slot j = t.slot j := by cases j <;> rfl
    simp only [hbase] at hothers hregs
    generalize ({ t with toks := toks, tpush := tpush, lq := lq } : Tile).unwind t.cyc = w at *
    obtain ⟨hslot, einh, etrapT, eheld, ehs, ehg, espad, eistore, eflags, etrapc, etrappc, etrapv⟩ :=
      eret_tail w 0 0x02 (fld t.trappc 0 18) 0 2 (Slot.num (slot s)) 1
    rw [← hu] at hslot einh etrapT eheld ehs ehg espad eistore eflags etrapc etrappc etrapv
    obtain ⟨hhs, hhg, hspad, histore, hflags, htrapc, htrappc, htrapv⟩ := hrest
    refine ⟨einh.trans hinh, etrapT.trans htrapT, eheld.trans hheld, (congrArg SlotSt.pc (hslot k)).trans hpc,
      (congrArg SlotSt.due (hslot k)).trans hdue, fun h hh hk => (congrArg SlotSt.pc (hslot .c)).trans (hstream h hh hk),
      fun j hj hjk => (congrArg SlotSt.pc (hslot j)).trans (hothers j hj hjk), fun j => ?_, ehs.trans hhs, ehg.trans hhg,
      espad.trans hspad, eistore.trans histore, eflags.trans hflags, etrapc.trans htrapc, etrappc.trans htrappc,
      etrapv.trans htrapv⟩
    rw [hslot]
    exact hregs j
  · obtain ⟨r, hex, htile, -⟩ := ills_of (ok := fun _ => True) (exec_eret s)
      (fun v _ => congrArg Plan.trap (if_neg (Bool.eq_false_iff.1 hm.2.1))) hm [] hr trivial
    exact ⟨r, hex, hw ▸ htile⟩

end Sys2Proof.Laws
end

section

/-! # Region words start -/

namespace Sys2Proof.Machine

theorem VSpec.le_ends (v : VSpec) (iss : Nat) : iss ≤ v.ends iss := by
  unfold VSpec.ends
  split <;> omega

/-- The plan of a region word that meets none of its checks and finds its pipeline free. -/
theorem VSpec.plan_of_ok {x : VSpec} {s : State} {t : Tile} (hbad : x.bad = false) (hlack : x.lacking s = false)
    (hregs : checkRegions x.regs (if x.n = 0 then [] else x.tabs) = none) (hmore : x.more = none)
    (hfree : x.n = 0 ∨ t.vFree ≤ t.cyc) : x.plan s t =
      { early := x.early t, outs := x.outs, act := fun u => u.startJob (x.job u), retire := x.ends t.cyc } := by
  have hwait : (if x.n ≠ 0 ∧ t.cyc < t.vFree then some Wait.busy else none) = none := if_neg (by omega)
  simp [VSpec.plan, hbad, hlack, hregs, hmore, hwait]

end Sys2Proof.Machine

namespace Sys2Proof.Laws
open Sys2Proof.Machine Sys2Proof.Claim

/-- A word whose plan is that of a region word starts where its checks pass. -/
theorem starts_of {s : State} {i : Instr} {srcs : List Src} {w : Tile → List W64 → VSpec} {w' : List W64 → VSpec}
    (hi : exec i s = runWord s { srcs := srcs } fun t v => (w t v).plan s t) (hw : ∀ v, w (tl s) v = w' v) :
    Starts s i srcs w' := by
  intro v hr hbad hlack hregs hmore hearly hfree
  have hp := VSpec.plan_of_ok hbad hlack hregs hmore hfree
  rw [hi, runWord_next ((congrArg (fun x => x.plan s (tl s)) (hw v)).trans hp) hr rfl hearly rfl rfl]
  exact congrArg (fun r => Host.Outcome.next (done s srcs (some r) _ _)) (max_eq_left (VSpec.le_ends _ _))

theorem starts_of_elemWord {s : State} {i : Instr} {op : VOp} {md : Mode} {lat : Nat} {rule : VRule} {real moves : Bool}
    {d : Fin 32} {l : List (Fin 32)} (hi : exec i s = elemWord s op md lat rule real moves d l) :
    Starts s i (.s d :: l.map Src.s) fun _ => elemSpec (tl s) s.cur op md lat rule real moves d l :=
  starts_of hi fun _ => rfl

theorem starts_of_reduceWord {s : State} {i : Instr} {op : VOp} {md : Mode} {lat : Nat} {d x : Fin 32} {y : Option (Fin 32)}
    (hi : exec i s = reduceWord s op md lat d x y) :
    Starts s i ([.s d, .s x] ++ (y.map Src.s).toList) fun _ => reduceSpec (tl s) s.cur op md lat d x y :=
  starts_of hi fun _ => rfl

theorem starts_of_fillWord {s : State} {i : Instr} {lat : Nat} {d : Fin 32} {l : List Src} {op : List W64 → VOp}
    (hi : exec i s = fillWord s lat d l op) : Starts s i (.s d :: l) fun v => fillSpec (tl s) lat d (op (v.drop 1)) :=
  starts_of hi fun _ => rfl

/-- Settles O17: each word is elemWord with its operation, its latency and its rule. -/
theorem elementwiseWordsStart : Obligations.ElementwiseWordsStart := by
  unfold Obligations.ElementwiseWordsStart
  intro s d x y z md rnd
  exact ⟨starts_of_elemWord (exec_vadd d x y md s), starts_of_elemWord (exec_vsub d x y md s),
    starts_of_elemWord (exec_vmul d x y md s), starts_of_elemWord (exec_vfma d x y z md s),
    starts_of_elemWord (exec_vfms d x y z md s), starts_of_elemWord (exec_vfnma d x y z md s),
    starts_of_elemWord (exec_vmin d x y md s), starts_of_elemWord (exec_vmax d x y md s),
    starts_of_elemWord (exec_vabs d x md s), starts_of_elemWord (exec_vneg d x md s),
    starts_of_elemWord (exec_vand d x y s), starts_of_elemWord (exec_vor d x y s),
    starts_of_elemWord (exec_vxor d x y s), starts_of_elemWord (exec_vshl d x y s),
    starts_of_elemWord (exec_vshr d x y s), starts_of_elemWord (exec_vsra d x y s),
    starts_of_elemWord (exec_vcmpEq d x y s), starts_of_elemWord (exec_vcmpNe d x y s),
    starts_of_elemWord (exec_vcmpLt d x y s), starts_of_elemWord (exec_vcmpLts d x y s),
    starts_of_elemWord (exec_vcmpLe d x y s), starts_of_elemWord (exec_vcmpLes d x y s),
    starts_of_elemWord (exec_vsel d x y z s), starts_of_elemWord (exec_vcvt d x md s),
    starts_of_elemWord (exec_vrcpe d x s), starts_of_elemWord (exec_vrsqe d x s),
    starts_of_elemWord (exec_vrcps d x y rnd s), starts_of_elemWord (exec_vrsqs d x y rnd s),
    starts_of_elemWord (exec_vexp2e d x s), starts_of_elemWord (exec_vlog2e d x s),
    starts_of_elemWord (exec_vcopy d x s)⟩

/-- Settles O18: the reductions and fills are one word each by their operation, and the others have a specification of their own. -/
theorem otherRegionWordsStart : Obligations.OtherRegionWordsStart := by
  unfold Obligations.OtherRegionWordsStart
  intro s d x y z o md rnd p q
  have hdrop (v : List W64) (n : Nat) : nth (v.drop 1) n = nth v (n + 1) := by
    simp [nth, List.getD_eq_getElem?_getD]
  refine ⟨starts_of_reduceWord (exec_vsum d x md s), starts_of_reduceWord (exec_vdot d x y md s),
    starts_of_reduceWord (exec_vmaxr d x s), starts_of_reduceWord (exec_vminr d x s), starts_of (exec_vqnt d x rnd s) fun _ => rfl,
    starts_of (exec_vdqnt d x y md s) fun _ => rfl, ?_, ?_,
    starts_of (w := fun t _ => partSpec t [d, x, y, z] o) (exec_vpart d x y z o s) fun _ => rfl,
    starts_of (exec_vgath d x y s) fun _ => rfl, starts_of (exec_vscat d x y s) fun _ => rfl⟩
  · simpa only [hdrop] using starts_of_fillWord (exec_viota d p q s)
  · simpa only [hdrop] using starts_of_fillWord (exec_vfill d p s)

end Sys2Proof.Laws
end
section

/-! # System registers, TRAP, HALT and ICLR -/

namespace Sys2Proof.Machine

theorem Tile.writeSys_bscl (t : Tile) (handler : Bool) (n : Fin 12) (v : W64) :
    t.writeSys handler (32 + n.val) v = { t with bscl := t.bscl.set n (v &&& 0x33FFFFF#64) } := by
  have hlow : ¬ (16 ≤ 32 + n.val ∧ 32 + n.val < 28) := by omega
  have hrange : 32 ≤ 32 + n.val ∧ 32 + n.val < 44 := by omega
  unfold Tile.writeSys
  split
  case h_6 => simp only [if_neg hlow, if_pos hrange, Nat.add_sub_cancel_left, Fin.ofNat_val_eq_self]
  all_goals omega

theorem Tile.writeSys_cntsel (t : Tile) (handler : Bool) (n : Fin 8) (v : W64) :
    t.writeSys handler (48 + n.val) v = { t with cntsel := t.cntsel.set n (v &&& 0xFFF1#64) } := by
  have hfmt : ¬ (16 ≤ 48 + n.val ∧ 48 + n.val < 28) := by omega
  have hscl : ¬ (32 ≤ 48 + n.val ∧ 48 + n.val < 44) := by omega
  have hrange : 48 ≤ 48 + n.val ∧ 48 + n.val < 56 := by omega
  unfold Tile.writeSys
  split
  case h_6 => simp only [if_neg hfmt, if_neg hscl, if_pos hrange, Nat.add_sub_cancel_left, Fin.ofNat_val_eq_self]
  all_goals omega

theorem Tile.writeSys_cnt (t : Tile) (handler : Bool) (n : Fin 8) (v : W64) :
    t.writeSys handler (56 + n.val) v = { t with cnt := t.cnt.set n (v.setWidth 48) } := by
  have hfmt : ¬ (16 ≤ 56 + n.val ∧ 56 + n.val < 28) := by omega
  have hscl : ¬ (32 ≤ 56 + n.val ∧ 56 + n.val < 44) := by omega
  have hsel : ¬ (48 ≤ 56 + n.val ∧ 56 + n.val < 56) := by omega
  have hrange : 56 ≤ 56 + n.val ∧ 56 + n.val < 64 := by omega
  unfold Tile.writeSys
  split
  case h_6 =>
    simp only [if_neg hfmt, if_neg hscl, if_neg hsel, if_pos hrange, Nat.add_sub_cancel_left, Fin.ofNat_val_eq_self]
  all_goals omega

/-- SRSEED holds the seed in its low half and the generator's state in its high half, which is never zero (04 R73). -/
theorem fld_seedReg (x : BitVec 32) : fld (seedReg x) 0 32 = x.toNat ∧
    fld (seedReg x) 32 32 = if x.toNat = 0 then 0x9E3779B9 else x.toNat := by
  have hx := x.isLt
  have hcat (y : BitVec 32) : (y ++ x).toNat = y.toNat * 2 ^ 32 + x.toNat := by
    rw [BitVec.toNat_append, Nat.shiftLeft_eq, Nat.mul_comm, ← Nat.two_pow_add_eq_or_of_lt hx]
  have hzero : x = 0 ↔ x.toNat = 0 := by simp [← BitVec.toNat_inj]
  have hdiv (y : BitVec 32) : (y.toNat * 2 ^ 32 + x.toNat) / 2 ^ 32 % 2 ^ 32 = y.toNat := by
    rw [Nat.add_comm, Nat.add_mul_div_right _ _ (by decide), Nat.div_eq_of_lt hx, Nat.zero_add, Nat.mod_eq_of_lt y.isLt]
  unfold seedReg fld
  rw [hcat, hdiv]
  refine ⟨?_, ?_⟩
  · omega
  · by_cases h : x = 0
    · rw [if_pos h, if_pos (hzero.1 h)]
      rfl
    · rw [if_neg h, if_neg fun h' => h (hzero.2 h')]

/-- The old words that a fetch may see are among those listed as old (05 R119). -/
theorem mem_of_mem_pickOld {s : State} {l : List (Nat × W64 × Nat)} {e : Nat × W64} (h : e ∈ (pickOld s l).1) :
    ∃ m, (e.1, e.2, m) ∈ l := by
  induction l generalizing s with
  | nil => cases h
  | cons p l ih =>
    obtain ⟨x, w, m⟩ := p
    unfold pickOld at h
    dsimp only at h
    split at h
    · rcases List.mem_cons.1 h with rfl | h
      · exact ⟨m, List.mem_cons_self⟩
      · obtain ⟨m, hm⟩ := ih h
        exact ⟨m, List.mem_cons_of_mem _ hm⟩
    · obtain ⟨m, hm⟩ := ih h
      exact ⟨m, List.mem_cons_of_mem _ hm⟩

end Sys2Proof.Machine

namespace Sys2Proof.Laws
open Sys2Proof.Machine Sys2Proof.Claim

/-- Settles O15: writeSys, register by register. -/
theorem systemRegisterWrites : Obligations.SystemRegisterWrites := by
  unfold Obligations.SystemRegisterWrites
  intro t h v
  have hseed : (v.setWidth 32).toNat = v.toNat % 2 ^ 32 := BitVec.toNat_setWidth ..
  refine ⟨rfl, rfl, ⟨rfl, rfl⟩, ⟨rfl, rfl⟩, ?_, fun n => ⟨?_, ?_⟩, fun n => ⟨?_, ?_⟩, ?_⟩
  · rw [← hseed]
    exact fld_seedReg _
  · rw [Tile.writeSys_bfmt, vector_get_set_same]
    exact BitVec.toNat_setWidth ..
  · rw [Tile.writeSys_bscl, vector_get_set_same]
  · rw [Tile.writeSys_cntsel, vector_get_set_same]
  · rw [Tile.writeSys_cnt, vector_get_set_same]
    exact BitVec.toNat_setWidth ..
  · intro j hj
    simp only [List.mem_cons, List.not_mem_nil, or_false] at hj
    rcases hj with rfl | rfl | rfl | rfl | rfl | rfl | rfl | rfl | rfl <;> rfl

/-- A word whose plan is a trap at its issue notes what it must and takes the trap. -/
theorem runWord_after {s : State} {srcs : List Src} {v : List W64} {plan : Tile → List W64 → Plan} {p : Plan} {r : TrapReq}
    (hp : plan (tl s) v = p) (h : Ready s srcs [] false p.outs v) (ha : p.after = some r) (ht : p.trap = none := by rfl)
    (he : p.early = false := by rfl) (hw : p.wait = none := by rfl) :
    runWord s { srcs := srcs } plan = .next ((s.setTile s.cur.tile (p.note (tl s))).takeTrap s.cur.tile s.cur.slot r.cause
      r.detail r.v (unitAt s)) := by
  obtain ⟨hpr, hm, hg, ⟨q, hq, hv⟩, hl, htok, _⟩ := h
  have hlate : (if bitAt (tl s).tcfg 0 = true then
      (tl s).lateCode (slot s) srcs ([] ++ ctlGuards s.cur.ctl) p.outs else none) = none := by
    split
    · exact hl ‹_›
    · rfl
  have hst : (tl s).stallOf s.cur (.ok q) (.ok []) p = none := by
    unfold Tile.stallOf
    unfold slot at htok
    simp only [htok, hw, Bool.not_true, Bool.false_eq_true, if_false, reduceCtorEq]
  unfold runWord
  unfold tl pops slot unitAt at *
  simp only [hq, hv, hp, hpr, ht, he, hlate, hst, queueTrap, hm, hg, ha, Bool.false_eq_true, if_false, if_true, Bool.not_true,
    Bool.and_false]
  rfl

/-- The state in which the word's tile has noted something that no trap asks about. -/
theorem mayTrap_setTile {s : State} (hm : MayTrap s) {t : Tile} (htrap : t.trapT = (tl s).trapT) (hcyc : t.cyc = (tl s).cyc)
    (hinh : t.inh = (tl s).inh) (hstub : (t.slot (slot s)).stub = ((tl s).slot (slot s)).stub) :
    MayTrap (s.setTile s.cur.tile t) := by
  obtain ⟨h1, h2, h3⟩ := hm
  have ht : tl (s.setTile s.cur.tile t) = t := State.tile_setTile _ _ _
  refine ⟨?_, ?_, ?_⟩
  · rw [now, ht, htrap, hcyc]
    exact h1
  · rw [ht, hinh]
    exact h2
  · rw [ht]
    exact hstub.trans h3

/-- The trap of a word whose tile has noted something. -/
theorem takeTrap_setTile_may {s : State} {t : Tile} (hm : MayTrap (s.setTile s.cur.tile t)) (cause : Cause) (detail : Nat)
    (v : W64) (pc : Nat) (hpipe : cause ≠ .pipe) (hpage : cause ≠ .page) :
    (s.setTile s.cur.tile t).takeTrap s.cur.tile s.cur.slot cause detail (some v) pc =
      (s.setTile s.cur.tile t).setTile s.cur.tile (t.enterTrap (slot s) cause detail v pc) := by
  have htl : tl (s.setTile s.cur.tile t) = t := State.tile_setTile _ _ _
  have h := takeTrap_may hm cause detail v pc hpipe hpage
  rwa [htl] at h

theorem takeTrap_setTile_free {s : State} {t : Tile} (hm : MayTrap (s.setTile s.cur.tile t)) (cause : Cause) (detail pc : Nat)
    (hpipe : cause ≠ .pipe) (hpage : cause ≠ .page) :
    ((s.setTile s.cur.tile t).takeTrap s.cur.tile s.cur.slot cause detail none pc).tile s.cur.tile =
      t.enterTrap (slot s) cause detail (Config.freeWord s.free) pc := by
  have htl : tl (s.setTile s.cur.tile t) = t := State.tile_setTile _ _ _
  have h := takeTrap_free hm cause detail pc hpipe hpage
  rw [htl] at h
  exact (congrArg (fun r : State => r.tile s.cur.tile) h).trans (State.tile_setTile _ _ _)

/-- The HALTE event of a HALT (05 R118). -/
def haltEvent (k : Slot) (b : Nat) (t : Tile) : Tile := t.event (Slot.num k) 0x04 (t.slot k).wordPc b

theorem exec_halt_runWord (s : State) : exec .halt s = runWord s {} fun t _ =>
    if s.debugged (tl s) then { act := fun u => (haltEvent (slot s) 1 u).atEnd .held, retire := t.cyc }
    else { after := some ⟨.debug, 0, none⟩, note := haltEvent (slot s) 0 } := rfl

/-- Settles O16: TRAP's and HALT's traps are taken as they issue, ICLR only notes its cycle, and dropOld and pickOld are filters
of the old words. -/
theorem trapHaltAndIclr : Obligations.TrapHaltAndIclr := by
  unfold Obligations.TrapHaltAndIclr
  intro s
  refine ⟨fun x hm v hr _ => ?trap, fun hdbg => ?held, fun hm hdbg hr => ?debug, does_of_plainWord (exec_iclr s) _,
    fun t i hi => ⟨fun hlt => ?keeps, fun hle e he => ?drops⟩, fun t ht => ?stays, fun u l e he => mem_of_mem_pickOld he,
    fun t pc => ⟨fun hnil => ?fetch, fun e he => ?fetchOld⟩⟩
  case trap =>
    have htake := takeTrap_setTile_may (mayTrap_setTile hm (t := tl s) rfl rfl rfl rfl) .user 0 (a v) (unitAt s) (by decide)
      (by decide)
    refine ⟨_, ((exec_trap x s).trans (runWord_after (r := ⟨.user, 0, some (a v)⟩) rfl hr rfl)).trans
      (congrArg Host.Outcome.next htake), State.tile_setTile _ _ _, fun n hn => ?_, rfl⟩
    rw [State.tile_setTile_ne _ _ _ _ hn, State.tile_setTile_ne _ _ _ _ hn]
  case held =>
    exact does_of (exec_halt_runWord s) fun _ _ => ⟨_, if_pos hdbg, rfl, rfl, Bool.and_false _, rfl, rfl, rfl, max_self _, rfl, rfl, rfl⟩
  case debug =>
    refine ⟨_, (exec_halt_runWord s).trans (runWord_after (if_neg (Bool.eq_false_iff.1 hdbg)) hr rfl), ?_⟩
    refine takeTrap_setTile_free (mayTrap_setTile hm (t := haltEvent (slot s) 0 (tl s)) rfl rfl rfl ?_) .debug 0 (unitAt s)
      (by decide) (by decide)
    cases slot s <;> rfl
  case keeps => exact List.mem_filter.2 ⟨hi, by simpa using hlt⟩
  case drops =>
    have hall := (List.mem_filter.1 he).2
    simpa using List.all_eq_true.1 hall i (List.mem_filter.2 ⟨hi, by simpa using hle⟩)
  case stays =>
    have hdue : t.iclrs.filter (fun i => i + 3 ≤ t.cyc) = [] :=
      List.filter_eq_nil_iff.2 fun i hi => by simpa using ht i hi
    simp [Tile.dropOld, hdue]
  case fetch => simp [Tile.fetch, hnil]
  case fetchOld => simp only [Tile.fetch, he]

end Sys2Proof.Laws
end
section

/-! # Words of slot A: entries, markers and fences -/

namespace Sys2Proof.Laws
open Sys2Proof.Machine Sys2Proof.Claim

/-- An access at an aligned address, or one that needs no alignment, places its entry where the queues have room. -/
theorem places_of_entryWord {s : State} {i : Instr} {o : LdSt} {w : Nat} {kind : QKind} {need : Nat} {inL inS ret : Bool}
    (hi : exec i s = entryWord s o w kind need inL inS ret) {ok : List W64 → Prop}
    (hok : ∀ v, ok v → w ≠ 0 → (ea o v).toNat % w = 0) : Places s i [o.a, o.b] ok kind (ea o) o.mf need inL inS ret := by
  intro hroom
  unfold entryWord at hi
  refine does_of hi fun v hv => ⟨_, if_neg fun h => h.2 (hok v hv h.1), rfl, rfl, Bool.and_false _, if_pos hroom, rfl, rfl, max_self _,
    rfl, rfl, rfl⟩

/-- A misaligned access raises ALIGN with its address. -/
theorem traps_of_entryWord {s : State} {i : Instr} {o : LdSt} {w : Nat} {kind : QKind} {need : Nat} {inL inS ret : Bool}
    (hm : MayTrap s) (hi : exec i s = entryWord s o w kind need inL inS ret) (hw : w ≠ 0) :
    Traps s i [o.a, o.b] (fun v => (ea o v).toNat % w ≠ 0) fun v =>
      (tl s).enterTrap (slot s) .align 0 (ea o v) (unitAt s) := by
  unfold entryWord at hi
  exact traps_of hm hi (fun v hv => congrArg Plan.trap (if_pos ⟨hw, hv⟩)) (by decide) (by decide)

theorem places_of_atomWord {s : State} {i : Instr} {o : Atom} {op need : Nat} {ret : Bool}
    (hi : exec i s = atomWord s o op need ret) :
    Places s i [o.a, o.b] (fun v => (eaAtom v).toNat % (if o.dbl then 8 else 4) = 0) (.atom op o.dbl ret) eaAtom o.mf need
      true true ret := by
  intro hroom
  unfold atomWord at hi
  refine does_of hi fun v hv => ⟨_, if_neg (not_not.2 hv), rfl, rfl, Bool.and_false _, if_pos hroom, rfl, rfl, max_self _,
    rfl, rfl, rfl⟩

theorem traps_of_atomWord {s : State} {i : Instr} {o : Atom} {op need : Nat} {ret : Bool} (hm : MayTrap s)
    (hi : exec i s = atomWord s o op need ret) :
    Traps s i [o.a, o.b] (fun v => (eaAtom v).toNat % (if o.dbl then 8 else 4) ≠ 0) fun v =>
      (tl s).enterTrap (slot s) .align 0 (eaAtom v) (unitAt s) := by
  unfold atomWord at hi
  exact traps_of hm hi (fun v hv => congrArg Plan.trap (if_pos hv)) (by decide) (by decide)

theorem places_of_markWord {s : State} {i : Instr} {m : Mark} (hi : exec i s = markWord s m) :
    Places s i [] (fun _ => True) (.mark m) (fun _ => 0) ⟨.norm, 0⟩ 0 true true false := by
  intro hroom
  unfold markWord at hi
  exact does_of hi fun _ _ => ⟨_, rfl, rfl, rfl, Bool.and_false _, if_pos hroom, rfl, rfl, max_self _, rfl, rfl, rfl⟩

/-- A FENCE notes its scope and the next entry's number, and sends its markers; its retirement is open. -/
theorem next_of_fenceWord {s : State} {i : Instr} {sc : Scope} (hi : exec i s = fenceWord s sc)
    (hr : Ready s [] [] false [] []) : exec i s = .next ((done s [] none fun u =>
      { u with fence := some ⟨sc, u.cyc, u.ids, []⟩, ids := u.ids + 1 }).sendMarkers s.cur.tile sc) := by
  unfold fenceWord at hi
  exact hi.trans (runWord_next rfl hr rfl (Bool.and_false _) rfl rfl)

/-- Settles O26: each load, store and PF is one entry by its width, its extension and its queues. -/
theorem loadsAndStoresPlaceEntries : Obligations.LoadsAndStoresPlaceEntries := by
  unfold Obligations.LoadsAndStoresPlaceEntries
  intro s o r al ld st
  exact ⟨places_of_entryWord (exec_ldB o s) fun _ h _ => h, places_of_entryWord (exec_ldH o s) fun _ h _ => h,
    places_of_entryWord (exec_ldW o s) fun _ h _ => h, places_of_entryWord (exec_ldD o s) fun _ h _ => h,
    places_of_entryWord (exec_ldsB o s) fun _ h _ => h, places_of_entryWord (exec_ldsH o s) fun _ h _ => h,
    places_of_entryWord (exec_ldsW o s) fun _ h _ => h, places_of_entryWord (exec_stB o s) fun _ h _ => h,
    places_of_entryWord (exec_stH o s) fun _ h _ => h, places_of_entryWord (exec_stW o s) fun _ h _ => h,
    places_of_entryWord (exec_stD o s) fun _ h _ => h,
    places_of_entryWord (exec_pf o s) fun _ _ h => absurd rfl h⟩

/-- Settles O27: each far atomic is one entry by its operation, its data and its form. -/
theorem farAtomicsPlaceEntries : Obligations.FarAtomicsPlaceEntries := by
  unfold Obligations.FarAtomicsPlaceEntries
  intro s o at_
  exact ⟨places_of_atomWord (exec_aadd o s), places_of_atomWord (exec_amin o s), places_of_atomWord (exec_amins o s),
    places_of_atomWord (exec_amax o s), places_of_atomWord (exec_amaxs o s), places_of_atomWord (exec_aand o s),
    places_of_atomWord (exec_aor o s), places_of_atomWord (exec_axor o s), places_of_atomWord (exec_aswp o s),
    places_of_atomWord (exec_acas o s), places_of_atomWord (exec_aaddF32 o s),
    places_of_atomWord (exec_aaddBf16 o s), places_of_atomWord (exec_aaddNr o s),
    places_of_atomWord (exec_aminNr o s), places_of_atomWord (exec_aminsNr o s),
    places_of_atomWord (exec_amaxNr o s), places_of_atomWord (exec_amaxsNr o s),
    places_of_atomWord (exec_aandNr o s), places_of_atomWord (exec_aorNr o s),
    places_of_atomWord (exec_axorNr o s), places_of_atomWord (exec_aswpNr o s),
    places_of_atomWord (exec_acasNr o s), places_of_atomWord (exec_aaddF32Nr o s),
    places_of_atomWord (exec_aaddBf16Nr o s)⟩

/-- Settles O28: the alignment is the first thing that an access's plan asks. -/
theorem misalignedAccessesTrap : Obligations.MisalignedAccessesTrap := by
  unfold Obligations.MisalignedAccessesTrap
  intro s o m hm tr
  exact ⟨traps_of_entryWord hm (exec_ldH o s) (by decide), traps_of_entryWord hm (exec_ldW o s) (by decide),
    traps_of_entryWord hm (exec_ldD o s) (by decide), traps_of_entryWord hm (exec_ldsH o s) (by decide),
    traps_of_entryWord hm (exec_ldsW o s) (by decide), traps_of_entryWord hm (exec_stH o s) (by decide),
    traps_of_entryWord hm (exec_stW o s) (by decide), traps_of_entryWord hm (exec_stD o s) (by decide),
    traps_of_atomWord hm (exec_aadd m s), traps_of_atomWord hm (exec_amin m s),
    traps_of_atomWord hm (exec_amins m s), traps_of_atomWord hm (exec_amax m s),
    traps_of_atomWord hm (exec_amaxs m s), traps_of_atomWord hm (exec_aand m s),
    traps_of_atomWord hm (exec_aor m s), traps_of_atomWord hm (exec_axor m s),
    traps_of_atomWord hm (exec_aswp m s), traps_of_atomWord hm (exec_acas m s),
    traps_of_atomWord hm (exec_aaddF32 m s), traps_of_atomWord hm (exec_aaddBf16 m s),
    traps_of_atomWord hm (exec_aaddNr m s), traps_of_atomWord hm (exec_aminNr m s),
    traps_of_atomWord hm (exec_aminsNr m s), traps_of_atomWord hm (exec_amaxNr m s),
    traps_of_atomWord hm (exec_amaxsNr m s), traps_of_atomWord hm (exec_aandNr m s),
    traps_of_atomWord hm (exec_aorNr m s), traps_of_atomWord hm (exec_axorNr m s),
    traps_of_atomWord hm (exec_aswpNr m s), traps_of_atomWord hm (exec_acasNr m s),
    traps_of_atomWord hm (exec_aaddF32Nr m s), traps_of_atomWord hm (exec_aaddBf16Nr m s)⟩

/-- Settles O30: each marker is one entry of both queues, and each FENCE one word by its scope. -/
theorem markersAndFencesIssue : Obligations.MarkersAndFencesIssue := by
  unfold Obligations.MarkersAndFencesIssue
  intro s mk fe
  exact ⟨places_of_markWord (exec_qmark s), places_of_markWord (exec_acqSlot s), places_of_markWord (exec_acqTile s),
    places_of_markWord (exec_acqDie s), places_of_markWord (exec_acqPkg s), places_of_markWord (exec_acqSys s),
    places_of_markWord (exec_relSlot s), places_of_markWord (exec_relTile s), places_of_markWord (exec_relDie s),
    places_of_markWord (exec_relPkg s), places_of_markWord (exec_relSys s), next_of_fenceWord (exec_fenceSlot s),
    next_of_fenceWord (exec_fenceTile s), next_of_fenceWord (exec_fenceDie s), next_of_fenceWord (exec_fencePkg s),
    next_of_fenceWord (exec_fenceSys s)⟩

/-! ### The frame of placing an entry -/

theorem kept_enq (t : Tile) (kind : QKind) (e : W64) (mf : MemF) (need : Nat) (inL inS ret : Bool) :
    Kept t (t.enq kind e mf need inL inS ret) := by
  refine ⟨fun k => ?_, fun k => ?_, fun k => ?_, rfl, ⟨rfl, rfl⟩, rfl, rfl, ⟨rfl, rfl⟩, ⟨rfl, rfl, rfl, rfl⟩,
    ⟨rfl, rfl, rfl, rfl, rfl⟩, ⟨rfl, rfl⟩, ⟨rfl, rfl⟩, rfl, ⟨rfl, rfl, rfl, rfl, rfl, rfl⟩, rfl⟩ <;> cases k <;> rfl

/-- Settles O29: enq appends to the queues, and what surrounds it in done touches none of them but LQ, whose entries are
popped. -/
theorem memoryWordFrame : Obligations.MemoryWordFrame := by
  unfold Obligations.MemoryWordFrame
  intro s srcs kind e mf need inL inS ret r t u
  obtain ⟨hpend, hids, hents, hlaq, hsaq, hlq⟩ := takeToken_queues (tl s) (slot s) s.cur.ctl.tok (some (now s))
  generalize hw : (tl s).takeToken (slot s) s.cur.ctl.tok (some (now s)) = w at *
  obtain ⟨apend, aids, aents, alaq, asaq, alq⟩ :=
    advance_queues ((w.popLq (pops srcs)).enq kind e mf need inL inS ret) (slot s)
  have hu : u = (((w.popLq (pops srcs)).enq kind e mf need inL inS ret).advance (slot s) .seq).count 2 (Slot.num (slot s)) 1 := by
    change (done s _ _ _).tile _ = _
    unfold done
    rw [State.tile_setTile, hw]
  refine ⟨frame_done fun _ => kept_enq _ _ _ _ _ _ _ _, ?_, ?_, ?_, ?_, ?_, ?_⟩ <;> rw [hu]
  · rw [Tile.count_pend, apend]
    exact hpend
  · rw [Tile.count_ids, aids]
    exact congrArg (· + 1) hids
  · rw [Tile.count_ents, aents]
    simp [Tile.enq, hents, hids, t]
  · rw [Tile.count_laq, alaq]
    cases inL <;> simp [Tile.enq, hlaq, hids, t]
  · rw [Tile.count_saq, asaq]
    cases inS <;> simp [Tile.enq, hsaq, hids, t]
  · rw [Tile.count_lq, alq]
    cases ret <;> simp [Tile.enq, Tile.popLq, hlq, hids, t]

end Sys2Proof.Laws
end

section
namespace Sys2Proof.Laws
open Sys2Proof.Machine Sys2Proof.Claim

/-! ### Engine commands (06 R141, 21 R403) -/

/-- An engine command that finds the engine free, is not held back, and passes its checks holds the engine as it issues. -/
theorem engineWord_next {s : State} {srcs : List Src} {check : Tile → List W64 → Option TrapReq} {kind : EngKind}
    {retire : Tile → List W64 → Nat} {act : List W64 → Tile → Tile} {v : List W64} (hr : Ready s srcs [] false [] v)
    (hb : (tl s).eng.busy = false) (hs : (tl s).shaped = false) (hc : check (tl s) v = none) :
    engineWord s srcs check kind retire act =
      .next (done s srcs none fun u => act v (u.beginCmd kind (retire (tl s) v))) := by
  refine runWord_next (p := _) rfl hr rfl (Bool.and_false _) ?_ hc
  rw [hb]
  exact if_neg (by rw [hs]; exact Bool.false_ne_true)

theorem begins_of {s : State} {i : Instr} {srcs : List Src} {check : Tile → List W64 → Option TrapReq} {kind : EngKind}
    {retire : Tile → List W64 → Nat} {act : List W64 → Tile → Tile} {check' : List W64 → Option TrapReq}
    (hi : exec i s = engineWord s srcs check kind retire act) (hc : ∀ v, check' v = none → check (tl s) v = none) :
    Begins s i srcs kind check' (retire (tl s)) act :=
  fun v hr hb hs h => hi.trans (engineWord_next hr hb hs (hc v h))

/-- An engine command waits while the engine is busy. -/
theorem stalls_of_engineWord {s : State} {i : Instr} {srcs : List Src} {check : Tile → List W64 → Option TrapReq}
    {kind : EngKind} {retire : Tile → List W64 → Nat} {act : List W64 → Tile → Tile}
    (hi : exec i s = engineWord s srcs check kind retire act) (hb : (tl s).eng.busy = true) :
    Stalls s i srcs [] .busy fun _ => True := by
  unfold engineWord at hi
  refine stalls_of (by decide) hi fun v _ => ⟨_, rfl, rfl, rfl, Bool.and_false _, ?_, ?_⟩
  · rw [hb]
    exact if_pos (Bool.or_true _)
  · rw [hb]
    exact if_neg (by rw [Bool.not_true, Bool.and_false]; exact Bool.false_ne_true)

/-- A cycle in which power shaping alone holds an engine command back is counted. -/
theorem engineWord_shaped {s : State} {srcs : List Src} {check : Tile → List W64 → Option TrapReq}
    {kind : EngKind} {retire : Tile → List W64 → Nat} {act : List W64 → Tile → Tile} {v : List W64}
    (hr : Ready s srcs [] false [] v) (hb : (tl s).eng.busy = false) (hs : (tl s).shaped = true) :
    engineWord s srcs check kind retire act =
      .next (s.setTile s.cur.tile (((tl s).count 13 (Slot.num (slot s)) 1).stallOn (slot s) .busy)) := by
  unfold engineWord
  rw [runWord_wait (p := _) rfl hr rfl (Bool.and_false _) (if_pos (by rw [hs]; exact Bool.true_or _)) (by decide)]
  have hj : (Tile.heldBack s.cur.slot (tl s).eng.busy (tl s)) = (tl s).count 13 (Slot.num (slot s)) 1 :=
    if_pos (by rw [hs, hb]; rfl)
  rw [← hj]

/-- Power shaping that the package does not do holds nothing back. -/
theorem State.shape_of_not_shapes {s : State} (h : s.shapes = false) (m : Nat) :
    ((s.shape m).tile m).shaped = false ∧ (s.shape m).free = s.free := by
  unfold State.shape
  rw [if_neg (by rw [h]; exact Bool.false_ne_true)]
  unfold State.modTile
  exact ⟨by rw [State.tile_setTile], rfl⟩

/-- Settles O22: MGO is an engine command, which starts the nest of its shadows. -/
theorem mgoStartsTheNest : Obligations.MgoStartsTheNest := by
  unfold Obligations.MgoStartsTheNest
  intro s x t req n
  refine ⟨?_, fun h => stalls_of_engineWord (exec_mgo x s) h, fun hb hs v hr => ?_, fun h m => State.shape_of_not_shapes h m⟩
  · exact begins_of (exec_mgo x s) fun v h => h
  · exact (exec_mgo x s).trans (engineWord_shaped hr hb hs)

/-! ### The matrix moves (06 R153 to R156) -/

theorem begins_loadWord {s : State} {i : Instr} {x y : Src} (r : Nat) (hi : exec i s = loadWord s r x y) :
    Begins s i [x, y] .other
      (fun v => ((tl s).dscTrap (s.offers loadFmt) ⟨a v, b v, 0⟩ fun _ => 96).or
        ((tl s).rowsEarly ((tl s).geo (tl s).eng.tags false ⟨a v, b v, 0⟩) 96))
      (fun v => (tl s).cyc + 2 + stepTime [((tl s).geo (tl s).eng.tags false ⟨a v, b v, 0⟩, 96)])
      fun v u =>
        let g := u.geo u.eng.tags false ⟨a v, b v, 0⟩
        let bytes := (List.range 32).flatMap fun i => readRange u.spad (g.row i 0).toNat 96
        let at_ := u.cyc + 2 + stepTime [(g, 96)]
        (u.sched .m at_ (.opr ((bytes.zipIdx (3072 * r)).map fun p => (p.2, p.1)))).sched .m at_ (.tag r g.fmt) := by
  dsimp only [loadWord] at hi
  intro v hr hb hs h
  rw [hi]
  exact engineWord_next hr hb hs h

/-- Nothing is early without PENDTRAP. -/
theorem rowsEarly_of_off {t : Tile} (h : bitAt t.tcfg 1 = false) (g : Geo) (n : Nat) : t.rowsEarly g n = none :=
  if_neg (by rw [h]; exact Bool.false_ne_true)

/-- Settles O23: each matrix move is an engine command. -/
theorem matrixMoveWords : Obligations.MatrixMoveWords := by
  unfold Obligations.MatrixMoveWords
  intro s reg acc zero fmt md x y z w q t dsc geo at_ check load
  refine ⟨?_, ?_, ?_, fun hm hl => ?_, ?_⟩
  · have h := begins_loadWord _ (exec_mlda reg x y s)
    exact h
  · have h := begins_loadWord _ (exec_mldb reg x y s)
    exact h
  · intro v hr hb hs h
    refine (exec_mdrain x y acc zero md s).trans ((engineWord_next hr hb hs h).trans ?_)
    refine congrArg Host.Outcome.next (congrArg (done s [x, y] none) (funext fun u => ?_))
    dsimp only
    rfl
  · intro v hr hb hs h
    refine (exec_mbya reg acc zero fmt md s).trans ((engineWord_next hr hb hs ?_).trans ?_)
    · exact if_neg (by rw [hm, hl]; exact Bool.false_ne_true)
    refine congrArg Host.Outcome.next (congrArg (done s [] none) (funext fun u => ?_))
    dsimp only
    rfl
  · intro v hr hb hs src dst ok hm hsrc hdst hbits hp htr
    obtain ⟨hs1, hs2, hs3, hs4, hs5, hs6⟩ := hsrc
    obtain ⟨hd1, hd2, hd3, hd4, hd5, hd6⟩ := hdst
    rw [exec_mxp]
    dsimp only [execMxp]
    refine engineWord_next hr hb hs ?_
    dsimp only [t, dsc, geo, src, dst] at *
    simp only [hm, hs1, hs2, hs3, hs4, hs5, hs6, hd1, hd2, hd3, hd4, hd5, hd6, hbits, hp, htr, rowsEarly_of_off htr, Bool.not_true,
      Bool.and_false, Bool.or_false, Bool.false_and, Bool.not_false, bne_self_eq_false, Bool.false_eq_true, if_false,
      Option.or_none]
end Sys2Proof.Laws
end

section

/-! # MSAVE, MREST and the Contour words -/

namespace Sys2Proof.Laws
open Sys2Proof.Machine Sys2Proof.Claim

/-- An issuing word's effect counts on the tile whose token and LQ entries have been taken alone. -/
theorem done_congr {s : State} {srcs : List Src} {ret : Option Nat} {f g : Tile → Tile} {flow : Flow}
    (h : ∀ toks tpush lq, f { (tl s) with toks := toks, tpush := tpush, lq := lq } =
      g { (tl s) with toks := toks, tpush := tpush, lq := lq }) : done s srcs ret f flow = done s srcs ret g flow := by
  obtain ⟨toks, tpush, lq, hu⟩ := issue_eq (tl s) (slot s) s.cur.ctl.tok ret (pops srcs)
  unfold done
  dsimp only
  rw [hu, h]

/-- A word that holds its slot's completion open, and whose plan names no trap, no stall and no later check, issues with the
plan's effect. -/
theorem next_of_open {s : State} {i : Instr} {srcs : List Src} {v : List W64} {plan : Tile → List W64 → Plan} {p : Plan}
    (hi : exec i s = runWord s { srcs := srcs } plan) (hr : Ready s srcs [] false p.outs v) (hp : plan (tl s) v = p)
    (hw : p.wait = none) (ha : p.after = none) (ht : p.trap = none := by rfl) (he : p.early = false := by rfl)
    (hopen : p.open_ = true := by rfl) (hsys : p.sys = id := by rfl) :
    exec i s = .next (done s srcs none p.act p.flow) := by
  rw [hi, runWord_next hp hr ht (by rw [he, Bool.and_false]) hw ha, hsys, hopen]
  rfl

theorem afterStep_cyc (t : Tile) (n : Nest) : (t.afterStep n).cyc = t.cyc := by
  unfold Tile.afterStep
  split
  · rfl
  · split <;> rfl

theorem stopNest_cyc (t : Tile) : t.stopNest.cyc = t.cyc := by
  unfold Tile.stopNest
  dsimp only
  split
  · exact afterStep_cyc _ _
  · rfl

/-- The nest of a request rests on the formats and scales of the banks alone. -/
theorem nestOf_congr {t u : Tile} (hf : u.bfmt = t.bfmt) (hs : u.bscl = t.bscl) (q : NestReq) : u.nestOf q = t.nestOf q := by
  unfold Tile.nestOf Tile.geo
  rw [hf, hs]

/-- A suspended image brings its nest back with its first step left. -/
theorem restoreImage_of_susp {t u : Tile} {img : Mem} {c : Nat} (h : imageSusp img = true) (hf : u.bfmt = t.bfmt)
    (hs : u.bscl = t.bscl) : u.restoreImage img c =
      let w := u.sched .m c (.mrest img)
      { w with eng := { w.eng with nest := some (t.nestOf (imageNest img c)) } } := by
  unfold Tile.restoreImage
  have hn : (u.sched .m c (.mrest img)).nestOf (imageNest img c) = t.nestOf (imageNest img c) := nestOf_congr hf hs _
  rw [if_pos h, hn]

theorem restoreImage_of_not_susp {u : Tile} {img : Mem} {c : Nat} (h : imageSusp img = false) :
    u.restoreImage img c = u.sched .m c (.mrest img) :=
  if_neg (by rw [h]; exact Bool.false_ne_true)

/-- An image that suspends no nest meets no more than its own refusals, and one that does the checks of its nest too. -/
theorem imageTrap_none {t : Tile} {full : Bool} {img : Mem} {c : Nat} (hbad : imageBad img = false)
    (hn : imageSusp img = true → t.nestTrap full (imageNest img c) = none) : t.imageTrap full img c = none := by
  unfold Tile.imageTrap
  rw [if_neg (by rw [hbad]; exact Bool.false_ne_true)]
  split
  · exact hn ‹_›
  · rfl

/-- MREST issues where its image's place and the image itself pass their checks. -/
theorem mrest_next {s : State} {x : Src} {v : List W64} (hr : Ready s [x] [] false [] v) (hb : (tl s).eng.busy = false)
    (hsh : (tl s).shaped = false) (hp : placeTrap (a v) 64 29184 = none) (htr : bitAt (tl s).tcfg 1 = false)
    (himg : (tl s).imageTrap s.full ((tl s).spadImage (a v).toNat) (now s + 16) = none) :
    exec (.mrest x) s = .next (done s [x] none fun u =>
      let w := u.beginCmd .mrest (if imageSusp ((tl s).spadImage (a v).toNat) then
        ((tl s).nestOf (imageNest ((tl s).spadImage (a v).toNat) (now s + 16))).endAt else now s + 16)
      w.restoreImage (w.spadImage (a v).toNat) (w.cyc + 16)) := by
  rw [exec_mrest]
  dsimp only [execMrest]
  refine engineWord_next hr hb hsh ?_
  have hp' : placeTrap (nth v 0) 64 imgSize = none := hp
  simp only [hp', htr, Bool.false_and, Bool.false_eq_true, if_false]
  exact himg

/-- A command that is an MGO does not make MSAVE wait. -/
theorem msave_free {e : Eng} (hs : e.save = none) (hc : ∀ c, e.cmd = some c → c.kind = .mgo) :
    (e.save.isSome || e.cmd.any fun c => c.kind != .mgo) = false := by
  rw [hs]
  cases h : e.cmd with
  | none => rfl
  | some c => simp [hc c h]

/-- Settles O24: MSAVE stops the nest and reserves its image's words, MREST's image comes back at issue + 16. -/
theorem engineSaveAndRestore : Obligations.EngineSaveAndRestore := by
  unfold Obligations.EngineSaveAndRestore
  intro s x t
  refine ⟨fun v hr hsv hsh hcmd hp => ?_, ?_⟩
  · refine (next_of_open (exec_msave x s) hr rfl ?_ hp).trans ?_
    · exact if_neg (by rw [hsh, msave_free hsv hcmd]; exact Bool.false_ne_true)
    · refine congrArg Host.Outcome.next (done_congr fun toks tpush lq => ?_)
      dsimp only [Tile.reserveImage]
      rw [stopNest_cyc]
      rfl
  · intro img v hr hb hsh hp htr hbad back
    refine ⟨?_, ?_⟩
    · intro hsus
      refine (mrest_next hr hb hsh hp htr (imageTrap_none hbad fun h => absurd h (by rw [hsus]; exact Bool.false_ne_true))).trans ?_
      refine congrArg Host.Outcome.next (done_congr fun toks tpush lq => ?_)
      rw [if_neg (by rw [hsus]; exact Bool.false_ne_true)]
      exact restoreImage_of_not_susp hsus
    · intro req hsus hn
      refine (mrest_next hr hb hsh hp htr (imageTrap_none hbad fun _ => hn)).trans ?_
      refine congrArg Host.Outcome.next (done_congr fun toks tpush lq => ?_)
      rw [if_pos hsus]
      exact restoreImage_of_susp hsus rfl rfl

end Sys2Proof.Laws
end

section

/-! # The Contour words (07 R171 to R176) -/

namespace Sys2Proof.Laws
open Sys2Proof.Machine Sys2Proof.Claim

/-- What scheduling writes leaves of a tile: its engine, its scratchpad, its clock, and every write scheduled before. -/
structure Scheds (t u : Tile) : Prop where
  eng : u.eng = t.eng
  spad : u.spad = t.spad
  cyc : u.cyc = t.cyc
  pend : t.pend ⊆ u.pend

theorem Scheds.rfl {t : Tile} : Scheds t t := ⟨Eq.refl _, Eq.refl _, Eq.refl _, fun _ h => h⟩

theorem Scheds.trans {t u w : Tile} (h : Scheds t u) (h' : Scheds u w) : Scheds t w :=
  ⟨h'.eng.trans h.eng, h'.spad.trans h.spad, h'.cyc.trans h.cyc, fun _ hp => h'.pend (h.pend hp)⟩

theorem scheds_sched (t : Tile) (k : Slot) (c : Nat) (w : Tgt) : Scheds t (t.sched k c w) :=
  ⟨rfl, rfl, rfl, fun _ h => List.mem_append_left _ h⟩

theorem scheds_schedSpad (t : Tile) (k : Slot) (c : Nat) (l : List (Nat × Byte × Byte)) : Scheds t (t.schedSpad k c l) := by
  unfold Tile.schedSpad
  split
  · exact .rfl
  · exact ⟨rfl, rfl, rfl, fun _ h => List.mem_append_left _ h⟩

/-- A write to the scratchpad of some bytes is scheduled. -/
theorem schedSpad_pend {t : Tile} {k : Slot} {c : Nat} {l : List (Nat × Byte × Byte)} (h : l ≠ []) :
    ⟨c, k, t.cyc, (t.slot k).pc.toNat, .spad l⟩ ∈ (t.schedSpad k c l).pend := by
  unfold Tile.schedSpad
  rw [if_neg (by rwa [List.isEmpty_iff])]
  exact List.mem_append_right _ (List.mem_singleton.2 rfl)

theorem scheds_foldl {f : Tile → Nat → Tile} (hf : ∀ u b, Scheds u (f u b)) (l : List Nat) (t : Tile) :
    Scheds t (l.foldl f t) := by
  induction l generalizing t with
  | nil => exact .rfl
  | cons b l ih => exact (hf t b).trans (ih (f t b))

/-- What one step of a fold schedules is scheduled after the whole fold. -/
theorem exists_pend_foldl {f : Tile → Nat → Tile} (hf : ∀ u b, Scheds u (f u b)) {P : PendW → Prop} {b : Nat} {l : List Nat}
    (hb : b ∈ l) (t : Tile) (h : ∀ u, Scheds t u → ∃ w ∈ (f u b).pend, P w) : ∃ w ∈ (l.foldl f t).pend, P w := by
  obtain ⟨l₁, l₂, rfl⟩ := List.append_of_mem hb
  rw [List.foldl_append, List.foldl_cons]
  obtain ⟨w, hw, hP⟩ := h _ (scheds_foldl hf l₁ t)
  exact ⟨w, (scheds_foldl hf l₂ _).pend hw, hP⟩

theorem leBytes_ne_nil {n : Nat} (h : n ≠ 0) (x : Nat) : leBytes n x ≠ [] := by
  cases n with
  | zero => exact absurd rfl h
  | succ n => exact List.cons_ne_nil _ _

theorem fmtBytes_ne_zero (f : Fmt) : fmtBytes f ≠ 0 := by
  unfold fmtBytes fmtBits
  split <;> decide

/-- An element's write names some byte. -/
theorem elemWrite_ne_nil (r : Region) (i x : Nat) : r.elemWrite i x ≠ [] := by
  unfold Region.elemWrite
  dsimp only
  split
  · split <;> exact List.cons_ne_nil _ _
  · unfold wholeBytes
    simpa using leBytes_ne_nil (fmtBytes_ne_zero r.fmt) x

/-- What an issuing word leaves of its tile's engine and scratchpad is what its effect leaves. -/
theorem done_eng_spad (s : State) (srcs : List Src) (ret : Option Nat) (act : Tile → Tile) :
    ((done s srcs ret act).tile s.cur.tile).eng =
      (act (((tl s).takeToken (slot s) s.cur.ctl.tok ret).popLq (pops srcs))).eng ∧
    ((done s srcs ret act).tile s.cur.tile).spad =
      (act (((tl s).takeToken (slot s) s.cur.ctl.tok ret).popLq (pops srcs))).spad := by
  unfold done
  rw [State.tile_setTile]
  have h := kept_trans (kept_advance (act (((tl s).takeToken (slot s) s.cur.ctl.tok ret).popLq (pops srcs))) (slot s) .seq)
    (kept_count _ 2 (Slot.num (slot s)) 1)
  exact ⟨h.eng, h.spad⟩

/-- One beat of CIDX: the leaves of 256 elements, in element order. -/
def cidxBeat (r : Region) (nt n : Nat) (u : Tile) (b : Nat) : Tile :=
  let vs := (((List.range 256).map (256 * b + ·)).filter (· < n)).map fun e => (e, u.eng.leafAt (e / nt) (e % nt))
  let w := u.schedSpad .m (u.cyc + 4 + b) (vs.flatMap fun p => r.elemWrite p.1 p.2)
  if vs.any (fun p => p.2 == 0xFF) then w.sched .m (w.cyc + 4 + b) .noleafEnd else w

theorem scheds_cidxBeat (r : Region) (nt n : Nat) (u : Tile) (b : Nat) : Scheds u (cidxBeat r nt n u b) := by
  unfold cidxBeat
  dsimp only
  split
  · exact (scheds_schedSpad _ _ _ _).trans (scheds_sched _ _ _ _)
  · exact scheds_schedSpad _ _ _ _

/-- The write of an element's leaf is among those that its beat schedules. -/
theorem cidxBeat_pend (r : Region) (nt n : Nat) (u : Tile) {e : Nat} (he : e < n) :
    ∃ w ∈ (cidxBeat r nt n u (e / 256)).pend, w.at_ = u.cyc + 4 + e / 256 ∧ ∃ l, w.tgt = .spad l ∧
      ∀ y ∈ r.elemWrite e (u.eng.leafAt (e / nt) (e % nt)), y ∈ l := by
  unfold cidxBeat
  extract_lets vs w
  have hmem : (e, u.eng.leafAt (e / nt) (e % nt)) ∈ vs :=
    List.mem_map.2 ⟨e, List.mem_filter.2 ⟨List.mem_map.2 ⟨e % 256, List.mem_range.2 (Nat.mod_lt _ (by decide)),
      Nat.div_add_mod e 256⟩, by simpa using he⟩, rfl⟩
  have hsub : ∀ y ∈ r.elemWrite e (u.eng.leafAt (e / nt) (e % nt)), y ∈ vs.flatMap fun p => r.elemWrite p.1 p.2 :=
    fun y hy => List.mem_flatMap.2 ⟨_, hmem, hy⟩
  have hne : (vs.flatMap fun p => r.elemWrite p.1 p.2) ≠ [] := by
    obtain ⟨y, hy⟩ := List.exists_mem_of_ne_nil _ (elemWrite_ne_nil r e (u.eng.leafAt (e / nt) (e % nt)))
    exact List.ne_nil_of_mem (hsub y hy)
  have hw := schedSpad_pend (t := u) (k := .m) (c := u.cyc + 4 + e / 256) hne
  refine ⟨⟨_, .m, u.cyc, (u.slot .m).pc.toNat, .spad _⟩, ?_, rfl, _, rfl, hsub⟩
  split
  · exact (scheds_sched w _ _ _).pend hw
  · exact hw

/-- The retirement cycle of a CIDX, and its effect: it holds the engine, and makes its beats. -/
def cidxRetire (t : Tile) : Nat := if t.eng.ns * t.eng.nt = 0 then t.cyc else t.cyc + 4 + (t.eng.ns * t.eng.nt - 1) / 256

def cidxAct (c : Nat) (x : W64) (u : Tile) : Tile :=
  (List.range ((u.eng.ns * u.eng.nt + 255) / 256)).foldl (cidxBeat (u.regionOf false x).r u.eng.nt (u.eng.ns * u.eng.nt))
    (u.beginCmd .other c)

theorem scheds_cidxAct (c : Nat) (x : W64) (u : Tile) : Scheds (u.beginCmd .other c) (cidxAct c x u) :=
  scheds_foldl (scheds_cidxBeat _ _ _) _ _

/-- Every element of a CIDX has its beat. -/
theorem cidxAct_pend (c : Nat) (x : W64) (u : Tile) {e : Nat} (he : e < u.eng.ns * u.eng.nt) :
    ∃ w ∈ (cidxAct c x u).pend, w.at_ = u.cyc + 4 + e / 256 ∧ ∃ l, w.tgt = .spad l ∧
      ∀ y ∈ (u.regionOf false x).r.elemWrite e (u.eng.leafAt (e / u.eng.nt) (e % u.eng.nt)), y ∈ l := by
  refine exists_pend_foldl (b := e / 256) (scheds_cidxBeat _ _ _) (List.mem_range.2 ?_) _ fun w hw => ?_
  · omega
  · have h := cidxBeat_pend (u.regionOf false x).r u.eng.nt (u.eng.ns * u.eng.nt) w he
    rw [hw.cyc, hw.eng] at h
    exact h

/-- CIDX issues where its region passes its checks, and schedules its beats. -/
theorem cidx_next {s : State} {x : Src} {v : List W64} (hr : Ready s [x] [] false [] v) (hb : (tl s).eng.busy = false)
    (hs : (tl s).shaped = false) (hm : (tl s).eng.mode = true)
    (hc : (let g := (tl s).regionOf false (a v)
      regionTrap g (g.r.fmt == I8 || g.r.fmt == N8 || g.r.fmt == RAW8) ((tl s).eng.ns * (tl s).eng.nt)) = none) :
    exec (.cidx x) s = .next (done s [x] none (cidxAct (cidxRetire (tl s)) (a v))) := by
  rw [exec_cidx]
  dsimp only [execCidx]
  refine (engineWord_next hr hb hs ?_).trans ?_
  · rw [hm]
    exact hc
  · rfl

/-- One write of CLEAF: the scores of all samples. -/
def cleafEnd (r : Region) (tb : Nat) (u : Tile) : Tile :=
  let at_ := u.cyc + 6 + leafTime u.eng.ns u.eng.nt
  let out := (List.range u.eng.ns).map fun i => (i, u.leafSum tb i (u.rawElem r i))
  let w := u.schedSpad .m at_ (out.flatMap fun p => r.elemWrite p.1 p.2.1)
  let f := out.foldl (fun f x => f ||| x.2.2.1) (0 : Flags)
  let w := if f = 0 then w else w.sched .m at_ (.mflags f)
  if out.any (·.2.2.2) then w.sched .m at_ .noleaf else w

theorem scheds_ite_sched (p : Prop) [Decidable p] (t : Tile) (k : Slot) (c : Nat) (w : Tgt) :
    Scheds t (if p then t.sched k c w else t) := by
  split
  · exact scheds_sched _ _ _ _
  · exact .rfl

theorem scheds_ite_not_sched (p : Prop) [Decidable p] (t : Tile) (k : Slot) (c : Nat) (w : Tgt) :
    Scheds t (if p then t else t.sched k c w) := by
  split
  · exact .rfl
  · exact scheds_sched _ _ _ _

theorem scheds_cleafEnd (r : Region) (tb : Nat) (u : Tile) : Scheds u (cleafEnd r tb u) := by
  unfold cleafEnd
  extract_lets at_ out w f w'
  exact (scheds_schedSpad _ _ _ _).trans ((scheds_ite_not_sched _ _ _ _ _).trans (scheds_ite_sched _ _ _ _ _))

theorem cleafEnd_pend (r : Region) (tb : Nat) (u : Tile) {e : Nat} (he : e < u.eng.ns) :
    ∃ w ∈ (cleafEnd r tb u).pend, w.at_ = u.cyc + 6 + leafTime u.eng.ns u.eng.nt ∧ ∃ l, w.tgt = .spad l ∧
      ∀ y ∈ r.elemWrite e (u.leafSum tb e (u.rawElem r e)).1, y ∈ l := by
  unfold cleafEnd
  extract_lets at_ out w f w'
  have hmem : (e, u.leafSum tb e (u.rawElem r e)) ∈ out := List.mem_map.2 ⟨e, List.mem_range.2 he, rfl⟩
  have hsub : ∀ y ∈ r.elemWrite e (u.leafSum tb e (u.rawElem r e)).1, y ∈ out.flatMap fun p => r.elemWrite p.1 p.2.1 :=
    fun y hy => List.mem_flatMap.2 ⟨_, hmem, hy⟩
  have hne : (out.flatMap fun p => r.elemWrite p.1 p.2.1) ≠ [] := by
    obtain ⟨y, hy⟩ := List.exists_mem_of_ne_nil _ (elemWrite_ne_nil r e (u.leafSum tb e (u.rawElem r e)).1)
    exact List.ne_nil_of_mem (hsub y hy)
  refine ⟨⟨_, .m, u.cyc, (u.slot .m).pc.toNat, .spad _⟩, ?_, rfl, _, rfl, hsub⟩
  exact ((scheds_ite_not_sched _ _ _ _ _).trans (scheds_ite_sched _ _ _ _ _)).pend (schedSpad_pend hne)

/-- The retirement cycle of a CLEAF, and its effect: it holds the engine, and writes its scores. -/
def cleafRetire (t : Tile) : Nat := if t.eng.ns = 0 then t.cyc else t.cyc + 6 + leafTime t.eng.ns t.eng.nt

def cleafAct (c : Nat) (x : W64) (tb : Nat) (u : Tile) : Tile := cleafEnd (u.regionOf false x).r tb (u.beginCmd .other c)

/-- CLEAF issues where its region and its table pass their checks, and schedules its scores. -/
theorem cleaf_next {s : State} {x y : Src} {v : List W64} (hr : Ready s [x, y] [] false [] v) (hb : (tl s).eng.busy = false)
    (hs : (tl s).shaped = false) (hm : (tl s).eng.mode = true) (htr : bitAt (tl s).tcfg 1 = false)
    (hc : (let g := (tl s).regionOf false (a v); regionTrap g (g.r.fmt == F32) (tl s).eng.ns) = none)
    (hal : (b v).toNat % 4 = 0)
    (htb : let n := 4 * (tl s).eng.lw * (tl s).eng.nt
      n = 0 ∨ ((b v).toNat < 0x300000 ∧ (b v).toNat % 0x40000 + n ≤ 0x40000)) :
    exec (.cleaf x y) s = .next (done s [x, y] none (cleafAct (cleafRetire (tl s)) (a v) (b v).toNat)) := by
  rw [exec_cleaf]
  dsimp only [execCleaf]
  refine (engineWord_next hr hb hs ?_).trans ?_
  · dsimp only at hc htb ⊢
    have htb' : ¬(4 * (tl s).eng.lw * (tl s).eng.nt ≠ 0 ∧
        (spadEnd ≤ (b v).toNat ∨ 0x40000 < (b v).toNat % 0x40000 + 4 * (tl s).eng.lw * (tl s).eng.nt)) := by
      have : spadEnd = 0x300000 := rfl
      omega
    rw [hm, hc, htr]
    simp only [Bool.not_true, Bool.false_eq_true, if_false, Bool.false_and, hal, ne_eq, not_true_eq_false]
    exact if_neg htb'
  · rfl

/-! ### CIDX and CLEAF as they issue -/

section
variable (s : State) (srcs : List Src) (x : W64) (tb : Nat)

theorem cidx_retire : ((done s srcs none (cidxAct (cidxRetire (tl s)) x)).tile s.cur.tile).eng.cmd.bind (·.retire) =
    some (cidxRetire (tl s)) := by
  rw [(done_eng_spad _ _ _ _).1, (scheds_cidxAct _ _ _).eng]
  rfl

theorem cidx_spad : ((done s srcs none (cidxAct (cidxRetire (tl s)) x)).tile s.cur.tile).spad = (tl s).spad := by
  obtain ⟨toks, tpush, lq, hu⟩ := issue_eq (tl s) (slot s) s.cur.ctl.tok none (pops srcs)
  rw [(done_eng_spad _ _ _ _).2, (scheds_cidxAct _ _ _).spad, hu]
  rfl

theorem cidx_writes {e : Nat} (he : e < (tl s).eng.ns * (tl s).eng.nt) :
    ∃ w ∈ ((done s srcs none (cidxAct (cidxRetire (tl s)) x)).tile s.cur.tile).pend, w.at_ = now s + 4 + e / 256 ∧
      ∃ l, w.tgt = .spad l ∧ ∀ y ∈ ((tl s).regionOf false x).r.elemWrite e
        ((tl s).eng.leafAt (e / (tl s).eng.nt) (e % (tl s).eng.nt)), y ∈ l := by
  obtain ⟨toks, tpush, lq, hu⟩ := issue_eq (tl s) (slot s) s.cur.ctl.tok none (pops srcs)
  rw [pend_done, hu]
  exact cidxAct_pend _ x { (tl s) with toks := toks, tpush := tpush, lq := lq } he

theorem cleaf_retire : ((done s srcs none (cleafAct (cleafRetire (tl s)) x tb)).tile s.cur.tile).eng.cmd.bind (·.retire) =
    some (cleafRetire (tl s)) := by
  rw [(done_eng_spad _ _ _ _).1, cleafAct, (scheds_cleafEnd _ _ _).eng]
  rfl

theorem cleaf_spad : ((done s srcs none (cleafAct (cleafRetire (tl s)) x tb)).tile s.cur.tile).spad = (tl s).spad := by
  obtain ⟨toks, tpush, lq, hu⟩ := issue_eq (tl s) (slot s) s.cur.ctl.tok none (pops srcs)
  rw [(done_eng_spad _ _ _ _).2, cleafAct, (scheds_cleafEnd _ _ _).spad, hu]
  rfl

theorem cleaf_writes {e : Nat} (he : e < (tl s).eng.ns) :
    ∃ w ∈ ((done s srcs none (cleafAct (cleafRetire (tl s)) x tb)).tile s.cur.tile).pend,
      w.at_ = now s + 6 + leafTime (tl s).eng.ns (tl s).eng.nt ∧ ∃ l, w.tgt = .spad l ∧
        ∀ y ∈ ((tl s).regionOf false x).r.elemWrite e
          ((tl s).leafSum tb e ((tl s).rawElem ((tl s).regionOf false x).r e)).1, y ∈ l := by
  obtain ⟨toks, tpush, lq, hu⟩ := issue_eq (tl s) (slot s) s.cur.ctl.tok none (pops srcs)
  rw [pend_done, hu]
  exact cleafEnd_pend _ tb (Tile.beginCmd { (tl s) with toks := toks, tpush := tpush, lq := lq } .other _) he

end

/-- CLDC takes the cells of the image at rd(a), where the engine is in Contour mode. -/
theorem begins_cldc {s : State} (x : Src) (hm : (tl s).eng.mode = true) :
    Begins s (.cldc x) [x] .other (fun v => (tl s).cldcTrap (a v))
      (fun v => (tl s).cyc + 4 + (((tl s).cellImg (a v).toNat).len + 255) / 256)
      fun v u =>
        let cells := (u.cellImg (a v).toNat).recs.map fun n => n.place u.eng.w16 u.eng.span
        u.sched .m (u.cyc + 4 + ((u.cellImg (a v).toNat).len + 255) / 256)
          (.cells (cells.flatMap fun e => (e.2.zipIdx (16 * e.1)).map fun p => (p.2, p.1)) (cells.map (·.1))
            (u.cellImg (a v).toNat).nt) := by
  intro v hr hb hs hc
  rw [exec_cldc]
  dsimp only [execCldc]
  exact engineWord_next hr hb hs ((if_neg (by rw [hm]; exact Bool.false_ne_true)).trans hc)

/-- CRUN holds the engine to the end of its last group. -/
theorem begins_crun (s : State) (x : Src) :
    Begins s (.crun x) [x] .other (fun v => (tl s).crunTrap (a v))
      (fun v => if ((tl s).regionOf false (a v)).r.count = 0 then now s + 1
        else crunEnd (now s) ((tl s).regionOf false (a v)).r.count (tl s).eng.nf (fmtBytes ((tl s).regionOf false (a v)).r.fmt))
      fun v u =>
        let g := (u.regionOf false (a v)).r
        if g.count = 0 then u.sched .m (u.cyc + 1) (.samples 0)
        else { u with eng := { u.eng with crun := some ⟨g.base, g.stride, g.fmt, g.count, 0, u.cyc + 2⟩ } } := by
  intro v hr hb hs hc
  rw [exec_crun]
  dsimp only [execCrun]
  exact engineWord_next hr hb hs hc

/-- CSET's value passes the checks that its statement names. -/
theorem cset_check {s : State} {w : W64} (hm : w &&& ~~~0x3FF7#64 = 0) (h0 : bitAt w 0 = true ∨ w = 0)
    (hf : s.full = true ∨ bitAt w 0 = false) :
    ((w &&& ~~~0x3FF7#64) != 0 || (!bitAt w 0 && w != 0) || (!s.full && bitAt w 0)) = false := by
  rw [hm]
  rcases h0 with h0 | rfl
  · rcases hf with hf | hf
    · simp [h0, hf]
    · rw [h0] at hf
      exact absurd hf (by decide)
  · simp [bitAt]

/-- Settles O25: the Contour words are engine commands; CIDX's and CLEAF's elements stand among the writes they schedule. -/
theorem contourWords : Obligations.ContourWords := by
  unfold Obligations.ContourWords
  intro s x y d t
  refine ⟨fun v hr hb hs hm h0 hf => ?_, ?_, ?_, fun v hr hb hs hm hc => ?_, fun v hr hb hs hm htr hc hal htb => ?_, ?_⟩
  · exact (exec_cset x s).trans (engineWord_next hr hb hs (if_neg (by rw [cset_check hm h0 hf]; exact Bool.false_ne_true)))
  · exact fun hm => begins_cldc x hm
  · exact begins_crun s x
  · exact ⟨_, cidx_next hr hb hs hm hc, ⟨cidx_retire _ _ _, fun e he => cidx_writes _ _ _ he⟩, cidx_spad _ _ _⟩
  · exact ⟨_, cleaf_next hr hb hs hm htr hc hal htb, ⟨cleaf_retire _ _ _ _, fun e he => cleaf_writes _ _ _ _ he⟩, cleaf_spad _ _ _ _⟩
  · exact does_of (exec_cstatContour d x s) fun v _ =>
      ⟨_, rfl, rfl, rfl, Bool.and_false _, rfl, rfl, rfl, max_eq_left (Nat.le_add_right _ _), rfl, rfl, rfl⟩

end Sys2Proof.Laws
end

section

/-! # Words of slot A: fences, the chain, puts, counters -/

namespace Sys2Proof.Laws
open Sys2Proof.Machine Sys2Proof.Claim

/-! ### FENCE_RETIRE (10 R202, 11 R225) -/

/-- With no token due, the end of a cycle settles none. -/
theorem settleTokens_nil {t : Tile} (h : t.tpush = []) (c : Nat) : t.settleTokens c = t := by
  unfold Tile.settleTokens
  rw [h]
  cases t
  cases h
  rfl

/-- A FENCE whose conditions hold retires, and drops its die's copies where its scope is PKG or SYS. -/
theorem retireFence_of_ready {s : State} {n c : Nat} {f : Fence} (hf : (s.tile n).fence = some f)
    (hr : (s.tile n).fenceReady f = true) : ∃ u : Tile, u.fence = none ∧
      s.retireFence n c = (if scopeInval f.scope then s.inval (dieOf n) else s).setTile n u := by
  unfold State.retireFence
  dsimp only
  rw [hf]
  dsimp only
  rw [if_pos hr]
  exact ⟨_, rfl, rfl⟩

theorem retireFence_of_not_ready {s : State} {n c : Nat} {f : Fence} (hf : (s.tile n).fence = some f)
    (hr : (s.tile n).fenceReady f = false) : s.retireFence n c = s := by
  unfold State.retireFence
  dsimp only
  rw [hf]
  exact if_neg (by rw [hr]; exact Bool.false_ne_true)

/-- An acquire of a die leaves it no copy and no fill. -/
theorem die_inval (s : State) (d : Nat) : ((s.inval d).die d).rdc = [] ∧ ((s.inval d).die d).fills = [] := by
  unfold State.inval State.modDie State.setDie
  unfold State.die
  dsimp only
  rw [tget_tset_same]
  exact ⟨rfl, rfl⟩

theorem fence_giveToken (t : Tile) (f iss : Nat) : (t.giveToken f iss).fence = t.fence := by
  unfold Tile.giveToken
  repeat' split
  all_goals rfl

theorem fence_settleTokens (t : Tile) (c : Nat) : (t.settleTokens c).fence = t.fence := by
  unfold Tile.settleTokens
  dsimp only
  generalize (t.tpush.filter fun p => p.at_.any (· ≤ c)) = l
  have h : ∀ u : Tile, (l.foldl (fun t p => t.giveToken p.fifo p.iss) u).fence = u.fence := by
    induction l with
    | nil => exact fun _ => rfl
    | cons p l ih => exact fun u => (ih _).trans (fence_giveToken u _ _)
  exact h _

theorem fenceReady_iff {t : Tile} {f : Fence} :
    t.fenceReady f = true ↔ t.inh = false ∧ f.marks = [] ∧ t.performed f.id f.scope = true := by
  unfold Tile.fenceReady
  rw [Bool.and_eq_true, Bool.and_eq_true, Bool.not_eq_true', List.isEmpty_iff, and_assoc]

/-- Settles O31: the two cases of a FENCE's retirement. -/
theorem fenceRetirement : Obligations.FenceRetirement := by
  unfold Obligations.FenceRetirement
  intro s n f hn hf
  have hmod : n % 256 = n := Nat.mod_eq_of_lt hn
  have he : exec (.fenceRetire n) s = .next ((s.retireFence n ((s.tile n).cyc - 1)).modTile n
      (·.settleTokens ((s.tile n).cyc - 1))) := by
    rw [exec_fenceRetire, execFenceRetire, hmod]
  refine ⟨fun hi hm hp => ⟨_, he, ?_, ?_, ?_, ?_⟩, fun h => ⟨?_, fun ht => ⟨fun m => ?_, rfl⟩⟩⟩
  · unfold State.modTile
    rw [State.tile_setTile, fence_settleTokens]
    obtain ⟨u, hu, h⟩ := retireFence_of_ready (c := (s.tile n).cyc - 1) hf (fenceReady_iff.2 ⟨hi, hm, hp⟩)
    rw [h, State.tile_setTile, hu]
  · intro hs
    obtain ⟨u, hu, h⟩ := retireFence_of_ready (c := (s.tile n).cyc - 1) hf (fenceReady_iff.2 ⟨hi, hm, hp⟩)
    rw [h, if_pos (by rcases hs with hs | hs <;> rw [hs] <;> rfl)]
    exact die_inval s _
  · exact congrArg Prod.fst (by simp : (_ : State).mem = s.mem)
  · exact congrArg Prod.snd (by simp : (_ : State).mem = s.mem)
  · rw [he, retireFence_of_not_ready hf]
    rw [← Bool.not_eq_true, fenceReady_iff]
    rintro ⟨hi, hm, hp⟩
    rcases h with h | h | h
    · exact absurd (hi.symm.trans h) Bool.false_ne_true
    · exact h hm
    · exact absurd (h.symm.trans hp) Bool.false_ne_true
  · dsimp only [State.modTile]
    rw [settleTokens_nil ht]
    rcases eq_or_ne m n with rfl | hne
    · exact State.tile_setTile _ _ _
    · exact State.tile_setTile_ne _ _ _ _ hne

/-! ### The chain, and puts and gets (11 R230 to R236, 12 R254) -/

theorem not_le_held {n : Nat} (h : n < 64) {w : Wait} : (if 64 ≤ n then some w else none) = none := if_neg (Nat.not_le.2 h)

theorem does_of_copyWord {s : State} {i : Instr} {toMem : Bool} {x y z w : Src} {mf : MemF}
    (hi : exec i s = copyWord s toMem x y z w mf) (hroom : (tl s).chain.held < 64) :
    Does s i [x, y, z, w] [] (now s)
      (fun v => s.lacks (sdMfmt (nth v 0)) = false ∧
        copyTrap toMem false (nth v 0) (nth v 1) (nth v 2) (nth v 3) = none)
      fun v u => { u with chain := u.chain.append (.cmd toMem (nth v 0) (nth v 1) (nth v 2) (nth v 3) mf.hint) } := by
  unfold copyWord at hi
  refine does_of hi fun v ⟨hl, hc⟩ =>
    ⟨_, rfl, rfl, ?_, Bool.and_false _, not_le_held hroom, rfl, rfl, max_self _, rfl, rfl, rfl⟩
  exact (if_neg (by rw [hl]; exact Bool.false_ne_true)).trans hc

/-- Settles O32: a copy joins the window, CHAIN.TAIL publishes, CHAIN.WAIT reads the status. -/
theorem chainWords : Obligations.ChainWords := by
  unfold Obligations.ChainWords
  intro s d x y z w mf clr
  refine ⟨does_of_copyWord (exec_cpygs x y z w mf s), does_of_copyWord (exec_cpysg x y z w mf s), fun hroom => ?_, ?_⟩
  · exact does_of (exec_chainTail x s) fun v hv => ⟨_, if_neg (not_not_intro hv), rfl, rfl, Bool.and_false _,
      not_le_held hroom, rfl, rfl, max_self _, rfl, rfl, rfl⟩
  · exact does_of (exec_chainWait d x clr s) fun v hv =>
      ⟨_, rfl, rfl, rfl, Bool.and_false _, if_pos hv, rfl, rfl, max_eq_left (Nat.le_succ _), rfl, rfl, rfl⟩

theorem does_of_putWord {s : State} {i : Instr} {get : Bool} {x y z : Src} (hi : exec i s = putWord s get x y z)
    (hroom : (tl s).tmq.length < 64) : Does s i [x, y, z] [] (now s)
      (fun v => putTrap s.pval (s.tcmask (tl s)) (a v) (b v) (c v) = none) fun v u => { u with
        ids := u.ids + 1
        tmq := u.tmq ++ [⟨u.ids, u.cyc, get, a v, b v, c v, 0, [], false, false, false, none⟩] } := by
  unfold putWord at hi
  exact does_of hi fun v hv =>
    ⟨_, rfl, rfl, hv, Bool.and_false _, not_le_held hroom, rfl, rfl, max_self _, rfl, rfl, rfl⟩

/-- Settles O33: a put or a get joins the tensor-move queue. -/
theorem putAndGetEnterTheirQueue : Obligations.PutAndGetEnterTheirQueue := by
  unfold Obligations.PutAndGetEnterTheirQueue
  intro s x y z mf
  exact ⟨does_of_putWord (exec_put x y z mf s), does_of_putWord (exec_get x y z mf s)⟩

/-! ### Counters (12 R257 to R260) -/

theorem counted_of_lt {v : List W64} {lim : Nat} {p : Plan} (h : (a v).toNat < lim ∧ (b v).toNat < 2 ^ 32) :
    counted v lim p = p :=
  if_neg (not_or.2 ⟨Nat.not_le.2 h.1, Nat.not_le.2 h.2⟩)

/-- Settles O34: the counter words read at issue, and write at the end of the cycle. -/
theorem counterWords : Obligations.CounterWords := by
  unfold Obligations.CounterWords
  intro s d x y flag t i ok o
  have hle : now s ≤ now s + 1 := Nat.le_succ _
  refine ⟨?_, ?_, ?_, ?_, ?_⟩
  · exact does_of (exec_arradd d x y s) fun v hv =>
      ⟨_, counted_of_lt hv, rfl, rfl, Bool.and_false _, rfl, rfl, rfl, max_eq_left hle, rfl, rfl, rfl⟩
  · exact does_of (exec_arrset x y s) fun v hv =>
      ⟨_, counted_of_lt hv, rfl, rfl, Bool.and_false _, rfl, rfl, rfl, max_self _, rfl, rfl, rfl⟩
  · exact does_of (exec_arrw d x y flag s) fun v ⟨hv, hw⟩ =>
      ⟨_, counted_of_lt hv, rfl, rfl, Bool.and_false _, if_pos hw, rfl, rfl, max_eq_left hle, rfl, rfl, rfl⟩
  · exact does_of (exec_bcbPost d x y s) fun v hv =>
      ⟨_, counted_of_lt hv, rfl, rfl, Bool.and_false _, rfl, rfl, rfl, max_eq_left hle, rfl, rfl, rfl⟩
  · exact does_of (exec_bcbWait d x y flag s) fun v ⟨hv, hw⟩ =>
      ⟨_, counted_of_lt hv, rfl, rfl, Bool.and_false _, if_pos hw, rfl, rfl, max_eq_left hle, rfl, rfl, rfl⟩

end Sys2Proof.Laws
end

section

/-! # Collective words, barriers, mutexes, semaphores and task words -/

namespace Sys2Proof.Laws
open Sys2Proof.Machine Sys2Proof.Claim

/-! ### Collective words (14 R322 to R327) -/

/-- CREADY's conditions leave none of its refusals. -/
theorem cready_fits {e : Nat} {x : CEnt} (h : e < 256 ∧ x.state ≠ 0 ∧ (x.state = 1 → x.fired = false)) :
    ¬(256 ≤ e ∨ x.state = 0 ∨ (x.state = 1 ∧ x.fired = true)) := by
  obtain ⟨he, h0, h1⟩ := h
  rintro (h | h | ⟨h, hf⟩)
  · exact absurd he (Nat.not_lt.2 h)
  · exact h0 h
  · exact absurd ((h1 h).symm.trans hf) Bool.false_ne_true

theorem cent_setCent_same (t : Tile) (e : Nat) (x : CEnt) : (t.setCent e x).cent e = x := by
  unfold Tile.setCent
  unfold Tile.cent
  exact tget_tset_same _ _ _ _

/-- Firing an armed entry marks it fired, and leaves it armed. -/
theorem fireColl_cent {t : Tile} {n : Nat} (h : (t.cent n).state = 1) :
    ((t.fireColl n).cent n).fired = true ∧ ((t.fireColl n).cent n).state = 1 := by
  unfold Tile.fireColl
  dsimp only
  split
  · exact ⟨congrArg CEnt.fired (cent_setCent_same _ _ _), (congrArg CEnt.state (cent_setCent_same _ _ _)).trans h⟩
  · exact ⟨congrArg CEnt.fired (cent_setCent_same _ _ _), (congrArg CEnt.state (cent_setCent_same _ _ _)).trans h⟩

/-- One command for each peer joins the tensor-move queue. -/
theorem fireColl_tmq {t : Tile} {n : Nat} (hp : (t.cent n).npeer ≠ 0) (hw : (t.cent n).nwords ≠ 0) :
    (t.fireColl n).tmq.length = t.tmq.length + (t.cent n).npeer := by
  unfold Tile.fireColl
  dsimp only
  rw [if_neg (not_or.2 ⟨hp, hw⟩)]
  dsimp only
  rw [List.length_append, List.length_map, List.length_range]

/-- Settles O36: each collective word by its rule on the entry as it stands. -/
theorem collectiveWords : Obligations.CollectiveWords := by
  unfold Obligations.CollectiveWords
  intro s d x y clr t e
  refine ⟨?ctbl, fun hroom => ?cready, ?cevw, fun v hr he => ?cabort, ?cstat, ?creadyIll, fun hfull => ?creadyBusy, ?cevwIll,
    ?cevwWaits, fun t n => ⟨fireColl_cent, fireColl_tmq, ?cclr⟩⟩
  case ctbl =>
    have hi := exec_ctbl x y s
    dsimp only [execCtbl] at hi
    exact does_of hi fun v ⟨he, hc⟩ => ⟨_, if_neg (Nat.not_le.2 he), rfl, hc, Bool.and_false _, rfl, rfl, rfl, max_self _, rfl, rfl, rfl⟩
  case cready =>
    exact does_of (exec_cready x s) fun v hv => ⟨_, if_neg (cready_fits hv), rfl, rfl, Bool.and_false _, not_le_held hroom, rfl, rfl,
      max_self _, rfl, rfl, rfl⟩
  case cevw =>
    exact does_of (exec_cevw d x y s) fun v ⟨he, hm, hv⟩ => ⟨_, if_neg (not_or.2 ⟨Nat.not_le.2 he, Nat.not_le.2 hm⟩), rfl, rfl,
      Bool.and_false _, if_pos hv, rfl, rfl, max_self _, rfl, rfl, rfl⟩
  case cabort =>
    refine (exec_cabort x s).trans ((runWord_next (p := _) (if_neg (Nat.not_le.2 he)) hr rfl (Bool.and_false _) rfl rfl).trans ?_)
    dsimp only
    rw [show (tl s).cyc = now s from rfl, max_self]
    rfl
  case cstat =>
    exact does_of (exec_cstatColl d x clr s) fun v he => ⟨_, if_neg (Nat.not_le.2 he), rfl, rfl, Bool.and_false _, rfl, rfl, rfl,
      max_self _, rfl, rfl, rfl⟩
  case creadyIll =>
    exact ills_of (exec_cready x s) fun v ⟨_, h⟩ => congrArg Plan.trap (if_pos (Or.inr h))
  case creadyBusy =>
    exact stalls_of (by decide) (exec_cready x s) fun v hv => ⟨_, if_neg (cready_fits hv), rfl, rfl, Bool.and_false _, if_pos hfull, rfl⟩
  case cevwIll =>
    exact ills_of (exec_cevw d x y s) fun v h => congrArg Plan.trap (if_pos h)
  case cevwWaits =>
    exact stalls_of (by decide) (exec_cevw d x y s) fun v ⟨he, hm, h1, h2, h3⟩ =>
      ⟨_, if_neg (not_or.2 ⟨Nat.not_le.2 he, Nat.not_le.2 hm⟩), rfl, rfl, Bool.and_false _,
        if_neg (not_or.2 ⟨h1, not_or.2 ⟨h2, Bool.eq_false_iff.1 h3⟩⟩), rfl⟩
  case cclr => exact cent_setCent_same _ _ _

/-! ### Barriers, mutexes and semaphores (13 R278 to R281) -/

theorem indexed_of_lt {v : W64} {lim : Nat} {p : Plan} (h : v.toNat < lim) : indexed v lim p = p := if_neg (Nat.not_le.2 h)

/-- A BAR.A that has not arrived waits where its slot stands among the arrivals, one that has for its phase to end. -/
theorem bara_free {j c : Bool} {m p : Nat} (h0 : j = false → c = false) (h1 : j = true → m ≠ p) :
    (if (if j then m == p else c) = true then some Wait.barrier else none) = none := by
  refine if_neg ?_
  cases j with
  | true =>
    rw [if_pos rfl, beq_iff_eq]
    exact h1 rfl
  | false =>
    rw [if_neg Bool.false_ne_true, h0 rfl]
    exact Bool.false_ne_true

/-- Settles O37: each barrier word by its rule on the barrier as it stands. -/
theorem barrierWords : Obligations.BarrierWords := by
  unfold Obligations.BarrierWords
  intro s d x y t k i sl
  have hle : now s ≤ now s + 1 := Nat.le_succ _
  refine ⟨?bara, ?barw, ?bars, ?barcfg⟩
  case bara =>
    have hi := exec_bara d x s
    dsimp only [execBara] at hi
    refine does_of hi fun v ⟨hv, h0, h1⟩ => ⟨_, indexed_of_lt hv, rfl, rfl, Bool.and_false _, ?_, rfl, rfl, max_eq_left hle, rfl, rfl, rfl⟩
    exact bara_free (fun h => Bool.eq_false_iff.2 fun hc => h0 h (List.contains_iff_mem.1 hc)) h1
  case barw =>
    exact does_of (exec_barw x y s) fun v ⟨hv, h⟩ =>
      ⟨_, indexed_of_lt hv, rfl, rfl, Bool.and_false _, if_pos h, rfl, rfl, max_self _, rfl, rfl, rfl⟩
  case bars =>
    have hi := exec_bars d x s
    dsimp only [execBars] at hi
    refine does_of hi fun v ⟨hv, hj, hm⟩ => ⟨_, indexed_of_lt hv, rfl, rfl, Bool.and_false _, ?_, rfl, rfl, max_eq_left hle, rfl, rfl, rfl⟩
    exact if_pos (Bool.and_eq_true_iff.2 ⟨hj, bne_iff_ne.2 hm⟩)
  case barcfg =>
    exact does_of (exec_barcfg x y s) fun v ⟨hv, h1, h4⟩ =>
      ⟨_, (indexed_of_lt hv).trans (if_neg (not_or.2 ⟨Nat.not_lt.2 h1, Nat.not_lt.2 h4⟩)), rfl, rfl, Bool.and_false _, rfl, rfl,
        rfl, max_self _, rfl, rfl, rfl⟩

theorem mutex_free {x : Mutex} (ho : x.owner = none) (hw : x.waiters = []) : x.free = true := by
  unfold Mutex.free
  rw [ho, hw]
  rfl

theorem sem_serves {x : Sem} {k : Slot} (hw : x.waiters = []) (hc : x.count ≠ 0) : x.serves k = true := by
  unfold Sem.serves
  rw [hw]
  exact bne_iff_ne.2 hc

/-- Settles O38: each mutex, semaphore and token word by its rule on what it finds. -/
theorem mutexAndSemaphoreWords : Obligations.MutexAndSemaphoreWords := by
  unfold Obligations.MutexAndSemaphoreWords
  intro s d x y src dst t k i o
  have hle : now s ≤ now s + 1 := Nat.le_succ _
  refine ⟨fun hj => ?mlock, ?mtry, ?munlk, ?semp, ?semv, ?semtry, ?tokcnt⟩
  case mlock =>
    have hi := exec_mlock x s
    dsimp only [execMlock] at hi
    refine does_of hi fun v ⟨hv, ho, hw⟩ => ⟨_, (indexed_of_lt hv).trans (if_neg ?_), rfl, rfl, Bool.and_false _, if_pos (.inr ⟨?_, hj⟩),
      rfl, rfl, max_self _, congrArg (fun w (u : Tile) => u.setMut (i v) ⟨some k, w⟩) hw, rfl, rfl⟩
    · exact fun h => absurd (ho.symm.trans h.1) (Option.some_ne_none k).symm
    · exact mutex_free ho hw
  case mtry =>
    have hi := exec_mtry d x s
    dsimp only [execMtry] at hi
    exact does_of hi fun v hv => ⟨_, indexed_of_lt hv, rfl, rfl, Bool.and_false _, rfl, rfl, rfl, max_eq_left hle, rfl, rfl, rfl⟩
  case munlk =>
    have hi := exec_munlk x s
    dsimp only [execMunlk] at hi
    exact does_of hi fun v ⟨hv, ho⟩ =>
      ⟨_, (indexed_of_lt hv).trans (if_neg (not_not_intro ho)), rfl, rfl, Bool.and_false _, rfl, rfl, rfl, max_self _, rfl, rfl, rfl⟩
  case semp =>
    have hi := exec_semp x s
    dsimp only [execSemp] at hi
    refine does_of hi fun v ⟨hv, hw, hc⟩ => ⟨_, indexed_of_lt hv, rfl, rfl, Bool.and_false _, ?_, rfl, rfl, max_self _, rfl, rfl, rfl⟩
    exact if_pos (sem_serves hw hc)
  case semv =>
    exact does_of (exec_semv x y s) fun v ⟨hv, h⟩ =>
      ⟨_, (indexed_of_lt hv).trans (if_neg (Nat.not_le.2 h)), rfl, rfl, Bool.and_false _, rfl, rfl, rfl, max_self _, rfl, rfl, rfl⟩
  case semtry =>
    have hi := exec_semtry d x s
    dsimp only [execSemtry] at hi
    exact does_of hi fun v hv => ⟨_, indexed_of_lt hv, rfl, rfl, Bool.and_false _, rfl, rfl, rfl, max_eq_left hle, rfl, rfl, rfl⟩
  case tokcnt =>
    have hf : fifoOf src.val dst.val = 4 * src.val + dst.val := by unfold fifoOf; omega
    have hi : exec (.tokcnt d src dst) s = scalarWord s (.s d) 1 [] fun _ => w64 ((tl s).tokens (4 * src.val + dst.val)) := by
      rw [exec_tokcnt, execTokcnt, hf]
      rfl
    exact gives_of hi fun _ => rfl

/-! ### YIELD, QPT, DSEND and the record words (13 R283 to R294) -/

/-- What a DSEND does in a stub, once its arguments are read. -/
def dsendPlan (t : Tile) (k : Slot) (v : List W64) (l : List (Nat × Nat) × Option Nat) : Plan where
  early := (k == .v || k == .m) && bitAt (nth v 0) 32 &&
    t.pendingAt (fld (nth v 0) 0 22) (8 + 8 * (readLe t.spad (fld (nth v 0) 0 22) 8 % 64))
  wait := if k = .m then t.busyWait else none
  flow := .stay
  act := fun u => u.endStub k l
  retire := t.cyc

theorem dsend_wait {t : Tile} {k : Slot} (h : k = .m → t.eng.busy = false) :
    (if k = .m then t.busyWait else none) = none := by
  split
  · exact if_neg (by rw [h ‹_›]; exact Bool.false_ne_true)
  · rfl

/-- Settles O39: YIELD asks for the end of the cycle, QPT notes in slot C, DSEND ends a stub. -/
theorem yieldQptDsend : Obligations.YieldQptDsend := by
  unfold Obligations.YieldQptDsend
  intro s x y t k
  refine ⟨?yield, does_of_plainWord (exec_qpt s) _, fun v l hr hstub hargs hp hb => ?dsend⟩
  case yield =>
    have hi := exec_yield x s
    dsimp only [execYield] at hi
    exact does_of hi fun v hv => ⟨_, if_neg (Nat.not_lt.2 hv), rfl, rfl, Bool.and_false _, rfl, rfl, rfl, max_self _, rfl, rfl, rfl⟩
  case dsend =>
    rw [exec_dsend]
    dsimp only [execDsend]
    have hk : ((tl s).slot s.cur.slot).stub = true := hstub
    refine (runWord_next ((if_neg (by rw [hk]; exact Bool.false_ne_true)).trans ?_) hr (p := dsendPlan (tl s) k v l)
      rfl (by rw [hp, Bool.false_and]) (dsend_wait hb) rfl).trans ?_
    · rw [show dsendArgs (tl s) s.cur.slot (nth v 0) (nth v 1) = some l from hargs]
      rfl
    · exact congrArg (fun r => Host.Outcome.next (done s [x, y] (some r) (fun u => u.endStub k l) .stay)) (max_self (now s))

/-- The wait for CD's answer is over once it has been asked for and its cycle has come, and not before. -/
theorem answerWait_none {t : Tile} {k : Slot} (hj : (t.slot k).joined = true) (hm : (t.slot k).mark ≤ 65552 + t.cyc) :
    answerWait t k = none :=
  if_pos (Bool.and_eq_true_iff.2 ⟨hj, decide_eq_true hm⟩)

theorem answerWait_not_joined {t : Tile} {k : Slot} (hj : (t.slot k).joined = false) : answerWait t k = some .answer :=
  if_neg (by rw [hj]; exact Bool.false_ne_true)

theorem answerWait_early {t : Tile} {k : Slot} (hm : 65552 + t.cyc < (t.slot k).mark) : answerWait t k = some .answer := by
  refine if_neg fun h => ?_
  have h := of_decide_eq_true (Bool.and_eq_true_iff.1 h).2
  unfold answerMark at h
  omega

theorem askCd_joined {t : Tile} {k : Slot} {n : Nat} (hj : (t.slot k).joined = true) : askCd k n t = t := if_pos hj

theorem askCd_not_joined {t : Tile} {k : Slot} {n : Nat} (hj : (t.slot k).joined = false) :
    askCd k n t = joinAs k (answerMark (t.cyc + 1 + n)) t :=
  if_neg (by rw [hj]; exact Bool.false_ne_true)

/-- The plan of a record word whose record number is one. -/
def recPlan (s : State) (d : Fin 32) (op : State → Nat × State) : Plan where
  outs := [(.s d, 1)]
  wait := answerWait (tl s) (slot s)
  join := askCd (slot s) (Config.freeNat s.free)
  sys := answerRec s.cur.tile (slot s) d op
  retire := (tl s).cyc + 1

section
variable {s : State} {srcs : List Src} {d : Fin 32} {op : State → Nat × State} {v : List W64} {plan : Tile → List W64 → Plan}
  (hp : plan (tl s) v = recPlan s d op) (hr : Ready s srcs [] false [(.s d, 1)] v)
include hp hr

/-- A record word that has its answer makes its access and writes its status. -/
theorem recWord_answered (hj : ((tl s).slot (slot s)).joined = true)
    (hm : ((tl s).slot (slot s)).mark ≤ 65552 + (tl s).cyc) :
    runWord { s with free := s.free + 1 } { srcs := srcs } plan = .next (answerRec s.cur.tile (slot s) d op
      (done { s with free := s.free + 1 } srcs (some (now s + 1)) id)) := by
  refine (runWord_next (s := { s with free := s.free + 1 }) hp hr rfl (Bool.and_false _) (answerWait_none hj hm) rfl).trans ?_
  exact congrArg (fun r => Host.Outcome.next (answerRec s.cur.tile (slot s) d op
    (done { s with free := s.free + 1 } srcs (some r) id))) (max_eq_left (Nat.le_succ (now s)))

/-- One that has not asked yet asks, and waits. -/
theorem recWord_asks (hj : ((tl s).slot (slot s)).joined = false) :
    runWord { s with free := s.free + 1 } { srcs := srcs } plan = .next ((({ s with free := s.free + 1 } : State)).setTile s.cur.tile
      ((joinAs (slot s) (65552 + ((tl s).cyc + 1 + Config.freeNat s.free)) (tl s)).stallOn (slot s) .answer)) := by
  refine (runWord_wait (s := { s with free := s.free + 1 }) hp hr rfl (Bool.and_false _) (answerWait_not_joined hj)
    (by decide)).trans ?_
  have h : (recPlan s d op).join (tl s) = joinAs (slot s) (65552 + ((tl s).cyc + 1 + Config.freeNat s.free)) (tl s) :=
    askCd_not_joined hj
  rw [← h]
  rfl

/-- One that has asked waits until its answer comes. -/
theorem recWord_waits (hj : ((tl s).slot (slot s)).joined = true) (hm : 65552 + (tl s).cyc < ((tl s).slot (slot s)).mark) :
    runWord { s with free := s.free + 1 } { srcs := srcs } plan =
      .next (({ s with free := s.free + 1 } : State).setTile s.cur.tile ((tl s).stallOn (slot s) .answer)) := by
  refine (runWord_wait (s := { s with free := s.free + 1 }) hp hr rfl (Bool.and_false _) (answerWait_early hm) (by decide)).trans ?_
  exact congrArg (fun t => Host.Outcome.next (({ s with free := s.free + 1 } : State).setTile s.cur.tile (t.stallOn (slot s) .answer)))
    (askCd_joined hj)

end

theorem plan_of_small {x : W64} (p : Plan) (h : x.toNat < 2 ^ 16) : (if 2 ^ 16 ≤ x.toNat then Plan.ill4 else p) = p :=
  if_neg (Nat.not_le.2 h)

theorem armPlan_of {x : W64} {b : Bool} (p q : Plan) (h : x.toNat < 2 ^ 16) (hb : b = false) :
    (if 2 ^ 16 ≤ x.toNat then Plan.ill4 else if b = true then q else p) = p :=
  (plan_of_small _ h).trans (if_neg (by rw [hb]; exact Bool.false_ne_true))

theorem armPlan_waits {x : W64} {b : Bool} (p q : Plan) (h : x.toNat < 2 ^ 16) (hb : b = true) :
    (if 2 ^ 16 ≤ x.toNat then Plan.ill4 else if b = true then q else p) = q :=
  (plan_of_small _ h).trans (if_pos hb)

/-- Settles O40: LRPATCH and LRARM ask, wait, and are answered, by one rule. -/
theorem recordWordsAnswered : Obligations.RecordWordsAnswered := by
  unfold Obligations.RecordWordsAnswered
  intro s d x y f t k n s'
  have hjoin (hj : (t.slot k).joined = true) : (!((tl s).slot (slot s)).joined && !(tl s).performed (tl s).ids .pkg) = false := by
    rw [show ((tl s).slot (slot s)).joined = true from hj]
    rfl
  rw [exec_lrpatch, exec_lrarm]
  dsimp only [execLrpatch, execLrarm, State.freeNat]
  refine ⟨fun v hr hv hj hm => recWord_answered (plan_of_small _ hv) hr hj hm,
    fun v hr hv hj hm => recWord_answered (armPlan_of _ _ hv (hjoin hj)) hr hj hm,
    ⟨fun v hr hv hj => recWord_asks (plan_of_small _ hv) hr hj, fun v hr hv hj => ⟨fun hp => ?asks, fun hp => ?waits⟩⟩,
    fun hj hm => ⟨fun v hr hv => recWord_waits (plan_of_small _ hv) hr hj hm,
      fun v hr hv => recWord_waits (armPlan_of _ _ hv (hjoin hj)) hr hj hm⟩⟩
  case asks =>
    refine recWord_asks (armPlan_of _ _ hv ?_) hr hj
    rw [show (tl s).performed (tl s).ids .pkg = true from hp]
    exact Bool.and_false _
  case waits =>
    have hb : (!((tl s).slot (slot s)).joined && !(tl s).performed (tl s).ids .pkg) = true := by
      rw [show ((tl s).slot (slot s)).joined = false from hj, show (tl s).performed (tl s).ids .pkg = false from hp]
      rfl
    exact runWord_wait (s := { s with free := s.free + 1 }) (p := { outs := [(.s d, 1)], wait := some .completion })
      (armPlan_waits _ _ hv hb) hr rfl (Bool.and_false _) rfl (by decide)

end Sys2Proof.Laws
end

section

/-! # Counters and barriers at the end of the cycle, and the words that the spec writes out -/

namespace Sys2Proof.Laws
open Sys2Proof.Machine Sys2Proof.Claim

theorem ctr_setCtr_same (t : Tile) (i : Nat) (v : BitVec 32) : (t.setCtr i v).ctr i = v := by
  unfold Tile.setCtr
  unfold Tile.ctr
  exact tget_tset_same _ _ _ _

theorem ctr_setCtr_ne (t : Tile) {i j : Nat} (h : j ≠ i) (v : BitVec 32) : (t.setCtr i v).ctr j = t.ctr j := by
  unfold Tile.setCtr
  unfold Tile.ctr
  exact tget_tset_ne _ _ _ _ _ h

theorem bcb_setBcb_same (t : Tile) (i : Nat) (x : Bcb) : (t.setBcb i x).bcb i = x := by
  unfold Tile.setBcb
  unfold Tile.bcb
  exact tget_tset_same _ _ _ _

theorem bcb_setBcb_ne (t : Tile) {i j : Nat} (h : j ≠ i) (x : Bcb) : (t.setBcb i x).bcb j = t.bcb j := by
  unfold Tile.setBcb
  unfold Tile.bcb
  exact tget_tset_ne _ _ _ _ _ h

/-- COUNT keeps a number of 48 bits, signed. -/
theorem wrap48_of_range {v : Int} (h₁ : -2 ^ 47 ≤ v) (h₂ : v < 2 ^ 47) : wrap48 v = v := by
  unfold wrap48 signed wrapTo
  norm_num at h₁ h₂ ⊢
  split <;> omega

theorem fire_of_due {x : Bcb} (ha : x.armed = true) (hc : 0 ≤ x.count) :
    x.fire = { x with round := x.round + 1, armed := false, excess := x.excess || decide (0 < x.count) } :=
  if_pos (by rw [ha, decide_eq_true hc]; rfl)

theorem fire_of_not_due {x : Bcb} (h : x.armed = false ∨ x.count < 0) : x.fire = x := by
  refine if_neg fun hd => ?_
  obtain ⟨ha, hc⟩ := Bool.and_eq_true_iff.1 hd
  rcases h with h | h
  · exact absurd (h.symm.trans ha) Bool.false_ne_true
  · exact absurd (of_decide_eq_true hc) (Int.not_le.2 h)

/-- The arrival of a slot that has not arrived yet. -/
theorem arrive_eq {x : Barrier} {k : Slot} (hk : k ∉ x.arr) : x.arrive k =
    if x.cfg ≤ x.arr.length + 1 then { x with phase := x.phase + 1, arr := [] } else { x with arr := x.arr ++ [k] } := by
  unfold Barrier.arrive
  have h : (if x.arr.contains k then x.arr else x.arr ++ [k]) = x.arr ++ [k] := if_neg (by rwa [List.contains_iff_mem])
  dsimp only
  rw [h, List.length_append, List.length_singleton]

/-- Settles O35: each entry of the end of the cycle by the counter or barrier it names. -/
theorem countersAndBarriersAtEndOfCycle : Obligations.CountersAndBarriersAtEndOfCycle := by
  unfold Obligations.CountersAndBarriersAtEndOfCycle
  intro t i j n hj
  refine ⟨ctr_setCtr_same _ _ _, ctr_setCtr_ne _ hj _, ctr_setCtr_same _ _ _, ctr_setCtr_ne _ hj _, ctr_setCtr_same _ _ _,
    congrArg Bcb.armed (bcb_setBcb_same _ _ _), fun h₁ h₂ => ?_, bcb_setBcb_ne _ hj _, ⟨fun ha hc => ?_, fire_of_not_due⟩,
    fun x k hk => ⟨fun h => ?_, fun h => ?_, ?_⟩⟩
  · exact (congrArg Bcb.count (bcb_setBcb_same _ _ _)).trans (wrap48_of_range h₁ h₂)
  · rw [fire_of_due ha hc]
    exact ⟨rfl, rfl, rfl, rfl⟩
  · rw [arrive_eq hk, if_neg (Nat.not_le.2 h)]
    exact ⟨rfl, rfl⟩
  · rw [arrive_eq hk, if_pos h]
    exact ⟨rfl, rfl⟩
  · rw [arrive_eq hk]
    split <;> rfl

/-- Settles O56: each word decodes by evaluation. -/
theorem wordsOfTheSpecDecode : Obligations.WordsOfTheSpecDecode := by
  unfold Obligations.WordsOfTheSpecDecode
  exact ⟨rfl, rfl, rfl, rfl, rfl, rfl, rfl, rfl, rfl, rfl, rfl, rfl, rfl, rfl, rfl, rfl, rfl, rfl⟩

/-! ### After a cold reset -/

/-- Memory without a listed byte reads zero. -/
theorem readBytes_nil (a n : Nat) : readBytes [] a n = List.replicate n 0 := by
  induction n generalizing a with
  | zero => rfl
  | succ n ih => exact congrArg (List.cons 0) (ih (a + 1))

/-- Settles O55: what stands after reset, part by part. -/
theorem resetState : Obligations.ResetState := by
  unfold Obligations.ResetState
  intro s
  refine ⟨fun n => ⟨rfl, rfl, rfl, fun k => ⟨?_, ?_, ?_⟩, fun b => rfl, fun c => rfl⟩, fun d => ⟨rfl, rfl⟩,
    fun p => ⟨rfl, rfl, rfl, rfl, rfl⟩, fun p => ⟨rfl, rfl, rfl⟩, rfl, rfl, rfl, rfl, rfl, rfl, rfl, rfl, rfl, rfl,
    fun r => rfl, fun p => rfl, fun c k hc hk => ?_, fun a n => ?_⟩
  · cases k <;> rfl
  · exact if_pos rfl
  · exact if_pos rfl
  · rfl
  · unfold State.readPa
    split <;> exact readBytes_nil _ _

end Sys2Proof.Laws
end

section

/-! # A step runs the decoded instruction (10 R186, 03 R50 to R54) -/

namespace Sys2Proof.Laws
open Sys2Proof.Machine Sys2Proof.Claim

/-- What follows the attempt of a slot: slot A's entries are settled, and the tile looks at the next slot unless a PFX word has
been read. -/
def afterSlot (s : State) (n : Nat) (k : Slot) (r : State) : State :=
  let r' := if k = .a then r.settleAhead n else r
  if ((r'.tile n).slot k).pre.words = ((s.tile n).slot k).pre.words + 1 then r' else r'.bump n

/-- The attempt of a slot, and what follows it. -/
def andAfter (s : State) (n : Nat) (k : Slot) (o : Out3) : Out3 :=
  match o with
  | .next r => .next (afterSlot s n k r)
  | .fault f => .fault f
  | .refused f => .refused f

/-- A tile in the part of its cycle that belongs to slot k looks at that slot. -/
theorem tileStep_of_phase {s : State} {n : Nat} {k : Slot} (rest : List Move) (h : (s.tile n).phase = 1 + Slot.num k) :
    s.tileStep n rest = s.slotStep n k := by
  unfold State.tileStep
  rw [h]
  cases k <;> rfl

/-- A slot whose word is eligible, and that no trap, error or FENCE concerns, tries its word. -/
theorem slotStep_of_eligible {s : State} {n : Nat} {k : Slot} (hstop : (s.tile n).chain.stop = none)
    (hflaw : (s.tile n).flaws = []) (hwdog : (s.tile n).wdog = none) (hfence : (s.tile n).fence = none)
    (hact : (s.tile n).active k = true) (hel : (s.tile n).eligibleAt k ≤ (s.tile n).cyc) :
    s.slotStep n k = andAfter s n k (s.issueWord n k) := by
  have hchain : (s.tile n).chainTrap k = none := by
    unfold Tile.chainTrap
    rw [hstop]
    split <;> rfl
  have hflawed : (s.tile n).flawed k = none := by
    unfold Tile.flawed
    rw [hflaw]
    rfl
  unfold State.slotStep
  dsimp only
  rw [if_neg (fun h => h.1 hchain), if_neg (by rw [hflawed]; exact Bool.false_ne_true),
    if_neg (by rw [hwdog]; exact fun h => Option.some_ne_none k h.1.symm),
    if_neg (by rw [hact, decide_eq_false (Nat.not_lt.2 hel)]; exact Bool.false_ne_true),
    if_neg (by rw [hfence]; exact fun h => Bool.false_ne_true h.2)]
  unfold andAfter afterSlot
  cases s.issueWord n k with
  | next r => exact (apply_ite Host.Outcome.next _ _ _).symm
  | fault f => rfl
  | refused f => rfl

theorem decodeAt_of_decode {t : Tile} {k : Slot} {c : Ctl} {i : Instr}
    (hd : decode k (t.fetch (t.slot k).wordPc) = .ok (c, i))
    (hp : isPrefix (t.fetch (t.slot k).wordPc) || prefixOk (t.slot k).pre (t.fetch (t.slot k).wordPc)) :
    t.decodeAt k = .ok (c, i) := by
  unfold Tile.decodeAt
  dsimp only
  rw [hd]
  exact if_pos hp

/-- A word that its guards let issue is run, one that they do not is annulled. -/
def goWord (s : State) (n : Nat) (k : Slot) (c : Ctl) (i : Instr) : Out3 :=
  if (s.tile n).guards k c then exec i (s.setCur n k c true false false) else .next (s.setTile n ((s.tile n).annul k))

theorem bundle_of_alone {t : Tile} {k : Slot} (h : t.alone k = true) : t.bundle = .free :=
  of_decide_eq_true (Bool.and_eq_true_iff.1 h).1

section
variable {s : State} {n : Nat} {k : Slot} {c : Ctl} {i : Instr} (hd : (s.tile n).decodeAt k = .ok (c, i))
include hd

/-- A plain word, and a SYNC word that issues as one, is tried by itself. -/
theorem issueWord_plain (h : c.sync = false ∨ (s.tile n).alone k = true) : s.issueWord n k = goWord s n k c i := by
  unfold State.issueWord goWord
  dsimp only
  rw [hd]
  dsimp only
  by_cases hs : c.sync = true
  · have ha : (s.tile n).alone k = true := h.resolve_left fun h => absurd (hs.symm.trans h) (by decide)
    rw [if_neg (by rw [hs]; exact Bool.false_ne_true), bundle_of_alone ha]
    dsimp only
    rw [if_pos ha]
    split <;> rfl
  · rw [if_pos (by rw [Bool.not_eq_true] at hs; rw [hs]; rfl)]
    split <;> rfl

/-- A member of a bundle whose members are the running slots, or they and C's handler, issues with them. -/
theorem issueWord_act {run : List Slot} (hs : c.sync = true) (hb : (s.tile n).bundle = .act run) (hk : run.contains k = true)
    (hrun : run = (s.tile n).runners ∨ run = .c :: (s.tile n).runners) : s.issueWord n k =
      match goWord s n k c i with
      | .next r => .next (r.syncEvent n k ((s.tile n).slot k).wordPc run)
      | r => r := by
  unfold State.issueWord goWord
  dsimp only
  rw [hd]
  dsimp only
  rw [if_neg (by rw [hs]; exact Bool.false_ne_true), hb]
  dsimp only
  rw [if_pos hk]
  cases hg : (s.tile n).guards k c with
  | true =>
    rw [if_pos rfl, if_pos rfl]
    cases exec i (s.setCur n k c true false false) with
    | next r => exact if_pos hrun
    | fault f => rfl
    | refused f => rfl
  | false =>
    rw [if_neg Bool.false_ne_true, if_neg Bool.false_ne_true, if_pos rfl]
    exact if_pos hrun

end

/-- The outcome of a move, with the actions for the errors detected. -/
def settled (o : Out3) : Out3 :=
  match o with
  | .next r => .next r.settleStep
  | .fault f => .fault f
  | .refused f => .refused f

theorem step_eq (s : State) : step s = settled s.nextStep := by
  unfold step settled
  cases s.nextStep <;> rfl

/-- Settles O58: the step of a tile is the attempt of the slot it looks at, and that of an event its move. -/
theorem stepRunsTheDecodedInstruction : Obligations.StepRunsTheDecodedInstruction := by
  unfold Obligations.StepRunsTheDecodedInstruction
  refine ⟨fun s n k rest c i hn hag => ?_, fun z j l hag hj => ?_⟩
  · intro t x w after runs hph hstop hflaw hwdog hfence hact hel hd hp
    have hdec := decodeAt_of_decode hd hp
    have hstep : step s = settled (andAfter s n k (s.issueWord n k)) := by
      rw [step_eq, State.nextStep, hag]
      dsimp only
      rw [if_pos hn, tileStep_of_phase rest hph, slotStep_of_eligible hstop hflaw hwdog hfence hact hel]
    refine ⟨fun h hg => ?_, fun run hrun hs hb hk => ⟨fun hg => ?_, fun hg => ?_⟩, fun h hg => ?_⟩
    · rw [hstep, issueWord_plain hdec h, goWord, if_pos hg]
      dsimp only [runs]
      cases exec i (s.setCur n k c true false false) <;> rfl
    · rw [hstep, issueWord_act hdec hs hb hk hrun, goWord, if_pos hg]
      dsimp only [runs]
      cases exec i (s.setCur n k c true false false) <;> rfl
    · rw [hstep, issueWord_act hdec hs hb hk hrun, goWord, if_neg (by rw [show (s.tile n).guards k c = false from hg]; exact Bool.false_ne_true)]
      rfl
    · rw [hstep, issueWord_plain hdec h, goWord, if_neg (by rw [show (s.tile n).guards k c = false from hg]; exact Bool.false_ne_true)]
      rfl
  · rw [step_eq, State.nextStep, hag]
    dsimp only
    rw [if_pos hj]
    unfold settled
    cases exec j { z with agenda := l } <;> rfl

end Sys2Proof.Laws
end

section

/-! # Region words of one beat, and the integer results of one element (05 R103, R121, R122) -/

namespace Sys2Proof.Laws
open Sys2Proof.Machine Sys2Proof.Claim

/-- A source whose one element, a 32-bit integer, is broadcast. -/
def bcast32 (bits : Nat) : VSrc := ⟨⟨0, 1, 1, I32, false, 0, 0⟩, ⟨0, 0, 0⟩, some (bits, 0)⟩

/-- A VSHL of 2^30 by 2 with the saturating mode that its encoding never gives it. -/
def shiftSaturating : VJob where
  op := .shl
  md := ⟨.rne, true⟩
  dst := ⟨0, 1, 1, I32, false, 0, 0⟩
  srcs := [bcast32 0x40000000, bcast32 2]
  iss := 0
  pc := 0
  lat := 4
  ivl := 1
  count := 1
  beat := 0
  real := false
  wide := false
  seed := 0
  vals := []
  ints := []
  fl := 0
  lists := []

/-- Refutes O20: a job of VSHL with the .s mode, which no word of the encoding makes but the statement admits, saturates: 2^30
shifted left by 2 gives 2^31 - 1, where the statement says 2^32 modulo 2^32. -/
theorem not_integerElementResults : ¬ Obligations.IntegerElementResults := by
  unfold Obligations.IntegerElementResults
  intro h
  obtain ⟨-, -, -, -, -, hshl, -⟩ := h Tile.reset shiftSaturating (bcast32 0x40000000) (bcast32 2) 0 0 rfl rfl rfl rfl
  exact absurd (hshl rfl) (by decide)

theorem srcRaw_congr {t u : Tile} (h : u.spad = t.spad) (s : VSrc) (i : Nat) : u.srcRaw s i = t.srcRaw s i := by
  unfold Tile.srcRaw Tile.rawElem Tile.entryElem
  rw [h]

/-- An element of a region word reads nothing of its tile but the scratchpad. -/
theorem vElem_congr {t u : Tile} (h : u.spad = t.spad) (j : VJob) (i d : Nat) : u.vElem j i d = t.vElem j i d := by
  have hraw := srcRaw_congr h
  have hb : u.srcBits = t.srcBits := by funext s i; unfold Tile.srcBits; rw [hraw]
  have hr : u.srcReal = t.srcReal := by funext s i; unfold Tile.srcReal; rw [hraw]
  have hi : u.srcInt = t.srcInt := by funext s i; unfold Tile.srcInt; rw [hraw]
  unfold Tile.vElem
  rw [hb, hr, hi]

/-- The words of 05 R103 that write each element by itself. -/
def elemOps : List VOp := [.add, .sub, .mul, .fma, .fms, .fnma, .min, .max, .abs, .neg, .and, .or, .xor, .shl, .shr, .sra, .sel, .cvt,
  .rcpe, .rsqe, .rcps, .rsqs, .exp2e, .log2e, .copy]

/-- A job of at most 64 elements has them all in its first beat. -/
theorem filter_lt_range {n m : Nat} (h : n ≤ m) : (List.range m).filter (· < n) = List.range n := by
  obtain ⟨k, rfl⟩ := Nat.exists_eq_add_of_le h
  rw [List.range_add, List.filter_append, List.filter_eq_self.2 fun i hi => decide_eq_true (List.mem_range.1 hi),
    List.filter_eq_nil_iff.2, List.append_nil]
  rintro _ hi
  obtain ⟨j, -, rfl⟩ := List.mem_map.1 hi
  simp

theorem zip_replicate {α β : Type} (l : List α) (b : β) : l.zip (List.replicate l.length b) = l.map fun x => (x, b) := by
  induction l with
  | nil => rfl
  | cons x l ih => exact congrArg (List.cons (x, b)) ih

theorem lanes_of_one_beat {j : VJob} (hb : j.beat = 0) (hn : j.count ≤ 64) : j.lanes = List.range j.count := by
  unfold VJob.lanes
  rw [hb]
  simpa using filter_lt_range hn

theorem isLast_of_one_beat {j : VJob} (hb : j.beat = 0) (hn : j.count ≤ 64) : j.isLast = true := by
  unfold VJob.isLast beatsOf
  rw [hb]
  exact decide_eq_true (by omega)

/-- The elements of a one-beat job, with their bits and flags. -/
def jobElems (t : Tile) (j : VJob) : List (Nat × Nat × Flags) := (List.range j.count).map fun i => (i, t.vElem j i 0)

theorem jobElems_congr {t u : Tile} (h : u.spad = t.spad) (j : VJob) : jobElems u j = jobElems t j := by
  unfold jobElems
  exact List.map_congr_left fun i _ => by rw [vElem_congr h]

/-- The beat of an element-wise job without random draws. -/
theorem runBeat_elem {t : Tile} {j : VJob} (hop : j.op ∈ elemOps) (hb : j.beat = 0) (hn : j.count ≤ 64) (hr : j.md.rnd ≠ .sr) :
    t.runBeat j = (t.count 6 2 1).schedV j (j.writeAt 0) ((jobElems t j).flatMap fun e => j.dst.elemWrite e.1 e.2.1)
      ((jobElems t j).foldl (fun f e => f ||| e.2.2) 0) := by
  have hlast := isLast_of_one_beat hb hn
  have hbeat : t.runBeat j = ((t.count 6 2 1).beatElems j).1 := by
    unfold Tile.runBeat
    dsimp only
    rw [if_pos hlast]
    split
    iterate 8
      next heq => exact absurd hop (by rw [heq]; decide)
    rfl
  have hv : (t.count 6 2 1).vElem j = t.vElem j := by
    funext i d
    exact vElem_congr rfl j i d
  rw [hbeat]
  unfold Tile.beatElems VJob.draws orFlags
  rw [if_neg hr, hb, hv]
  dsimp only
  rw [zip_replicate, List.map_map, lanes_of_one_beat hb hn, List.map_map, List.foldl_map]
  unfold jobElems
  rw [List.foldl_map]
  rfl

theorem foldl_reserveElems (l : List Nat) (f : Nat → Nat) (d : Region) (g : Nat → List Nat) (t : Tile) :
    ∃ r, l.foldl (fun t b => t.reserveElems (f b) d (g b)) t = { t with reserved := r } := by
  induction l generalizing t with
  | nil => exact ⟨t.reserved, rfl⟩
  | cons b l ih => exact ih (t.reserveElems (f b) d (g b))

/-- Taking the pending bits of a job that is no VPART changes nothing else. -/
theorem reserveJob_eq (t : Tile) {j : VJob} (hop : j.op ∈ elemOps) : ∃ r, t.reserveJob j = { t with reserved := r } := by
  unfold Tile.reserveJob
  split
  iterate 4
    exact ⟨_, rfl⟩
  · next heq => exact absurd hop (by rw [heq]; decide)
  · exact ⟨t.reserved, rfl⟩
  · obtain ⟨r, hr⟩ := foldl_reserveElems (List.range (beatsOf j.count)) j.writeAt j.dst
      (fun b => ({ j with beat := b } : VJob).lanes) t
    dsimp only
    rw [hr]
    split
    · exact ⟨_, rfl⟩
    · exact ⟨r, rfl⟩

/-- A job without random draws that names an element takes the pipeline and its pending bits, and its first beat is read. -/
theorem startJob_eq {t : Tile} {j : VJob} (hop : j.op ∈ elemOps) (hn : j.count ≠ 0) :
    ∃ vFree srseed tally reserved, t.startJob j =
      ({ t with vFree := vFree, srseed := srseed, tally := tally, reserved := reserved } : Tile).runBeat j := by
  unfold Tile.startJob
  rw [if_neg hn]
  dsimp only
  obtain ⟨r, hr⟩ := reserveJob_eq ((Tile.advanceSeed { t with vFree := t.cyc + j.ivl * beatsOf j.count } j.drawCount).count 11 2 j.drawCount) hop
  rw [hr]
  exact ⟨_, _, _, _, rfl⟩

/-- Scheduling a job's writes and flags puts them in their place among the slot's words. -/
theorem schedV_pend (t : Tile) (j : VJob) (c : Nat) (l : List (Nat × Byte × Byte)) (f : Flags) : (t.schedV j c l f).pend =
    let p := if l = [] then t.pend else insPend ⟨c, .v, j.iss, j.pc, .spad l⟩ t.pend
    if f = 0 then p else insPend ⟨c, .v, j.iss, j.pc, .vflags f⟩ p := by
  simp only [Tile.schedV, List.isEmpty_iff]
  split_ifs <;> rfl

/-- It changes nothing else. -/
theorem schedV_eq (t : Tile) (j : VJob) (c : Nat) (l : List (Nat × Byte × Byte)) (f : Flags) :
    ∃ p, t.schedV j c l f = { t with pend := p } := by
  unfold Tile.schedV
  dsimp only
  split <;> split <;> exact ⟨_, rfl⟩

/-- Settles O19: the job's first beat is its last, and schedules its elements' writes. -/
theorem regionWordWritesItsElements : Obligations.RegionWordWritesItsElements := by
  unfold Obligations.RegionWordWritesItsElements
  intro t j hb hiss hn hr hop es ws fl u
  by_cases h0 : j.count = 0
  · have hu : u = t := by
      have hpart : j.op ≠ .part := fun h => absurd hop (by rw [h]; decide)
      exact (if_pos h0).trans (if_neg hpart)
    rw [hu]
    exact ⟨fun _ => rfl, fun h => absurd h0 h, rfl, rfl, rfl, rfl, rfl, fun _ => ⟨rfl, rfl, rfl⟩⟩
  · obtain ⟨vFree, srseed, tally, reserved, hu⟩ := startJob_eq (t := t) hop h0
    have he : jobElems { t with vFree := vFree, srseed := srseed, tally := tally, reserved := reserved } j = jobElems t j :=
      jobElems_congr rfl j
    rw [runBeat_elem hop hb hn hr, he] at hu
    refine ⟨fun h => absurd h h0, fun _ => ?_, ?_⟩
    · show (t.startJob j).pend = _
      rw [hu, schedV_pend, VJob.writeAt, Nat.mul_zero, Nat.add_zero, hiss]
      rfl
    · show (t.startJob j).vjobs = _ ∧ (t.startJob j).spad = _ ∧ (t.startJob j).flags = _ ∧ (t.startJob j).x = _ ∧
        (t.startJob j).eng = _ ∧ ∀ k, ((t.startJob j).slot k).s = _ ∧ ((t.startJob j).slot k).g = _ ∧ ((t.startJob j).slot k).pc = _
      rw [hu]
      obtain ⟨p, hp⟩ := schedV_eq (Tile.count { t with vFree := vFree, srseed := srseed, tally := tally, reserved := reserved } 6 2 1) j
        (j.writeAt 0) ((jobElems t j).flatMap fun e => j.dst.elemWrite e.1 e.2.1) ((jobElems t j).foldl (fun f e => f ||| e.2.2) 0)
      rw [hp]
      exact ⟨rfl, rfl, rfl, rfl, rfl, fun k => by cases k <;> exact ⟨rfl, rfl, rfl⟩⟩

end Sys2Proof.Laws
end

section

/-! # DEQ (10 R188 to R204) -/

namespace Sys2Proof.Laws
open Sys2Proof.Machine Sys2Proof.Claim

theorem markLeaves_of_not_mark {t : Tile} {e : QEnt} (h : e.kind.isMark = false) : t.markLeaves e = false := by
  unfold Tile.markLeaves
  cases hk : e.kind with
  | mark m => rw [hk] at h; exact absurd h.symm Bool.false_ne_true
  | load _ _ => exact Bool.and_false _
  | store _ => exact Bool.and_false _
  | atom _ _ _ => exact Bool.and_false _
  | pf => exact Bool.and_false _

section
variable {s : State} {n : Nat} {store : Bool} {e : QEnt} {l : List QEnt} (hn : n < 256)
  (hq : (if store then (s.tile n).saq else (s.tile n).laq).filterMap (s.tile n).ent = e :: l)
include hn hq

theorem deq_mark (h : (s.tile n).markLeaves e = true) : exec (.deq n store) s = .next (s.setTile n ((s.tile n).dropEnt e.id)) := by
  rw [exec_deq, execDeq, Nat.mod_eq_of_lt hn]
  dsimp only
  rw [hq]
  exact if_pos h

/-- An access at the front of a queue leaves where its address is known and the order lets it, and stays otherwise. -/
theorem deq_access (hk : e.kind.isMark = false) : exec (.deq n store) s =
    match e.tr with
    | .ok pa =>
      if (s.tile n).mayDeq e then
        let t := ((s.tile n).dropEnt e.id).raise e.id e.kind.leaveLvl
        if e.kind = .pf then .next (s.setTile n (t.settle e.id))
        else
          let a := entryAcc n e pa
          let s' := (s.setTile n t).sendAcc a
          .next (if homeParty pa = partyOf (dieOf n) then
              s'.atomEvent a (match e.kind with
                | .atom _ _ r => r
                | _ => true) 0 7
            else s')
      else .next s
    | _ => .next s := by
  have htw : (e :: l).takeWhile (·.kind.isMark) = [] := List.takeWhile_cons_of_neg (by rw [hk]; exact Bool.false_ne_true)
  have hf : (e :: l).find? (fun e => !e.kind.isMark) = some e := List.find?_cons_of_pos (by rw [hk]; rfl)
  rw [exec_deq, execDeq, Nat.mod_eq_of_lt hn]
  dsimp only
  rw [hq]
  dsimp only [List.head?_cons]
  rw [if_neg (by rw [markLeaves_of_not_mark hk]; exact Bool.false_ne_true), htw]
  dsimp only [List.find?_nil]
  rewrite [hf]
  rfl

end

/-- A change of a tile that keeps its queues keeps them in the package. -/
theorem modTile_queues (s : State) (m n : Nat) {f : Tile → Tile} (hf : ∀ t, (f t).laq = t.laq ∧ (f t).saq = t.saq) :
    ((s.modTile m f).tile n).laq = (s.tile n).laq ∧ ((s.modTile m f).tile n).saq = (s.tile n).saq := by
  unfold State.modTile
  rcases eq_or_ne n m with rfl | h
  · rw [State.tile_setTile]
    exact hf _
  · rw [State.tile_setTile_ne _ _ _ _ h]
    exact ⟨rfl, rfl⟩

theorem use_queues (t : Tile) (e : Nat) : (t.use e).laq = t.laq ∧ (t.use e).saq = t.saq := by
  unfold Tile.use
  split <;> exact ⟨rfl, rfl⟩

theorem sendAcc_queues (s : State) (a : Acc) (n : Nat) :
    ((s.sendAcc a).tile n).laq = (s.tile n).laq ∧ ((s.sendAcc a).tile n).saq = (s.tile n).saq :=
  modTile_queues s.newId.2 a.tile n fun t => use_queues t _

theorem atomEvent_queues (s : State) (a : Acc) (ret : Bool) (num party n : Nat) :
    ((s.atomEvent a ret num party).tile n).laq = (s.tile n).laq ∧ ((s.atomEvent a ret num party).tile n).saq = (s.tile n).saq := by
  unfold State.atomEvent
  split
  · exact modTile_queues _ _ _ fun _ => ⟨rfl, rfl⟩
  · exact ⟨rfl, rfl⟩

theorem atomEvent_paths (s : State) (a : Acc) (ret : Bool) (num party : Nat) : (s.atomEvent a ret num party).paths = s.paths := by
  unfold State.atomEvent
  split <;> rfl

/-- An access joins the tail of its mesh path. -/
theorem sendAcc_paths (s : State) (a : Acc) :
    tget (s.sendAcc a).paths [] (pathKey (dieOf a.tile) (endOf a.tile)
      (if homeParty a.pa = partyOf (dieOf a.tile) then sliceEnd a.pa else portEnd)) =
    tget s.paths [] (pathKey (dieOf a.tile) (endOf a.tile)
      (if homeParty a.pa = partyOf (dieOf a.tile) then sliceEnd a.pa else portEnd)) ++ [accPkt s.ids a] := by
  have hend : (if (accPkt s.ids a).dstP = partyOf (dieOf a.tile) then (accPkt s.ids a).dstE else portEnd) =
      if homeParty a.pa = partyOf (dieOf a.tile) then sliceEnd a.pa else portEnd := by
    refine if_ctx_congr Iff.rfl (fun h => ?_) fun _ => rfl
    refine if_neg fun hh => ?_
    have h : homeParty a.pa = partyOf (dieOf a.tile) := h
    unfold homeParty partyOf at h
    rw [if_pos hh] at h
    exact absurd h (by omega)
  unfold State.sendAcc State.launch State.path
  dsimp only [State.newId]
  rw [hend]
  exact tget_tset_same _ _ _ _

theorem not_mem_dropEnt (t : Tile) (id : Nat) : id ∉ (t.dropEnt id).laq ∧ id ∉ (t.dropEnt id).saq := by
  constructor <;> exact fun h => absurd (List.mem_filter.1 h).2 (by simp)

/-- Two entries that no class of theirs binds, though they overlap, are of two classes, neither of them 0. -/
theorem classes_of_not_bound {x e : QEnt} (h : bound x e = false) (ho : overlaps x e = true) :
    x.cls ≠ e.cls ∧ x.cls ≠ 0 ∧ e.cls ≠ 0 := by
  unfold bound at h
  rw [ho, Bool.and_true] at h
  simpa [and_assoc] using h

/-- An entry that may leave is bound to no older access of the other kind that stands in the other queue. -/
theorem inTurn_of_mayDeq {t : Tile} {e : QEnt} (h : t.mayDeq e = true) : t.inTurn e = true := (Bool.and_eq_true_iff.1 h).2

theorem not_bound_store {t : Tile} {e x : QEnt} (h : t.mayDeq e = true) (hl : e.kind.isLoad = true) (hx : x ∈ t.saq.filterMap t.ent)
    (hid : x.id < e.id) (hw : x.kind.writes = true) : bound x e = false := by
  have h := inTurn_of_mayDeq h
  unfold Tile.inTurn at h
  have h := (Bool.and_eq_true_iff.1 h).2
  rw [if_pos hl, List.all_eq_true] at h
  exact Bool.not_eq_true' _ ▸ h x (List.mem_filter.2 ⟨hx, by simp [hid, hw]⟩)

theorem not_bound_load {t : Tile} {e x : QEnt} (h : t.mayDeq e = true) (hl : e.kind.isLoad = false) (hx : x ∈ t.laq.filterMap t.ent)
    (hid : x.id < e.id) (hw : x.kind.isLoad = true) : bound x e = false := by
  have h := inTurn_of_mayDeq h
  unfold Tile.inTurn at h
  have h := (Bool.and_eq_true_iff.1 h).2
  rw [if_neg (by rw [hl]; exact Bool.false_ne_true), List.all_eq_true] at h
  exact Bool.not_eq_true' _ ▸ h x (List.mem_filter.2 ⟨hx, by simp [hid, hw]⟩)

/-- Settles O41: DEQ by what stands at the front of the queue. -/
theorem queueFrontsLeave : Obligations.QueueFrontsLeave := by
  unfold Obligations.QueueFrontsLeave
  intro s n store e l pa hn t go key hq
  refine ⟨deq_mark hn hq, fun hk hpf htr hd => ?leaves, fun hpf htr hd => ?pf, fun hk hd => ?stays,
    fun hd hl x hx hid hw ho => classes_of_not_bound (not_bound_store hd hl hx hid hw) ho,
    fun hd hl x hx hid hw ho => classes_of_not_bound (not_bound_load hd hl hx hid hw) ho⟩
  case leaves =>
    have hgo := deq_access hn hq hk
    rw [htr] at hgo
    dsimp only at hgo
    rw [if_pos hd, if_neg hpf] at hgo
    have hlaq : (((s.setTile n (((s.tile n).dropEnt e.id).raise e.id e.kind.leaveLvl)).sendAcc (entryAcc n e pa)).tile n).laq =
        ((s.tile n).dropEnt e.id).laq ∧ (((s.setTile n (((s.tile n).dropEnt e.id).raise e.id e.kind.leaveLvl)).sendAcc
          (entryAcc n e pa)).tile n).saq = ((s.tile n).dropEnt e.id).saq := by
      rw [(sendAcc_queues _ _ n).1, (sendAcc_queues _ _ n).2, State.tile_setTile]
      exact ⟨rfl, rfl⟩
    have hpath := sendAcc_paths (s.setTile n (((s.tile n).dropEnt e.id).raise e.id e.kind.leaveLvl)) (entryAcc n e pa)
    have hout := not_mem_dropEnt (s.tile n) e.id
    refine ⟨_, hgo, ?_⟩
    split
    · rw [(atomEvent_queues _ _ _ _ _ n).1, (atomEvent_queues _ _ _ _ _ n).2, atomEvent_paths, hlaq.1, hlaq.2]
      exact ⟨hout.1, hout.2, congrArg Prod.fst (by simp : (_ : State).mem = s.mem), congrArg Prod.snd (by simp : (_ : State).mem = s.mem), hpath⟩
    · rw [hlaq.1, hlaq.2]
      exact ⟨hout.1, hout.2, congrArg Prod.fst (by simp : (_ : State).mem = s.mem), congrArg Prod.snd (by simp : (_ : State).mem = s.mem), hpath⟩
  case pf =>
    have hgo := deq_access hn hq (by rw [hpf]; rfl)
    rw [htr] at hgo
    dsimp only at hgo
    rw [if_pos hd, if_pos hpf, hpf] at hgo
    exact hgo
  case stays =>
    refine (deq_access hn hq hk).trans ?_
    split
    · exact if_neg (by rw [show (s.tile n).mayDeq e = false from hd]; exact Bool.false_ne_true)
    · rfl

end Sys2Proof.Laws
end

section

/-! # Translation and RETURN (11 R221 to R229, 18 R341 to R343) -/

namespace Sys2Proof.Laws
open Sys2Proof.Machine Sys2Proof.Claim

/-- The first-level TLB answers at once. -/
theorem translate_of_tlb {s : State} {n : Nat} {va : W64} {u : Use} {x : TlbE} (h : fld va 56 8 = 0)
    (hx : tlbFind (s.tile n).tlb (s.asidOf (s.tile n)) va.toNat = some x) :
    s.translate n va u = (.of (permit u x va.toNat), s) := by
  unfold State.translate
  dsimp only
  rw [if_neg (not_not_intro h), hx]

/-- An address beyond 56 bits faults with KIND 4. -/
theorem translate_of_high {s : State} {n : Nat} {va : W64} {u : Use} (h : fld va 56 8 ≠ 0) : s.translate n va u = (.fault 4, s) := by
  unfold State.translate
  dsimp only
  rw [if_pos h]

/-- What the answer to an entry's translation does to its tile. -/
def entryAnswer (s : State) (n : Nat) (e : QEnt) : TrRes → Out3
  | .miss => .next s
  | .ok pa => .next (s.modTile n fun t => t.setTrans e.id (.ok pa))
  | .fault f => .next (s.modTile n fun t => if e.kind = .pf then (t.dropEnt e.id).settle e.id else t.setTrans e.id (.faulted f))

theorem entryTranslate_eq {s : State} {n : Nat} {store : Bool} {i : Nat} {e : QEnt} (hn : n < 256)
    (he : ((if store then (s.tile n).saq else (s.tile n).laq)[i]?).bind (s.tile n).ent = some e) (ht : e.tr = .pending)
    (hk : e.kind.isMark = false) : exec (.entryTranslate n store i) s =
      entryAnswer (s.translate n e.va e.kind.use).2 n e (s.translate n e.va e.kind.use).1 := by
  rw [exec_entryTranslate, execEntryTranslate, Nat.mod_eq_of_lt hn]
  dsimp only
  rw [he]
  dsimp only
  rw [if_neg (not_not_intro ht)]
  unfold entryAnswer
  split
  · next h => rw [h] at hk; exact absurd hk.symm Bool.false_ne_true
  · cases (s.translate n e.va e.kind.use).1 <;> rfl

theorem permit_held {u : Use} {x : TlbE} {v : Nat} (h : bitAt x.leaf 4 = true) : permit u x v = .inr 3 := if_pos h

theorem permit_of_not_held {u : Use} {x : TlbE} {v : Nat} (h : bitAt x.leaf 4 = false) : permit u x v =
    let pa := fld x.leaf 12 40 * 4096 + v % x.size
    match u with
    | .read => .inl pa
    | .write => if bitAt x.leaf 2 then .inl pa else .inr 2
    | .atomic => if hostBase ≤ pa then .inr 3 else if bitAt x.leaf 2 && bitAt x.leaf 3 then .inl pa else .inr 2 :=
  if_neg (by rw [h]; exact Bool.false_ne_true)

theorem handOver_of_not_mig {s : State} {l : TlbE} (h : bitAt l.leaf 5 = false) : s.handOver l = s :=
  if_neg (by rw [h]; exact Bool.false_ne_true)

theorem mem_handOver {s : State} {l : TlbE} (h5 : bitAt l.leaf 5 = true) (h4 : bitAt l.leaf 4 = false) (hr : l.range.1 < hostBase)
    (hm : l ∉ s.mig) : l ∈ (s.handOver l).mig := by
  unfold State.handOver
  rw [if_pos (by simp [h5, h4, hr, hm])]
  exact List.mem_append_right _ (List.mem_singleton.2 rfl)

section
variable {s : State} {d asid va : Nat} {w : WalkReq} (hd : d < 4)
  (hw : ((s.die d).walks.find? fun w => w.asid == asid && w.va / 65536 == va / 65536) = some w)
include hd hw

theorem pageWalk_leaf {l : TlbE} (hl : s.walk asid w.va = .leaf l) : exec (.pageWalk d asid va) s =
    .next ((s.handOver l).setDie d { (s.handOver l).die d with
      walks := (s.die d).walks.filter fun v => !(v == w)
      found := ((s.handOver l).die d).found ++ [⟨w.tile, asid, w.va, .inl l⟩]
      tlb2 := if w.keep then tlbHold ((s.handOver l).die d).tlb2 4096 l else ((s.handOver l).die d).tlb2 }) := by
  rw [exec_pageWalk, execPageWalk, Nat.mod_eq_of_lt hd]
  dsimp only
  rw [hw]
  dsimp only
  rw [hl]

theorem pageWalk_fault {k : Nat} {note : WalkNote} (hl : s.walk asid w.va = .fault k note) : exec (.pageWalk d asid va) s =
    .next ((s.setDie d { s.die d with
      walks := (s.die d).walks.filter fun v => !(v == w)
      found := (s.die d).found ++ [⟨w.tile, asid, w.va, .inr k⟩] }).walkNote (partyOf d) w.tile
        (((s.partAsid asid).map (·.1)).getD 64) note) := by
  rw [exec_pageWalk, execPageWalk, Nat.mod_eq_of_lt hd]
  dsimp only
  rw [hw]
  dsimp only
  rw [hl]
  rfl

end

/-- An event of a die is in its ring alone. -/
theorem dieEvent_dies (s : State) (p : Nat) (part : Option Nat) (type addr info : Nat) :
    (s.dieEvent p part type addr info).dies = s.dies := by
  unfold State.dieEvent State.dieRecord State.partyCycles State.ring
  rfl

theorem walkNote_dies (s : State) (party unit part : Nat) (note : WalkNote) :
    (s.walkNote party unit part note).dies = s.dies := by
  unfold State.walkNote
  split
  · next ty addr info =>
    have h : (if ty = 0 then s else s.dieEvent party (if part < 64 then some part else none) ty addr info).dies = s.dies := by
      split
      · rfl
      · exact dieEvent_dies _ _ _ _ _ _
    dsimp only
    generalize (if ty = 0 then s else s.dieEvent party (if part < 64 then some part else none) ty addr info) = u at h ⊢
    repeat' split
    all_goals exact h
  · rfl

/-- The value that an LQ entry takes from its answer. -/
def returned (l : LqEnt) : Ans → LqVal
  | .val b => .val (if l.sgn then w64i (signed (8 * l.w) (fromLe b)) else w64 (fromLe b))
  | .failed c => .failed c l.va

theorem returnVal_eq {s : State} {n : Nat} {l : LqEnt} {ans : Ans} (hn : n < 256)
    (hl : ((s.tile n).lq.find? fun e => e.val == .waiting) = some l)
    (hb : ((s.tile n).back.find? fun b => b.1 == l.id) = some (l.id, ans)) : exec (.returnVal n) s =
      .next (s.setTile n { ((s.tile n).countMove 8 0 1) with
        back := (s.tile n).back.filter fun b => b.1 != l.id
        lq := (s.tile n).lq.map fun y => if y.id = l.id then { y with val := returned l ans } else y }) := by
  rw [exec_returnVal, execReturnVal, Nat.mod_eq_of_lt hn]
  dsimp only
  rw [hl]
  dsimp only
  split
  · next h => exact absurd (hb.symm.trans h) (Option.some_ne_none _)
  · next h =>
    rw [hb] at h
    cases h
    cases ans <;> rfl

/-- Settles O42: translation by the TLB and by a walk, what a permission forbids, and RETURN. -/
theorem translationAndReturn : Obligations.TranslationAndReturn := by
  unfold Obligations.TranslationAndReturn
  intro s n e x pa k hn t v at_ drop
  refine ⟨fun store i he ht hk => ?_, fun u h => permit_held h, permit_of_not_held, permit_of_not_held, fun h hp => ?_, fun h hp hb => ?_,
    fun h hp h2 h3 => ?_, fun d asid va w hd hw => ⟨fun l hl => ⟨pageWalk_leaf hd hw hl, handOver_of_not_mig, mem_handOver⟩, fun note hl => ?_⟩,
    fun l ans hl hb => (returnVal_eq hn hl hb).trans (by cases ans <;> rfl)⟩
  · have hgo := entryTranslate_eq hn he ht hk
    refine ⟨fun h56 hx => ?_, fun h56 hpf => ?_, fun h56 hpf => ?_⟩
    · rw [translate_of_tlb h56 hx] at hgo
      refine ⟨fun hp => ?_, fun hp hpf => ?_, fun hp hpf => ?_⟩
      · exact hgo.trans (by rw [hp]; rfl)
      · exact hgo.trans (by rw [hp]; exact congrArg (fun t => Host.Outcome.next (s.setTile n t)) (if_neg hpf))
      · exact hgo.trans (by rw [hp]; exact congrArg (fun t => Host.Outcome.next (s.setTile n t)) (if_pos hpf))
    · rw [translate_of_high h56] at hgo
      exact hgo.trans (congrArg (fun t => Host.Outcome.next (s.setTile n t)) (if_neg hpf))
    · rw [translate_of_high h56] at hgo
      exact hgo.trans (congrArg (fun t => Host.Outcome.next (s.setTile n t)) (if_pos hpf))
  · exact (permit_of_not_held h).trans (if_pos hp)
  · exact (permit_of_not_held h).trans ((if_neg (Nat.not_le.2 hp)).trans (if_neg (by rcases hb with hb | hb <;> simp [hb])))
  · exact (permit_of_not_held h).trans ((if_neg (Nat.not_le.2 hp)).trans (if_pos (by rw [h2, h3]; rfl)))
  · refine ⟨_, pageWalk_fault hd hw hl, ?_⟩
    unfold State.die
    rw [walkNote_dies]
    unfold State.setDie
    dsimp only
    rw [tget_tset_same]
    exact ⟨rfl, rfl, congrArg Prod.fst (by simp : (_ : State).mem = s.mem)⟩

end Sys2Proof.Laws
end

section

/-! # HOP of an answer that has failed (10 R188, 20 R379) -/

namespace Sys2Proof.Laws
open Sys2Proof.Machine Sys2Proof.Claim

/-- A load of tile 5 whose answer is on the last mesh path of die 0, and failed because its bytes are poisoned. -/
def poisonedLoad : Acc := ⟨0, 5, 0, .read 8, .norm, .entry 0, 0⟩

def poisonedAnswer : Pkt := ⟨0, .resp poisonedLoad (.failed 1) none, 1, 5⟩

/-- The package in which tile 5 awaits that load. -/
def poisonedState : State :=
  { (State.reset.setTile 5 { Tile.reset with lq := [⟨0, 0, 8, false, .waiting⟩] }) with
    paths := [(pathKey 0 64 5, [poisonedAnswer])] }

/-- The events that an outcome leaves in tile 5. -/
def eventsOf : Out3 → Nat
  | .next r => (r.tile 5).evs.length
  | .fault _ | .refused _ => 0

/-- The poisoned answer leaves its POISON event beside the answer itself. -/
theorem eventsOf_hop : eventsOf (exec (.hop 0 (81 * 64 + 5) true) poisonedState) = 1 := by decide

/-- Refutes O43: an answer that failed by poison writes its POISON event in the tile's ring as it reaches an access that awaits it
(20 R379), which the clause of HOP at a tile, stated for every answer, leaves out. -/
theorem not_packetMoves : ¬ Obligations.PacketMoves := by
  unfold Obligations.PacketMoves
  intro h
  obtain ⟨hhop, -⟩ := h poisonedState true
  obtain ⟨-, -, -, -, htile⟩ := hhop 0 64 5 poisonedAnswer [] (by decide) (by decide) (by decide) rfl
  have hgo := congrArg eventsOf (htile (by decide) rfl poisonedLoad (.failed 1) 0 rfl rfl)
  rw [eventsOf_hop] at hgo
  exact absurd hgo (by decide)

end Sys2Proof.Laws
end

section

/-! # Homes and the host's accesses (10 R195, R207, 11 R212, R227) -/

namespace Sys2Proof.Laws
open Sys2Proof.Machine Sys2Proof.Claim

/-! ### What an access does to the L2 of its home -/

/-- Lines written back: no more than free choices, poison and errors. -/
theorem writeLines_eq (s : State) (d : Nat) (l : List Nat) :
    ∃ free poison errs, s.writeLines d l = { s with free := free, poison := poison, errs := errs } := by
  unfold State.writeLines
  induction l generalizing s with
  | nil => exact ⟨s.free, s.poison, s.errs, rfl⟩
  | cons x l ih =>
    rw [List.foldl_cons]
    dsimp only [State.freeBool]
    split
    · obtain ⟨f, p, e, h⟩ := ih ((State.taint { s with free := s.free + 1 } (x * 128) 4).report 2 3 (unitParty (partyOf d)) 0 (x * 128) 0)
      exact ⟨f, p, e, h⟩
    · obtain ⟨f, p, e, h⟩ := ih { s with free := s.free + 1 }
      exact ⟨f, p, e, h⟩

/-- The L2's lines, counts and write-backs are all that an access's meeting it changes. -/
theorem touchL2_eq (s : State) (d : Nat) (a : Acc) : ∃ dies dcnt free poison errs,
    s.touchL2 d a = { s with dies := dies, dcnt := dcnt, free := free, poison := poison, errs := errs } := by
  unfold State.touchL2
  split
  · exact ⟨s.dies, s.dcnt, s.free, s.poison, s.errs, rfl⟩
  · obtain ⟨f, p, e, h⟩ := writeLines_eq ((s.modDie d fun x => x.l2Touch a).dieCount (partyOf d)
      (if (s.die d).l2.any fun e => e.line == lineOf a.pa then 1 else 2) 1) d ((s.die d).spilled a)
    exact ⟨_, _, f, p, e, h⟩

theorem writeLines_homes (s : State) (h : Tab (List Pkt)) (d : Nat) (l : List Nat) :
    ({ s with homes := h } : State).writeLines d l = { s.writeLines d l with homes := h } := by
  unfold State.writeLines
  induction l generalizing s with
  | nil => rfl
  | cons x l ih =>
    rw [List.foldl_cons, List.foldl_cons]
    dsimp only [State.freeBool]
    split
    · exact ih ((State.taint { s with free := s.free + 1 } (x * 128) 4).report 2 3 (unitParty (partyOf d)) 0 (x * 128) 0)
    · exact ih { s with free := s.free + 1 }

/-- The L2 does not see what waits at its home. -/
theorem touchL2_homes (s : State) (h : Tab (List Pkt)) (d : Nat) (a : Acc) :
    ({ s with homes := h } : State).touchL2 d a = { s.touchL2 d a with homes := h } := by
  by_cases hg : s.dieGone d = true
  · exact (if_pos hg).trans (congrArg (fun r : State => { r with homes := h }) (if_pos hg).symm)
  · refine (if_neg hg).trans (Eq.trans ?_ (congrArg (fun r : State => { r with homes := h }) (if_neg hg).symm))
    exact writeLines_homes ((s.modDie d fun x => x.l2Touch a).dieCount (partyOf d)
      (if (s.die d).l2.any fun e => e.line == lineOf a.pa then 1 else 2) 1) h d ((s.die d).spilled a)

theorem spilled_clean {x : DieSt} {a : Acc} {m : Nat} (ha : a.op = .read m) (h : ∀ e ∈ x.l2, e.dirty = false) : x.spilled a = [] := by
  unfold DieSt.spilled
  rw [ha]
  dsimp only
  rw [List.append_nil, List.filter_eq_nil_iff.2, List.map_nil]
  intro e he
  rw [h e he]
  exact Bool.false_ne_true

theorem touchL2_poison_clean {s : State} {d : Nat} {a : Acc} {m : Nat} (ha : a.op = .read m) (h : ∀ e ∈ (s.die d).l2, e.dirty = false) :
    (s.touchL2 d a).poison = s.poison := by
  unfold State.touchL2
  split
  · rfl
  · rw [spilled_clean ha h]
    rfl

/-! ### Reading what has been written -/

theorem readPa_low {s : State} {x : Nat} (h : x < hostBase) : s.readPa x 1 = [readByte s.dmem x] := if_neg (Nat.not_le.2 h)

theorem readPa_high {s : State} {x : Nat} (h : hostBase ≤ x) : s.readPa x 1 = [readByte s.hmem (x - hostBase)] := if_pos h

/-- What a write leaves of memory: its bytes at their addresses, and every other byte as it stands. -/
def Wrote (s r : State) (pa : Nat) (l : List Byte) : Prop :=
  (∀ j (h : j < l.length), r.readPa (pa + j) 1 = [l[j]]) ∧
    ∀ x, x < pa ∨ pa + l.length ≤ x → r.readPa x 1 = s.readPa x 1

theorem wrote_low {s r : State} {pa : Nat} {l : List Byte} (hwf : Memory.wf s.dmem = true) (hpa : pa + l.length ≤ hostBase)
    (hd : r.dmem = writeBytes s.dmem pa l) (hh : r.hmem = s.hmem) : Wrote s r pa l := by
  refine ⟨fun j hj => ?_, fun x hx => ?_⟩
  · rw [readPa_low (by omega), hd, readByte_writeBytes _ _ hwf _ hj]
  · rcases Nat.lt_or_ge x hostBase with h | h
    · rw [readPa_low h, readPa_low h, hd, readByte_writeBytes_ne _ hx]
    · rw [readPa_high h, readPa_high h, hh]

theorem wrote_high {s r : State} {pa : Nat} {l : List Byte} (hwf : Memory.wf s.hmem = true) (hpa : hostBase ≤ pa)
    (hd : r.dmem = s.dmem) (hh : r.hmem = writeBytes s.hmem (pa - hostBase) l) : Wrote s r pa l := by
  refine ⟨fun j hj => ?_, fun x hx => ?_⟩
  · rw [readPa_high (by omega), hh, show pa + j - hostBase = pa - hostBase + j by omega, readByte_writeBytes _ _ hwf _ hj]
  · rcases Nat.lt_or_ge x hostBase with h | h
    · rw [readPa_low h, readPa_low h, hd]
    · rw [readPa_high h, readPa_high h, hh, readByte_writeBytes_ne _ (by omega)]

theorem readPa_congr {s r : State} (h : r.mem = s.mem) (pa n : Nat) : r.readPa pa n = s.readPa pa n := by
  unfold State.readPa
  rw [show r.dmem = s.dmem from congrArg Prod.fst h, show r.hmem = s.hmem from congrArg Prod.snd h]

/-! ### PERFORM -/

section
variable {s : State} {d i : Nat} {p : Pkt} {a : Acc} (hd : d < 4) (hi : (tget s.homes [] d)[i]? = some p) (hp : p.body = .req a)
include hd hi hp

theorem perform_waits (h : ∃ q ∈ (tget s.homes [] d).take i, ∃ b, q.body = .req b ∧ lineOf b.pa = lineOf a.pa) :
    exec (.perform d i) s = .next s := by
  obtain ⟨q, hq, b, hb, hl⟩ := h
  rw [exec_perform, execPerform, Nat.mod_eq_of_lt hd]
  dsimp only
  rw [hi]
  dsimp only
  rw [hp]
  refine if_pos (List.any_eq_true.2 ⟨b, List.mem_filterMap.2 ⟨q, hq, ?_⟩, by rw [hl]; exact beq_self_eq_true _⟩)
  rw [hb]

theorem perform_first (h : ∀ q ∈ (tget s.homes [] d).take i, ∀ b, q.body = .req b → lineOf b.pa ≠ lineOf a.pa) :
    exec (.perform d i) s =
      .next (({ s with homes := tset s.homes d ((tget s.homes [] d).eraseIdx i) } : State).applyAcc d p.dstE p.id a) := by
  rw [exec_perform, execPerform, Nat.mod_eq_of_lt hd]
  dsimp only
  rw [hi]
  dsimp only
  rw [hp]
  refine if_neg fun hany => ?_
  obtain ⟨b, hb, hl⟩ := List.any_eq_true.1 hany
  obtain ⟨q, hq, hqb⟩ := List.mem_filterMap.1 hb
  split at hqb
  · next a' hbody =>
    cases hqb
    exact h q hq _ hbody (beq_iff_eq.1 hl)
  · exact absurd hqb.symm (Option.some_ne_none _)

end

/-- The path by which an answer leaves a die's end towards the tile of its access. -/
def answerKey (d src : Nat) (a : Acc) : Nat :=
  pathKey d src (if partyOf (dieOf a.tile) = partyOf d then endOf a.tile else portEnd)

theorem reply_paths (s : State) (d src : Nat) (a : Acc) (ans : Ans) (line : Option (List Byte)) (id : Nat) :
    tget (s.reply d src a ans line id).paths [] (answerKey d src a) = tget s.paths [] (answerKey d src a) ++
      [⟨id, .resp a ans line, partyOf (dieOf a.tile), endOf a.tile⟩] := by
  unfold State.reply State.launch State.path answerKey
  exact tget_tset_same _ _ _ _

/-- A read at its home answers with the bytes that stand, or with a failure, and changes nothing but counts on its way. -/
theorem applyAcc_read {s : State} {d src id n : Nat} {a : Acc} (ha : a.op = .read n) : ∃ (u : State) (line : Option (List Byte)),
    s.applyAcc d src id a = u.reply d src a (if (s.touchL2 d a).poisoned a.pa n then .failed 1 else .val (s.readPa a.pa n)) line id ∧
      u.paths = s.paths ∧ u.homes = s.homes ∧ u.mem = s.mem := by
  obtain ⟨dies, dcnt, free, poison, errs, ht⟩ := touchL2_eq s d a
  have hr : (s.touchL2 d a).readPa a.pa n = s.readPa a.pa n := readPa_congr (by simp) _ _
  unfold State.applyAcc
  rw [ha]
  dsimp only
  unfold State.homeRead
  rw [hr]
  split
  · exact ⟨_, _, rfl, by rw [ht]; rfl, by rw [ht]; rfl, by simp⟩
  · exact ⟨_, _, rfl, by rw [ht]; rfl, by rw [ht]; rfl, by simp⟩

/-- A write at its home writes its bytes. -/
theorem applyAcc_write {s : State} {d src id : Nat} {a : Acc} {b : List Byte} (ha : a.op = .write b) :
    (s.applyAcc d src id a).mem = (s.writePa a.pa b).mem := by
  obtain ⟨dies, dcnt, free, poison, errs, ht⟩ := touchL2_eq s d a
  unfold State.applyAcc
  rw [ha]
  dsimp only
  rw [ht]
  unfold State.homeWrite State.writePa
  split <;> rfl

/-- Memory after a far atomic: its new value, where it has one. -/
def atomMem (s : State) (a : Acc) (w : Nat) (v : Option Nat) : State :=
  match v with
  | some v => s.writePa a.pa (leBytes w v)
  | none => s

theorem writePa_congr {s r : State} (h : r.mem = s.mem) (pa : Nat) (l : List Byte) : (r.writePa pa l).mem = (s.writePa pa l).mem := by
  have hd : r.dmem = s.dmem := congrArg Prod.fst h
  have hh : r.hmem = s.hmem := congrArg Prod.snd h
  unfold State.writePa State.mem
  split
  · rw [hd, hh]
  · rw [hd, hh]

/-- A far atomic whose bytes are not poisoned writes its new value, and answers with the old one where its value is awaited. -/
theorem applyAcc_atom {s : State} {d src id op w : Nat} {dbl : Bool} {dat : List W64} {a : Acc} (ha : a.op = .atom op dbl dat)
    (hw : (if dbl then 8 else 4) = w) (hbad : (s.touchL2 d a).poisoned a.pa w = false) : ∃ u : State, u.paths = s.paths ∧
      u.mem = (atomMem s a w (atomNew op dbl (fromLe (s.readPa a.pa w)) dat)).mem ∧
      s.applyAcc d src id a = if (s.tile a.tile).awaits a.id then
        u.reply d src a (.val (leBytes w (fromLe (s.readPa a.pa w)))) none id else u := by
  obtain ⟨dies, dcnt, free, poison, errs, ht⟩ := touchL2_eq s d a
  have hr : (s.touchL2 d a).readPa a.pa w = s.readPa a.pa w := readPa_congr (by simp) _ _
  have hawaits : ((s.touchL2 d a).tile a.tile) = s.tile a.tile := by rw [ht]; rfl
  have hmem : (s.touchL2 d a).mem = s.mem := by simp
  have hpaths : (s.touchL2 d a).paths = s.paths := by rw [ht]
  unfold State.applyAcc
  rw [ha]
  dsimp only
  rw [hw, hr, hawaits, hbad]
  generalize s.touchL2 d a = t at *
  cases atomNew op dbl (fromLe (s.readPa a.pa w)) dat with
  | none => exact ⟨t.modTile a.tile fun t => t.settle a.id, hpaths, hmem, rfl⟩
  | some v =>
    refine ⟨(t.homeWrite a.pa (leBytes w v)).modTile a.tile fun t => t.settle a.id, ?_, ?_, rfl⟩
    · refine Eq.trans ?_ hpaths
      unfold State.homeWrite State.writePa
      split <;> rfl
    · exact writePa_congr hmem _ _

/-! ### The host -/

/-- A packet that requests a write. -/
def IsWrite (x : Pkt) : Prop := ∃ y b, x.body = .req y ∧ y.op = .write b

theorem isWrite_of {x : Pkt} (h : (match x.body with
    | .req a => match a.op with
      | .write _ => true
      | _ => false
    | _ => false) = true) : IsWrite x := by
  split at h
  · next y hy =>
    split at h
    · next b hb => exact ⟨y, b, hy, hb⟩
    · exact absurd h Bool.false_ne_true
  · exact absurd h Bool.false_ne_true

section
variable {s : State} {i rid : Nat} {p : Pkt} {a : Acc} (hi : s.pcie[i]? = some (rid, p)) (hp : p.body = .req a)
  (h : ∀ x ∈ s.pcie.take i, ¬ IsWrite x.2)
include hi hp h

theorem hostCompletion_read {n : Nat} (ha : a.op = .read n) : exec (.hostCompletion i) s =
    .next ((({ s with pcie := s.pcie.eraseIdx i } : State).modTile a.tile fun t => t.fixRead a.who).atPort 0 81 ⟨p.id, .resp a
      (if !s.hostTakes rid a.pa then .failed 3 else .val (s.readPa a.pa n)) none, partyOf (dieOf a.tile), endOf a.tile⟩) := by
  rw [exec_hostCompletion, execHostCompletion]
  dsimp only
  rw [hi]
  dsimp only
  rw [if_neg, hp]
  · dsimp only
    rw [ha]
    rfl
  · intro hany
    obtain ⟨x, hx, hpost⟩ := List.any_eq_true.1 hany
    exact h x hx (isWrite_of hpost)

theorem hostCompletion_write {l : List Byte} (ha : a.op = .write l) : exec (.hostCompletion i) s =
    if !s.hostTakes rid a.pa then
      .next ((({ s with pcie := s.pcie.eraseIdx i } : State).reportAt 0 26 14 a.tile a.pa).modTile a.tile fun t => t.unwritten a)
    else .next ((({ s with pcie := s.pcie.eraseIdx i } : State).writePa a.pa l).modTile a.tile fun t => t.wrote a) := by
  rw [exec_hostCompletion, execHostCompletion]
  dsimp only
  rw [hi]
  dsimp only
  rw [if_neg, hp]
  · dsimp only
    rw [ha]
  · intro hany
    obtain ⟨x, hx, hpost⟩ := List.any_eq_true.1 hany
    exact h x hx (isWrite_of hpost)

end

theorem hostWrite_mapped {s : State} {addr : Nat} {b : List Byte} (h : hostBase ≤ addr) :
    exec (.hostWrite addr b) s = .next (s.writePa addr b) := by
  rw [exec_hostWrite, execHostWrite]
  exact if_pos h

theorem hostWrite_journal {s : State} {addr : Nat} {b : List Byte} (h : addr < hostBase) (hj : inJournal addr b.length = true) :
    exec (.hostWrite addr b) s = .next s := by
  rw [exec_hostWrite, execHostWrite]
  refine (if_neg (Nat.not_le.2 h)).trans (if_pos ?_)
  rw [hj, Bool.or_true, Bool.true_or]

theorem hostWrite_pieces {s : State} {addr : Nat} {b : List Byte} (h : addr < hostBase) (hb : backed addr = true)
    (he : backed (addr + b.length - 1) = true) (hj : inJournal addr b.length = false) (hv : (s.party 0).viral = false) :
    exec (.hostWrite addr b) s = .next (s.hostPieces addr b (b.length + 1)) := by
  rw [exec_hostWrite, execHostWrite]
  refine (if_neg (Nat.not_le.2 h)).trans (if_neg ?_)
  rw [hb, he, hj, hv]
  exact Bool.false_ne_true

theorem writePa_low {s : State} {pa : Nat} (h : pa < hostBase) (l : List Byte) :
    (s.writePa pa l).mem = (writeBytes s.dmem pa l, s.hmem) := by
  unfold State.writePa
  rw [if_neg (Nat.not_le.2 h)]
  rfl

theorem writePa_high {s : State} {pa : Nat} (h : hostBase ≤ pa) (l : List Byte) :
    (s.writePa pa l).mem = (s.dmem, writeBytes s.hmem (pa - hostBase) l) := by
  unfold State.writePa
  rw [if_pos h]
  rfl

theorem writePa_pcie (s : State) (pa : Nat) (l : List Byte) : (s.writePa pa l).pcie = s.pcie := by
  unfold State.writePa
  split <;> rfl

theorem atPort_out (s : State) (q src : Nat) (p : Pkt) :
    tget ((s.atPort q src p).party q).out [] src = tget (s.party q).out [] src ++ [p] := by
  unfold State.atPort State.modParty
  rw [State.party, State.setParty, tget_tset_same]
  exact tget_tset_same _ _ _ _

theorem exec_rdcEvict_small {s : State} {d : Nat} (line : Nat) (hd : d < 4) : exec (.rdcEvict d line) s =
    .next (s.setDie d { s.die d with rdc := (s.die d).rdc.filter fun e => e.1 != line }) := by
  rw [exec_rdcEvict, execRdcEvict, Nat.mod_eq_of_lt hd]
  rfl

/-! ### O44 -/

section
variable {s : State} {d i : Nat} {p : Pkt} {a : Acc} (hd : d < 4) (hi : (tget s.homes [] d)[i]? = some p) (hp : p.body = .req a)
  (hfirst : ∀ q ∈ (tget s.homes [] d).take i, ∀ b, q.body = .req b → lineOf b.pa ≠ lineOf a.pa)
include hd hi hp hfirst

theorem perform_read {n : Nat} (ha : a.op = .read n) : ∃ r line, exec (.perform d i) s = .next r ∧ r.dmem = s.dmem ∧
    r.hmem = s.hmem ∧ tget r.paths [] (answerKey d p.dstE a) = tget s.paths [] (answerKey d p.dstE a) ++
      [⟨p.id, .resp a (if (s.touchL2 d a).poisoned a.pa n then .failed 1 else .val (s.readPa a.pa n)) line,
        partyOf (dieOf a.tile), endOf a.tile⟩] ∧
    tget r.homes [] d = (tget s.homes [] d).eraseIdx i := by
  obtain ⟨u, line, happly, hpaths, hhomes, hmem⟩ := applyAcc_read (d := d) (src := p.dstE) (id := p.id)
    (s := { s with homes := tset s.homes d ((tget s.homes [] d).eraseIdx i) }) ha
  rw [touchL2_homes] at happly
  refine ⟨_, line, (perform_first hd hi hp hfirst).trans (congrArg _ happly), ?_, ?_, ?_, ?_⟩
  · exact congrArg Prod.fst ((by simp : (State.mem _) = u.mem).trans hmem)
  · exact congrArg Prod.snd ((by simp : (State.mem _) = u.mem).trans hmem)
  · rw [reply_paths, hpaths]
    rfl
  · exact (congrArg (fun h => tget h [] d) hhomes).trans (tget_tset_same _ _ _ _)

theorem perform_write {l : List Byte} (hdm : Memory.wf s.dmem = true) (hhm : Memory.wf s.hmem = true) (ha : a.op = .write l)
    (hpa : a.pa + l.length ≤ hostBase) : ∃ r, exec (.perform d i) s = .next r ∧ Wrote s r a.pa l := by
  refine ⟨_, perform_first hd hi hp hfirst, ?_⟩
  have hm := (applyAcc_write (d := d) (src := p.dstE) (id := p.id)
    (s := { s with homes := tset s.homes d ((tget s.homes [] d).eraseIdx i) }) ha)
  rcases Nat.lt_or_ge a.pa hostBase with h | h
  · rw [writePa_low h] at hm
    exact wrote_low hdm hpa (congrArg Prod.fst hm) (congrArg Prod.snd hm)
  · rw [writePa_high h] at hm
    exact wrote_high hhm h (congrArg Prod.fst hm) (congrArg Prod.snd hm)

theorem perform_atom {op : Nat} {dbl : Bool} {dat : List W64} (ha : a.op = .atom op dbl dat) (hpa : a.pa + 8 ≤ hostBase) :
    let w := if dbl then 8 else 4
    (s.touchL2 d a).poisoned a.pa w = false → ∃ r, exec (.perform d i) s = .next r ∧
      (∀ v, atomNew op dbl (fromLe (s.readPa a.pa w)) dat = some v → r.dmem = writeBytes s.dmem a.pa (leBytes w v)) ∧
      (atomNew op dbl (fromLe (s.readPa a.pa w)) dat = none → r.dmem = s.dmem) ∧
      ((s.tile a.tile).awaits a.id = true → tget r.paths [] (answerKey d p.dstE a) = tget s.paths [] (answerKey d p.dstE a) ++
        [⟨p.id, .resp a (.val (leBytes w (fromLe (s.readPa a.pa w)))) none, partyOf (dieOf a.tile), endOf a.tile⟩]) := by
  intro w hbad
  obtain ⟨u, hpaths, hmem, happly⟩ := applyAcc_atom (d := d) (src := p.dstE) (id := p.id) (w := w)
    (s := { s with homes := tset s.homes d ((tget s.homes [] d).eraseIdx i) }) ha rfl (by rw [touchL2_homes]; exact hbad)
  have hlow : a.pa < hostBase := by omega
  refine ⟨_, (perform_first hd hi hp hfirst).trans (congrArg _ happly), ?_⟩
  have hdmem : (State.dmem (if (s.tile a.tile).awaits a.id then
      u.reply d p.dstE a (.val (leBytes w (fromLe (s.readPa a.pa w)))) none p.id else u)) = u.dmem := by
    split
    · exact congrArg Prod.fst (by simp : (State.mem _) = u.mem)
    · rfl
  refine ⟨fun v hv => ?_, fun hv => ?_, fun haw => ?_⟩
  · refine hdmem.trans ((congrArg Prod.fst hmem).trans ?_)
    refine (congrArg (fun o => (atomMem _ a w o).mem.1) hv).trans ?_
    exact congrArg Prod.fst (writePa_low hlow _)
  · refine hdmem.trans ((congrArg Prod.fst hmem).trans ?_)
    exact congrArg (fun o => (atomMem _ a w o).mem.1) hv
  · refine (congrArg (fun r : State => tget r.paths [] (answerKey d p.dstE a)) (if_pos haw)).trans ?_
    rw [reply_paths, hpaths]
    rfl

end

/-- Settles O44: PERFORM goes through what its L2 leaves of the state (`touchL2_eq`), a write's bytes are read back by the laws
of memory, and the host's moves are taken case by case. -/
theorem homesAndHostAccesses : Obligations.HomesAndHostAccesses := by
  unfold Obligations.HomesAndHostAccesses
  intro s hdm hhm
  refine ⟨fun d i p a hd hi hp => ?_, fun addr b h => ?_, fun addr b h hb he hj hv => hostWrite_pieces h hb he hj hv,
    fun addr b h hj => hostWrite_journal h hj, fun i rid p a hi hp h => ?_, fun d line hd => exec_rdcEvict_small line hd⟩
  · exact ⟨perform_waits hd hi hp, fun hf m ha => perform_read hd hi hp hf ha,
      fun hf b ha hpa => perform_write hd hi hp hf hdm hhm ha hpa, fun hf op dbl dat ha hpa => perform_atom hd hi hp hf ha hpa,
      fun m ha hc => touchL2_poison_clean ha hc⟩
  · have hm := writePa_high (s := s) h b
    exact ⟨_, hostWrite_mapped h, wrote_high hhm h (congrArg Prod.fst hm) (congrArg Prod.snd hm)⟩
  · have hno : ∀ x ∈ s.pcie.take i, ¬ IsWrite x.2 := fun x hx ⟨y, b, hy, hb⟩ => h x hx y b hy hb
    refine ⟨fun m ha => ⟨_, hostCompletion_read hi hp hno ha, rfl, rfl, ?_⟩, fun b ha hpa => ?_⟩
    · exact atPort_out _ _ _ _
    · rw [hostCompletion_write hi hp hno ha]
      split
      · exact ⟨_, rfl, rfl, rfl, rfl⟩
      · have hm := writePa_high (s := { s with pcie := s.pcie.eraseIdx i }) hpa b
        exact ⟨_, rfl, writePa_pcie _ _ _, congrArg Prod.fst hm, congrArg Prod.snd hm⟩

end Sys2Proof.Laws
end

section

/-! # A source sector of the copy engine (11 R230, R233) -/

namespace Sys2Proof.Laws
open Sys2Proof.Machine Sys2Proof.Claim

/-- A command in progress, with its acquire made, that copies one byte of the scratchpad at an address to memory. -/
def oneByte (a : Nat) : CopyCmd :=
  ⟨7, 0, true, w64 a, 0, w64 (2 ^ 32 + 1), 0, .norm, 0, Vector.replicate 12 0, 0, false, true, [], [], [], [], [], [], []⟩

/-- Two commands of one number, of bytes 0 and 64 of the scratchpad, which differ. -/
def twinCommands : Tile :=
  { Tile.reset with spad := [(0, 1)], chain := { Tile.reset.chain with act := [oneByte 0, oneByte 64] } }

def twinState : State := State.reset.setTile 5 twinCommands

/-- The bytes that the commands in progress of tile 5 have read. -/
def readBy : Out3 → List (List (Nat × List Byte))
  | .next r => (r.tile 5).chain.act.map (·.got)
  | .fault _ | .refused _ => []

/-- COPY_SECTOR gives both commands the byte of the first one's row. -/
theorem readBy_copySector : readBy (exec (.copySector 5 7 0) twinState) = [[(0, [1])], [(0, [1])]] := by decide

/-- Refutes O45: where two commands in progress bear one number, COPY_SECTOR reads the row of the first and notes what it has read
with both, while the clause of a source sector has each of them read its own row (its `c.sRow r` is the changed command's). -/
theorem not_copyEngineMoves : ¬ Obligations.CopyEngineMoves := by
  unfold Obligations.CopyEngineMoves
  intro h
  obtain ⟨-, -, -, hsector, -⟩ := h twinState 5 0 0 ⟨0, 0, 0, 0⟩ (by decide)
  obtain ⟨hread, -⟩ := hsector (oneByte 0) 0 0 0 1 rfl rfl rfl rfl
  have hgo := congrArg readBy (hread (by decide) rfl rfl (by decide))
  refine absurd (readBy_copySector.symm.trans hgo) ?_
  decide

end Sys2Proof.Laws
end

section

/-! # Puts and gets from their begin to their commit (12 R254 to R256, 10 R200) -/

namespace Sys2Proof.Laws
open Sys2Proof.Machine Sys2Proof.Claim

@[simp] theorem tile_modTile (s : State) (n : Nat) (f : Tile → Tile) : (s.modTile n f).tile n = f (s.tile n) :=
  State.tile_setTile _ _ _

theorem tset_tset {α : Type} (t : Tab α) (n : Nat) (v w : α) : tset (tset t n v) n w = tset t n w := by
  induction t with
  | nil => exact if_pos rfl
  | cons e t ih =>
    obtain ⟨k, x⟩ := e
    rcases Nat.lt_trichotomy n k with h | rfl | h
    · have h' : k ≠ n := by omega
      simp [tset, h, h']
    · simp [tset]
    · have h' : k ≠ n := by omega
      have h'' : ¬ n < k := by omega
      simp [tset, h', h'', ih]

theorem setTile_setTile (s : State) (n : Nat) (t u : Tile) : (s.setTile n t).setTile n u = s.setTile n u :=
  congrArg (fun x => ({ s with tiles := x } : State)) (tset_tset _ _ _ _)

theorem acceptCode_dropInbox (s : State) (n i : Nat) (x : Net) (a len : Nat) :
    (s.dropInbox n i).acceptCode n x a len = s.acceptCode n x a len := by
  have ht : (s.dropInbox n i).tile n = { s.tile n with inbox := (s.tile n).inbox.eraseIdx i } := tile_modTile _ _ _
  have hframe : ∀ b, (s.dropInbox n i).inFrame n b = s.inFrame n b := fun b => by
    unfold State.inFrame
    rw [ht]
    rfl
  have hentry : (s.dropInbox n i).entryCode n x = s.entryCode n x := by
    unfold State.entryCode
    rw [ht]
    simp only [hframe]
    rfl
  unfold State.acceptCode
  rw [hentry]

theorem own_refuseEvent (s : State) (n : Nat) (x : Net) (code : Nat) : (s.refuseEvent n x code).own = s.own := by
  unfold State.refuseEvent State.putxDie State.dieRecord State.ring
  dsimp only
  split <;> rfl

/-! ### PUT_BEGIN -/

section
variable {s : State} {n : Nat} {c : Tm} (hn : n < 256) (hc : (s.tile n).tmHead = some c) (hcoll : c.coll = none)
include hn hc hcoll

theorem putBegin_sends (hl : c.lvl ≠ 0) : exec (.putBegin n) s = .next (s.tmSend n c) := by
  rw [exec_putBegin, execPutBegin, Nat.mod_eq_of_lt hn]
  dsimp only
  rw [hc]
  dsimp only
  rw [hcoll]
  exact if_pos hl

theorem putBegin_reads {a k : Nat} (hl : c.lvl = 0) (hb : (s.tile n).tmBegins c = true)
    (hi : (c.acq && scopeInval c.scope && !c.inv) = false) (hg : c.get = false) (hlen : c.len ≠ 0)
    (hp : nextPiece c.laddr c.len c.got = (a, k)) (hpend : (s.tile n).pendingAt (a / 32 * 32) 32 = false)
    (hgot : ({ c with data := c.data ++ [(a, readBytes (s.tile n).spad a k)] } : Tm).got ≠ c.len) :
    exec (.putBegin n) s = .next (s.setTile n ((s.tile n).modTm c.id fun _ =>
      { c with data := c.data ++ [(a, readBytes (s.tile n).spad a k)] })) := by
  rw [exec_putBegin, execPutBegin, Nat.mod_eq_of_lt hn]
  dsimp only
  rw [hc]
  dsimp only
  rw [if_neg (by rw [hcoll]; exact Bool.false_ne_true), if_neg (not_not_intro hl), if_neg (by rw [hb]; exact Bool.false_ne_true),
    if_neg (by rw [hi]; exact Bool.false_ne_true), if_neg (by rw [hg, beq_false_of_ne hlen]; exact Bool.false_ne_true), hp]
  dsimp only
  rw [if_neg (by rw [hpend]; exact Bool.false_ne_true)]
  exact congrArg Host.Outcome.next (if_neg hgot)

end

/-! ### Arrivals -/

section
variable {s : State} {n i src : Nat} {p : Pkt} {x : Net} (hn : n < 256)
include hn

theorem putArrive_eq (h : (s.tile n).arrived 0 i = some (src, p, x)) : exec (.putArrive n i) s =
    if s.acceptCode n x x.daddr x.data.length = 0 then .next ((s.dropInbox n i).modTile n fun t => t.addAsync
      (sectorWrites 2 (laneOf 0 src) (fun a l => .spad a l) (x.data.length + 1) x.daddr x.data ++
        [⟨2, laneOf 0 src, ctlCount x.ctl x.data.length, .put x⟩]))
    else .next (((s.dropInbox n i).refuseEvent n x (s.acceptCode n x x.daddr x.data.length)).answerPut n x
      (s.acceptCode n x x.daddr x.data.length)) := by
  rw [exec_putArrive, execPutArrive, Nat.mod_eq_of_lt hn]
  dsimp only
  rw [h, ← acceptCode_dropInbox s n i]

theorem getrsArrive_lands {c : Tm} (h : (s.tile n).arrived 2 i = some (src, p, x)) (hc : (s.tile n).tm x.cmd = some c) :
    exec (.getrsArrive n i) s = .next ((s.dropInbox n i).modTile n fun t =>
      (t.modTm x.cmd fun c => { c with read := true }).addAsync
        (sectorWrites 3 (laneOf 2 src) (fun a l => .spad a l) (c.len + 1) c.laddr (x.data.take c.len) ++
          [⟨3, laneOf 2 src, ctlCount c.hdrCtl c.len, .got x⟩])) := by
  rw [exec_getrsArrive, execGetrsArrive, Nat.mod_eq_of_lt hn, h]
  dsimp only
  rw [hc]

theorem packArrive_own (h : (s.tile n).arrived 10 i = some (src, p, x)) (ho : x.spkg = s.own) : exec (.packArrive n i) s =
    .next (({ s.dropInbox n i with free := s.free + 1 } : State).tmEnd n x.cmd x.code x) := by
  rw [exec_packArrive, execPackArrive, Nat.mod_eq_of_lt hn, h]
  exact congrArg (fun k => Host.Outcome.next (({ s.dropInbox n i with free := s.free + 1 } : State).tmEnd n x.cmd k x)) (if_pos ho)

section
variable (h : (s.tile n).arrived 1 i = some (src, p, x)) (hd : x.data = [])
include h hd

theorem getrqArrive_refuses (hcode : s.acceptCode n x x.saddr x.glen ≠ 0) : exec (.getrqArrive n i) s =
    .next (if x.spkg = s.own then ((s.dropInbox n i).refuseEvent n x (s.acceptCode n x x.saddr x.glen)).answerPut n x
      (s.acceptCode n x x.saddr x.glen) else (s.dropInbox n i).refuseEvent n x (s.acceptCode n x x.saddr x.glen)) := by
  rw [exec_getrqArrive, execGetrqArrive, Nat.mod_eq_of_lt hn]
  dsimp only
  rw [h]
  dsimp only
  rw [hd, if_pos (show ([] : List Byte).isEmpty = true by rfl), if_pos hcode, own_refuseEvent]
  rfl

/-- A get served and answered with its bytes. -/
def getAnswered (s : State) (n i : Nat) (x : Net) (l : List Byte) : State :=
  ((if x.spkg = s.own then s.modTile x.stile fun t => t.modTm x.cmd fun c => { c with read := true } else s).dropInbox n i).route n
    { Net.reset with
      kind := 2, tc := x.tc, dpkg := x.spkg, spkg := s.own, dtile := x.stile, stile := n, daddr := x.daddr, ctl := x.ctl
      ptag := x.ptag, rtag := x.rtag, cmd := x.cmd, data := l }

omit hn h hd in
/-- What the answer names of the package is not what the get's own command notes. -/
theorem getAnswered_eq (s : State) (n i : Nat) (x : Net) (l : List Byte) :
    (State.dropInbox (if x.spkg = s.own then s.modTile x.stile fun t => t.modTm x.cmd fun c => { c with read := true } else s) n i).route n
      { Net.reset with
        kind := 2, tc := x.tc, dpkg := x.spkg
        spkg := (if x.spkg = s.own then s.modTile x.stile fun t => t.modTm x.cmd fun c => { c with read := true } else s).own
        dtile := x.stile, stile := n, daddr := x.daddr, ctl := x.ctl
        ptag := x.ptag, rtag := x.rtag, cmd := x.cmd, data := l } = getAnswered s n i x l := by
  unfold getAnswered
  split <;> rfl

theorem getrqArrive_serves {l : List Byte} (hcode : s.acceptCode n x x.saddr x.glen = 0)
    (hl : x.glen = 0 ∧ l = [] ∨ 0 < x.glen ∧ x.saddr % 32 + x.glen ≤ 32 ∧ (s.tile n).pendingAt (x.saddr / 32 * 32) 32 = false ∧
      l = readBytes (s.tile n).spad x.saddr x.glen) : exec (.getrqArrive n i) s = .next (getAnswered s n i x l) := by
  rw [exec_getrqArrive, execGetrqArrive, Nat.mod_eq_of_lt hn]
  dsimp only
  rw [h]
  dsimp only
  rw [hd, if_pos (show ([] : List Byte).isEmpty = true by rfl), if_neg (not_not_intro hcode)]
  rcases hl with ⟨hg, rfl⟩ | ⟨hg, hfit, hp, rfl⟩
  · rw [if_pos hg]
    exact congrArg Host.Outcome.next (getAnswered_eq _ _ _ _ _)
  · have hpiece : nextPiece x.saddr x.glen ([] : List Byte).length = (x.saddr, x.glen) := by
      refine Prod.ext rfl ?_
      show min (x.saddr + x.glen) (((x.saddr + 0) / 32 + 1) * 32) - (x.saddr + 0) = x.glen
      omega
    rw [if_neg (by omega), hpiece]
    dsimp only
    rw [if_neg (by rw [hp]; exact Bool.false_ne_true), List.nil_append, readBytes_length, if_pos (Nat.le_refl _)]
    exact congrArg Host.Outcome.next (getAnswered_eq _ _ _ _ _)

end

end

/-! ### ROUTER_TIMEOUT and COMMIT -/

theorem routerTimeout_eq {s : State} {i : Nat} {q : Req} (h : s.fab.reqs[i]? = some q) : exec (.routerTimeout i) s =
    if s.fab.held.contains q.pkt.dpkg || s.holdsBack q.pkt then .next s
    else .next (({ s with fab := { s.fab with reqs := s.fab.reqs.eraseIdx i } } : State).expire q 14 5) := by
  rw [exec_routerTimeout, execRouterTimeout, h]

theorem commit_eq {s : State} {n i : Nat} {w : Async} (hn : n < 256) (h : (s.tile n).async[i]? = some w) :
    exec (.commit n i) s = if (s.tile n).comm ≤ w.prec + 1 && inLane ((s.tile n).async.take i) w && s.servedRel n w then
      .next ((s.setTile n { s.tile n with comm := w.prec + 1, async := (s.tile n).async.eraseIdx i }).commitOne n w) else .next s := by
  rw [exec_commit, execCommit, Nat.mod_eq_of_lt hn]
  dsimp only
  rw [h]

theorem commitOne_spad {s : State} {n a : Nat} {l : List Byte} {w : Async} (hw : w.w = .spad a l) (hd : w.done = .nothing) :
    s.commitOne n w = s.setTile n { s.tile n with spad := writeBytes (s.tile n).spad a l } := by
  unfold State.commitOne
  rw [hw, hd]
  rfl

/-- Settles O46, clause by clause: each move's equation under its guards. -/
theorem putAndGetMoves : Obligations.PutAndGetMoves := by
  unfold Obligations.PutAndGetMoves
  intro s n i src p x c hn
  refine ⟨fun hc hcoll hl hb hi hg hlen hp hgot => putBegin_reads hn hc hcoll hl hb hi hg hlen rfl hp hgot,
    fun hc hcoll hl => putBegin_sends hn hc hcoll hl, fun h => ⟨fun hcode => ?_, fun hcode => ?_⟩,
    fun l h hd hcode hl => getrqArrive_serves hn h hd hcode hl, fun h hd hcode => getrqArrive_refuses hn h hd hcode,
    fun h hc => ?_, fun h ho => ⟨_, packArrive_own hn h ho⟩, fun q h hheld hback => ?_, fun q h hno => ?_,
    fun w h hcomm hlane hrel => ⟨?_, fun a l hw hd => ?_⟩, fun w h hno => ?_⟩
  · refine ⟨_, (putArrive_eq hn h).trans (if_pos hcode), ?_⟩
    unfold State.dropInbox
    rw [tile_modTile, tile_modTile]
    exact ⟨rfl, rfl, rfl, rfl⟩
  · exact (putArrive_eq hn h).trans (if_neg hcode)
  · refine ⟨_, getrsArrive_lands hn h hc, ?_⟩
    unfold State.dropInbox
    rw [tile_modTile, tile_modTile]
    exact ⟨rfl, rfl, rfl⟩
  · exact (routerTimeout_eq h).trans (if_neg (by rw [hheld, hback]; exact Bool.false_ne_true))
  · exact (routerTimeout_eq h).trans (if_pos (by rcases hno with h | h <;> rw [h] <;> simp))
  · exact (commit_eq hn h).trans (if_pos (by simp [hcomm, hlane, hrel]))
  · rw [commitOne_spad hw hd, State.tile_setTile, setTile_setTile]
  · refine (commit_eq hn h).trans (if_neg ?_)
    rcases hno with h | h | h
    · simp [h]
    · simp [h]
    · simp [h]

end Sys2Proof.Laws
end

section

/-! # What leaves the ports as they stand (14 R300 to R309) -/

namespace Sys2Proof.Laws
open Sys2Proof.Machine Sys2Proof.Claim

@[simp] theorem State.port_setPort (s : State) (p : Nat) (x : Port) : (s.setPort p x).port p = x := tget_tset_same _ _ _ _

theorem State.port_setPort_ne (s : State) {p q : Nat} (h : p ≠ q) (x : Port) : (s.setPort q x).port p = s.port p :=
  tget_tset_ne _ _ _ _ _ h

theorem State.port_congr {s r : State} (h : r.ports = s.ports) (p : Nat) : r.port p = s.port p :=
  congrArg (fun t => tget t Port.reset p) h

theorem setPort_setPort (s : State) (p : Nat) (x y : Port) : (s.setPort p x).setPort p y = s.setPort p y :=
  congrArg (fun t => ({ s with ports := t } : State)) (tset_tset _ _ _ _)

/-! ### Moves of other parts of the package -/

@[simp] theorem State.freeBytes_ports (s : State) (n : Nat) : (s.freeBytes n).2.ports = s.ports := by
  induction n generalizing s with
  | zero => rfl
  | succ n ih => exact ih _

@[simp] theorem State.ring_ports (s : State) (n c : Nat) (e : BitVec 128) : (s.ring n c e).ports = s.ports := rfl

@[simp] theorem State.dieRecord_ports (s : State) (p : Nat) (part : Option Nat) (held : Bool) (type addr info : Nat) :
    (s.dieRecord p part held type addr info).ports = s.ports := rfl

@[simp] theorem State.dieEvent_ports (s : State) (p : Nat) (part : Option Nat) (type addr info : Nat) :
    (s.dieEvent p part type addr info).ports = s.ports := rfl

@[simp] theorem State.putxDie_ports (s : State) (p : Nat) (x : Net) (code : Nat) : (s.putxDie p x code).ports = s.ports := rfl

@[simp] theorem State.suspend_ports (s : State) (p pkg level : Nat) : (s.suspend p pkg level).ports = s.ports := rfl

theorem foldl_ports {α : Type} {f : State → α → State} (h : ∀ s a, (f s a).ports = s.ports) (l : List α) (s : State) :
    (l.foldl f s).ports = s.ports := by
  induction l generalizing s with
  | nil => rfl
  | cons a l ih => exact (ih _).trans (h _ _)

@[simp] theorem State.suspendSent_ports (s : State) (sel : W64 → Bool) : (s.suspendSent sel).ports = s.ports :=
  foldl_ports (fun s e => foldl_ports (fun s g => by split <;> rfl) _ s) _ s

@[simp] theorem State.hears_ports (s : State) (q : Nat) (held : Bool) : (s.hears q held).ports = s.ports := by
  unfold State.hears
  dsimp only
  split
  · rfl
  split
  · rfl
  have hfold : ∀ (l : List Req) (s : State), (l.foldl (fun s _ => s.suspend 5 q 1) s).ports = s.ports :=
    foldl_ports fun _ _ => rfl
  split
  · rw [State.suspendSent_ports, hfold]
  · rw [State.suspend_ports, State.suspendSent_ports, hfold]

@[simp] theorem State.tmEnd_ports (s : State) (n id code : Nat) (x : Net) : (s.tmEnd n id code x).ports = s.ports := by
  unfold State.tmEnd
  dsimp only
  split
  · rfl
  split
  · rfl
  split <;> rfl

@[simp] theorem State.failForeign_ports (s : State) (x : Net) (code : Nat) : (s.failForeign x code).ports = s.ports := by
  unfold State.failForeign
  dsimp only
  generalize (if bitAt s.clkmask (partyOf (dieOf x.dtile)) then 5 else partyOf (dieOf x.dtile)) = p
  split <;> rfl

@[simp] theorem State.failNet_ports (s : State) (x : Net) (code : Nat) : (s.failNet x code).ports = s.ports := by
  unfold State.failNet
  split
  · split <;> simp
  · split <;> simp
  · split <;> simp
  · split
    · rfl
    split
    · simp
    · exact State.tmEnd_ports _ _ _ _ _
  · rfl

@[simp] theorem State.lostPacket_ports (s : State) (x : Net) : (s.lostPacket x).ports = s.ports := by
  unfold State.lostPacket
  dsimp only
  split
  · exact State.failNet_ports _ _ _
  · rfl

@[simp] theorem State.badPacket_ports (s : State) (src ptag : Nat) : (s.badPacket src ptag).ports = s.ports := rfl

@[simp] theorem State.inward_ports (s : State) (x : Net) : (s.inward x).ports = s.ports := rfl

/-- A link down: the port keeps what no flit has brought. -/
theorem port_linkDown (s : State) (p : Nat) : (s.linkDown p).port p = { s.port p with
    act := 0, up := false, replay := [], pkts := [], rx := none, gap := false, ini := none
    room := Vector.replicate 24 0, owed := Vector.replicate 24 0 } := by
  unfold State.linkDown
  dsimp only
  refine (State.port_congr (foldl_ports (fun s (q : BitVec 12 × Net) => State.lostPacket_ports s q.2) _ _) p).trans ?_
  exact State.port_setPort _ _ _

/-! ### What the traffic of a port leaves of it -/

/-- Lanes, the number expected, gap, epoch, the mask proposed and the flits that have arrived. -/
def portCore (x : Port) : BitVec 8 × Bool × BitVec 12 × Bool × Nat × Option (BitVec 8) × List Wire :=
  (x.act, x.up, x.exp, x.gap, x.epoch, x.ini, x.inp)

theorem core_owed (x : Port) (o : Vector Nat 24) : portCore { x with owed := o } = portCore x := rfl

theorem core_room (x : Port) (r : Vector Nat 24) : portCore { x with room := r } = portCore x := rfl

theorem core_credit (x : Port) (k : Nat) : portCore (x.credit k) = portCore x := core_room x _

theorem core_rx (x : Port) (l : Option (List Byte)) : portCore { x with rx := l } = portCore x := rfl

theorem core_setPctl (v : W64) (x : Port) : portCore (setPctl v x) = portCore x := rfl

theorem core_sendSeq (x : Port) (ty : Nat) (last : Bool) (pay : List Byte) : portCore (x.sendSeq ty last pay) = portCore x := by
  unfold Port.sendSeq
  dsimp only
  split <;> rfl

theorem core_resend (x : Port) : portCore x.resend = portCore x := by
  have h : ∀ (l : List Flit) (x : Port), portCore (l.foldl Port.send x) = portCore x := fun l => by
    induction l with
    | nil => exact fun _ => rfl
    | cons g l ih => exact fun x => ih (x.send g)
  exact h _ _

/-- Two states whose ports have each the same core. -/
def SameCores (s r : State) : Prop := ∀ p, portCore (r.port p) = portCore (s.port p)

theorem sameCores_refl (s : State) : SameCores s s := fun _ => rfl

theorem SameCores.trans {s r u : State} (h : SameCores s r) (h' : SameCores r u) : SameCores s u := fun p => (h' p).trans (h p)

theorem sameCores_of_ports {s r : State} (h : r.ports = s.ports) : SameCores s r :=
  fun p => congrArg portCore (State.port_congr h p)

theorem sameCores_setPort {s r : State} (hr : SameCores s r) {q : Nat} {x : Port} (h : portCore x = portCore (r.port q)) :
    SameCores s (r.setPort q x) := by
  intro p
  rcases eq_or_ne p q with rfl | hne
  · rw [State.port_setPort, h, hr]
  · rw [State.port_setPort_ne _ hne, hr]

theorem sameCores_foldl {α : Type} {f : State → α → State} (h : ∀ s a, SameCores s (f s a)) (l : List α) (s : State) :
    SameCores s (l.foldl f s) := by
  induction l generalizing s with
  | nil => exact fun _ => rfl
  | cons a l ih => exact (h s a).trans (ih _)

theorem sameCores_giveCredits (s : State) (p : Nat) : SameCores s (s.giveCredits p) := by
  unfold State.giveCredits
  dsimp only
  split
  · exact fun _ => rfl
  split
  · exact fun _ => rfl
  · have hp : (State.freeBytes s.freeBool.2 8).2.ports = s.ports := State.freeBytes_ports _ _
    exact sameCores_setPort (sameCores_of_ports hp) ((core_sendSeq _ _ _ _).trans (sameCores_of_ports hp p).symm)

theorem sameCores_owe (s : State) (p chan flits : Nat) : SameCores s (s.owe p chan flits) := by
  unfold State.owe
  exact (sameCores_setPort (sameCores_refl s) (core_owed _ _)).trans (sameCores_giveCredits _ _)

theorem sameCores_managerWrite (s : State) : SameCores s s.managerWrite := by
  have hone : ∀ (v : W64) (r : State) (p : Nat), SameCores r (r.setPort p (setPctl v (r.port p))) :=
    fun v r p => sameCores_setPort (sameCores_refl r) (core_setPctl _ _)
  unfold State.managerWrite
  dsimp only
  split
  · exact fun _ => rfl
  · split
    · exact fun _ => rfl
    · refine SameCores.trans (r := s.freeNat.2.freeWord.2) (fun _ => rfl) ?_
      unfold State.putPctl
      dsimp only
      generalize (if s.freeNat.1 / 4 % 577 = 576 then 0x3FF else s.freeNat.1 / 4 % 577) = q
      split
      · exact sameCores_foldl (hone _) _ _
      · exact hone _ _ _
  · exact fun _ => rfl
  · exact fun _ => rfl

theorem sameCores_take (s : State) (x : Net) : SameCores s (s.take x) := by
  have hanswer : ∀ y : State, y.ports = s.ports → SameCores s y := fun _ h => sameCores_of_ports h
  unfold State.take
  split
  · exact sameCores_managerWrite s
  · dsimp only
    split
    · exact hanswer _ (State.hears_ports _ _ _)
    · exact hanswer _ (State.hears_ports _ _ _)
  · dsimp only
    split
    · exact hanswer _ (State.hears_ports _ _ _)
    · exact hanswer _ (State.hears_ports _ _ _)
  · exact fun _ => rfl
  · exact fun _ => rfl

theorem sameCores_packetIn (s : State) (p : Nat) (h data : List Byte) : SameCores s (s.packetIn p h data) := by
  unfold State.packetIn
  dsimp only
  split
  · exact SameCores.trans (r := s.badPacket _ _) (fun _ => rfl) (sameCores_owe _ _ _ _)
  split
  · exact sameCores_owe _ _ _ _
  split
  · exact SameCores.trans (r := s.badPacket _ _) (fun _ => rfl) (sameCores_owe _ _ _ _)
  split
  · exact fun _ => rfl
  split
  · exact SameCores.trans (r := s.badPacket _ _) (fun _ => rfl) (sameCores_owe _ _ _ _)
  · exact (sameCores_take _ _).trans (sameCores_owe _ _ _ _)

theorem sameCores_payload (s : State) (p : Nat) (f : Flit) : SameCores s (s.payload p f) := by
  unfold State.payload
  dsimp only
  split
  · exact fun _ => rfl
  split
  · exact SameCores.trans (sameCores_setPort (sameCores_refl s) (core_rx _ _)) (sameCores_packetIn _ _ _ _)
  · exact sameCores_setPort (sameCores_refl s) (core_rx _ _)

/-- An accepted flit: what it brings leaves every port's lanes, numbers and reshape as they stand. -/
theorem sameCores_accepted (s : State) (p : Nat) (f : Flit) : SameCores s (s.accepted p f) := by
  unfold State.accepted
  split
  · exact sameCores_setPort (r := s.freeNat.2) (fun _ => rfl) (core_credit _ _)
  · exact sameCores_payload _ _ _

end Sys2Proof.Laws
end

section

/-! # Flits, retries, reshapes and retraining (14 R300 to R306) -/

namespace Sys2Proof.Laws
open Sys2Proof.Machine Sys2Proof.Claim

/-! ### Striping (14 R301) -/

theorem nodup_laneList (m : BitVec 8) : (laneList m).Nodup := List.nodup_range.filter _

theorem stripe_get (m : BitVec 8) (b : List Byte) {k : Nat} (hk : k < (laneList m).length) : (stripe m b)[k]? =
    some ((laneList m)[k], (List.range (ceilDiv b.length (laneList m).length)).map fun t => b[k + (laneList m).length * t]?) := by
  unfold stripe
  simp [hk]

/-- Each active lane is found at its own index. -/
theorem stripe_find (m : BitVec 8) (b : List Byte) {k : Nat} (hk : k < (laneList m).length) :
    (stripe m b).find? (fun e => e.1 == (laneList m)[k]) = (stripe m b)[k]? := by
  rw [stripe_get m b hk, List.find?_eq_some_iff_getElem]
  refine ⟨beq_self_eq_true _, k, by simpa [stripe] using hk, ?_, fun j hj => ?_⟩
  · exact List.getElem_eq_iff _ |>.2 (stripe_get m b hk)
  · have hjl : j < (laneList m).length := by omega
    have hget : (stripe m b)[j]'(by simpa [stripe] using hjl) = _ := List.getElem_eq_iff _ |>.2 (stripe_get m b hjl)
    rw [hget]
    simp only [Bool.not_eq_true', beq_eq_false_iff_ne, ne_eq]
    rw [(nodup_laneList m).getElem_inj_iff]
    omega

theorem lt_ceilDiv {n k i : Nat} (hn : 0 < n) (hi : i < k) : i / n < ceilDiv k n := by
  unfold ceilDiv
  rw [Nat.div_lt_iff_lt_mul hn]
  have := Nat.div_add_mod (k + n - 1) n
  have := Nat.mod_lt (k + n - 1) hn
  rw [Nat.mul_comm]
  omega

theorem stripe_byteAt {m : BitVec 8} {b : List Byte} {i : Nat} (hm : 0 < lanes m) (hi : i < b.length) :
    (stripe m b).byteAt ((laneList m).getD (i % lanes m) 8) (i / lanes m) = b[i] := by
  have hk : i % lanes m < (laneList m).length := Nat.mod_lt _ hm
  have ht : i / lanes m < ceilDiv b.length (laneList m).length := lt_ceilDiv hm hi
  have hidx : i % lanes m + (laneList m).length * (i / lanes m) = i := Nat.mod_add_div _ _
  unfold Wire.byteAt
  rw [List.getD_eq_getElem _ _ hk, stripe_find m b hk, stripe_get m b hk]
  simp [ht, hidx, hi]

theorem stripe_unstripe {m : BitVec 8} {b : List Byte} (hm : 0 < lanes m) (hb : b.length = 72) : (stripe m b).unstripe m = b := by
  unfold Wire.unstripe
  refine List.ext_getElem (by simp [hb]) fun i h h' => ?_
  rw [List.getElem_map, List.getElem_range]
  exact stripe_byteAt hm h'

theorem stripe_at {m : BitVec 8} {b : List Byte} {j : Nat} (hm : 0 < lanes m) (hj : j < b.length) :
    (((stripe m b)[j % lanes m]?).map fun e => (e.1, e.2[j / lanes m]?)) =
      some ((laneList m).getD (j % lanes m) 8, some b[j]?) := by
  have hk : j % lanes m < (laneList m).length := Nat.mod_lt _ hm
  have ht : j / lanes m < ceilDiv b.length (laneList m).length := lt_ceilDiv hm hj
  have hidx : j % lanes m + (laneList m).length * (j / lanes m) = j := Nat.mod_add_div _ _
  rw [stripe_get m b hk, List.getD_eq_getElem _ _ hk]
  simp [ht, hidx]

theorem mem_wholeOn {m : BitVec 8} {b : List Byte} {e : Nat × List (Option Byte)} (h : e ∈ wholeOn m b) :
    m.getLsbD e.1 = true ∧ e.2 = b.map some := by
  obtain ⟨i, hi, rfl⟩ := List.mem_map.1 h
  exact ⟨(List.mem_filter.1 hi).2, rfl⟩

/-! ### What leaves a port's core -/

theorem core_takeAck (x : Port) (f : Flit) : portCore (x.takeAck f) = portCore x := by
  unfold Port.takeAck
  split <;> rfl

theorem core_parts {x y : Port} (h : portCore x = portCore y) : x.act = y.act ∧ x.up = y.up ∧ x.exp = y.exp ∧ x.gap = y.gap ∧
    x.epoch = y.epoch ∧ x.ini = y.ini ∧ x.inp = y.inp := by
  simpa [portCore] using h

/-- A flit of the number expected counted, with an acknowledgement at the thirty-second. -/
def countedFlit (x : Port) : Port :=
  let x := { x with exp := x.exp + 1, gap := false, since := x.since + 1 }
  if 32 ≤ x.since then x.sendPlain tyAckf [] else x

theorem core_countedFlit (x : Port) : portCore (countedFlit x) = portCore { x with exp := x.exp + 1, gap := false } := by
  unfold countedFlit
  dsimp only
  split <;> rfl

/-! ### Arriving flits -/

/-- FLIT_RECEIVE takes every flit but a reshape flit and a RETRY. -/
theorem flitWanted (f : Flit) (h : f.type < 4 ∨ 6 < f.type) :
    (!f.good || !(f.type == tyRshreq || f.type == tyRshack || f.type == tyRetry)) = true := by
  simp only [tyRshreq, tyRshack, tyRetry, Bool.or_eq_true, Bool.not_eq_true', Bool.or_eq_false_iff, beq_eq_false_iff_ne]
  omega

section
variable {s : State} {p : Nat} {w : Wire} {l : List Wire} (hi : (s.port p).inp = w :: l)
include hi

theorem arriving_first {want : Flit → Bool} (hw : want (w.flit (s.port p).act) = true) :
    s.arriving p want = (some (w.flit (s.port p).act), s.setPort p { s.port p with inp := l }) := by
  unfold State.arriving
  dsimp only
  rw [hi]
  exact if_pos hw

variable (hup : (s.port p).up = true)
include hup

theorem flitReceive_bad (hg : (w.flit (s.port p).act).good = false) : exec (.flitReceive p) s =
    .next (((s.setPort p { s.port p with inp := l }).setPort p
      ({ s.port p with inp := l, gap := true } : Port).sendRetry).report 10 12 (unitParty 5) 0 0 0) := by
  rw [exec_flitReceive, execFlitReceive, arriving_first hi (by rw [hg]; rfl)]
  dsimp only
  rw [State.port_setPort, if_neg (by rw [hup]; exact Bool.false_ne_true), if_pos (by rw [hg]; rfl)]

variable (hg : (w.flit (s.port p).act).good = true)
include hg

theorem flitReceive_reserved (ht : 8 ≤ (w.flit (s.port p).act).type) : exec (.flitReceive p) s =
    .next ((s.setPort p { s.port p with inp := l }).dieCount 5 43 1) := by
  rw [exec_flitReceive, execFlitReceive, arriving_first hi (flitWanted _ (by omega))]
  dsimp only
  rw [State.port_setPort, if_neg (by rw [hup]; exact Bool.false_ne_true), if_neg (by rw [hg]; exact Bool.false_ne_true), if_pos ht]

/-- An acknowledgement alone. -/
theorem flitReceive_ackf (ht : (w.flit (s.port p).act).type = tyAckf) : exec (.flitReceive p) s =
    .next (((s.setPort p { s.port p with inp := l }).setPort p
      (({ s.port p with inp := l } : Port).takeAck (w.flit (s.port p).act))).giveCredits p) := by
  rw [exec_flitReceive, execFlitReceive, arriving_first hi (by rw [hg, ht]; rfl)]
  dsimp only
  rw [State.port_setPort, if_neg (by rw [hup]; exact Bool.false_ne_true), if_neg (by rw [hg]; exact Bool.false_ne_true),
    if_neg (by rw [ht]; decide), if_pos (by rw [ht]; rfl)]

/-- A flit that takes a number: accepted, met by a RETRY, or a duplicate. -/
theorem flitReceive_sequenced (ht : sequenced (w.flit (s.port p).act).type = true) :
    let f := w.flit (s.port p).act
    let y : Port := { s.port p with inp := l }
    let z := y.takeAck f
    exec (.flitReceive p) s =
      if f.seq = (s.port p).exp then
        .next ((((s.setPort p y).setPort p (countedFlit z)).accepted p f).giveCredits p)
      else if (f.seq - (s.port p).exp).toNat < 2048 then
        .next (((s.setPort p y).setPort p
          (if z.gap then z else ({ z with gap := true } : Port).sendRetry)).report 10 12 (unitParty 5) 0 0 0)
      else .next (((s.setPort p y).setPort p z).dieCount 5 7 1) := by
  have hty : (w.flit (s.port p).act).type = 1 ∨ (w.flit (s.port p).act).type = 2 ∨ (w.flit (s.port p).act).type = 7 := by
    simpa [sequenced, or_assoc] using ht
  have hexp : (({ s.port p with inp := l } : Port).takeAck (w.flit (s.port p).act)).exp = (s.port p).exp :=
    (core_parts (core_takeAck _ _)).2.2.1
  rw [exec_flitReceive, execFlitReceive, arriving_first hi (flitWanted _ (by omega))]
  dsimp only
  rw [State.port_setPort, if_neg (by rw [hup]; exact Bool.false_ne_true), if_neg (by rw [hg]; exact Bool.false_ne_true),
    if_neg (by omega), if_neg (by rw [ht]; exact Bool.false_ne_true), hexp]
  unfold countedFlit
  rw [hexp]

/-- A RETRY: the acknowledgement is taken, and the replay buffer is sent again but in a reshape of this end. -/
theorem retryReceive_eq (ht : (w.flit (s.port p).act).type = tyRetry) :
    let z := ({ s.port p with inp := l } : Port).takeAck (w.flit (s.port p).act)
    exec (.retryReceive p) s = if (s.port p).ini.isSome then .next ((s.setPort p { s.port p with inp := l }).setPort p z)
      else .next (((s.setPort p { s.port p with inp := l }).setPort p z.resend).dieCount 5 6 z.replay.length) := by
  obtain ⟨-, hzup, -, -, -, hini, -⟩ := core_parts (core_takeAck { s.port p with inp := l } (w.flit (s.port p).act))
  rw [exec_retryReceive, execRetryReceive, arriving_first hi (by rw [hg, ht]; rfl)]
  dsimp only
  rw [State.port_setPort, if_neg (by rw [hzup, hup]; exact Bool.false_ne_true), hini]

/-- A request of a reshape that is not stale, where none has been answered. -/
theorem rshreqReceive_agrees (ht : (w.flit (s.port p).act).type = tyRshreq)
    (ho : (s.port p).older ((w.flit (s.port p).act).pay.getD 1 0).toNat = false) (ha : (s.port p).ans = none) :
    exec (.rshreqReceive p) s = .next (execRshreqReceive.agree p (s.setPort p { s.port p with inp := l })
      (({ s.port p with inp := l } : Port).takeAck (w.flit (s.port p).act)) ((w.flit (s.port p).act).pay.getD 0 0)
      ((w.flit (s.port p).act).pay.getD 1 0).toNat) := by
  have hans : (({ s.port p with inp := l } : Port).takeAck (w.flit (s.port p).act)).ans = none := by
    unfold Port.takeAck
    split <;> exact ha
  rw [exec_rshreqReceive, execRshreqReceive, arriving_first hi (by rw [hg, ht]; rfl)]
  dsimp only
  rw [State.port_setPort, if_neg, hans]
  rw [hup]
  simpa [Port.older] using ho

/-- An answer to the reshape of this end. -/
theorem rshackReceive_eq {m : BitVec 8} (ht : (w.flit (s.port p).act).type = tyRshack) (hm : (s.port p).ini = some m)
    (he : ((w.flit (s.port p).act).pay.getD 1 0).toNat = (s.port p).epoch) :
    let f := w.flit (s.port p).act
    let z := ({ s.port p with inp := l } : Port).takeAck f
    exec (.rshackReceive p) s = if f.pay.getD 0 0 &&& m = f.pay.getD 0 0 then
      .next (((s.setPort p { s.port p with inp := l }).setPort p z).switch p (f.pay.getD 0 0))
      else .next ((s.setPort p { s.port p with inp := l }).setPort p (z.propose m)) := by
  rw [exec_rshackReceive, execRshackReceive, arriving_first hi (by rw [hg, ht]; rfl)]
  dsimp only
  rw [State.port_setPort]
  dsimp only
  rw [hm]
  dsimp only
  rw [if_neg (by rw [hup, he]; simp)]

end

/-! ### Reshapes -/

theorem core_propose (x : Port) (m : BitVec 8) :
    portCore (x.propose m) = portCore { x with epoch := (x.epoch + 1) % 256, ini := some m } := rfl

/-- A port that switches to a mask of 4 lanes or more. -/
theorem core_switch {s : State} {p : Nat} {m : BitVec 8} (hm : 4 ≤ lanes m) :
    portCore ((s.switch p m).port p) = portCore { s.port p with act := m, ini := none } := by
  unfold State.switch
  dsimp only
  rw [if_neg (by omega), sameCores_giveCredits, State.port_setPort, core_resend]
  rfl

/-- A responder that agrees a mask of 4 lanes or more. -/
theorem core_agree {s : State} {p e : Nat} {x : Port} {m : BitVec 8} (h : 4 ≤ lanes (m &&& x.ini.getD x.act)) :
    portCore ((execRshreqReceive.agree p s x m e).port p) =
      portCore { x with act := m &&& x.ini.getD x.act, epoch := e, ini := none } := by
  unfold execRshreqReceive.agree
  dsimp only
  rw [core_switch h, State.port_setPort]
  rfl

theorem laneShed_eq {s : State} {p i : Nat} (hup : (s.port p).up = true) (hi : i < 8) (hini : (s.port p).ini = none)
    (ha : (s.port p).act.getLsbD i = true) :
    let m := (s.port p).act &&& ~~~(1#8 <<< i)
    let x : Port := { s.port p with shed := (s.port p).shed ||| (1#8 <<< i) }
    exec (.laneShed p i) s = if lanes m < 4 then
        .next (((s.report 11 12 (unitParty 5) 0 0 i).setPort p { x with epoch := (x.epoch + 1) % 256 }).linkDown p)
      else .next ((s.report 11 12 (unitParty 5) 0 0 i).setPort p (x.propose m)) := by
  rw [exec_laneShed, execLaneShed]
  dsimp only
  rw [hini, Option.getD_none, if_neg]
  rw [hup, ha]
  simp only [Bool.not_true, Bool.false_or, Bool.or_false, decide_eq_true_eq]
  omega

/-! ### Timers and retraining -/

theorem giveCredits_none {s : State} {p : Nat} (h : (s.port p).owed.toList.all (· == 0) = true) : s.giveCredits p = s := by
  unfold State.giveCredits
  refine if_pos ?_
  rw [h]
  rfl

theorem ackTimer_eq {s : State} {p : Nat} (hup : (s.port p).up = true) : exec (.ackTimer p) s =
    .next (if ((s.giveCredits p).port p).since = 0 then s.giveCredits p
      else (s.giveCredits p).setPort p (((s.giveCredits p).port p).sendPlain tyAckf [])) := by
  have hup' : ((s.giveCredits p).port p).up = true := (core_parts (sameCores_giveCredits s p p)).2.1.trans hup
  rw [exec_ackTimer, execAckTimer, hup']
  by_cases h : ((s.giveCredits p).port p).since = 0
  · rw [if_pos h, h]
    rfl
  · rw [if_neg h, bne_iff_ne.2 h]
    rfl

/-- Settles O47: each flit that arrives by what FLIT_RECEIVE, RETRY_RECEIVE and the reshapes do with it; what a port's traffic leaves
of it is its core. -/
theorem linkMoves : Obligations.LinkMoves := by
  unfold Obligations.LinkMoves
  intro s p w l
  refine ⟨fun hup => ⟨fun hi hg ht hq => ?_, fun hi hg => flitReceive_bad hi hup hg, fun hi hg ht hq hlt => ?_,
    fun hi hg ht hq hle => ?_, fun hi hg ht => flitReceive_ackf hi hup hg ht, fun hi hg ht => flitReceive_reserved hi hup hg ht,
    fun ho => ?_, ?_, fun hi hg ht => ?_, fun hgap => ?_, fun i hi8 hini ha => ?_, fun hi hg ht ho ha hl => ?_,
    fun m hi hg ht hm he => ⟨fun hsub hl => ?_, fun hsub => ?_⟩, fun m hm => ?_, fun hr => ?_⟩,
    fun m b j hm hb hj => ⟨stripe_unstripe hm hb, stripe_at hm (by omega), fun e he => mem_wholeOn he, List.length_map _⟩,
    fun g => ⟨rfl, fun ty m e => rfl⟩, fun m q hp hq => ?_⟩
  · refine ⟨_, (flitReceive_sequenced hi hup hg ht).trans (if_pos hq), ?_⟩
    obtain ⟨-, -, hexp, -, -, -, hinp⟩ := core_parts (core_takeAck { s.port p with inp := l } (w.flit (s.port p).act))
    have hcore := (sameCores_giveCredits _ p p).trans (sameCores_accepted ((s.setPort p { s.port p with inp := l }).setPort p
      (countedFlit (({ s.port p with inp := l } : Port).takeAck (w.flit (s.port p).act)))) p (w.flit (s.port p).act) p)
    rw [State.port_setPort, core_countedFlit] at hcore
    obtain ⟨-, -, hexp', hgap', -, -, hinp'⟩ := core_parts hcore
    exact ⟨hexp'.trans (congrArg (· + 1) hexp), hinp'.trans hinp, hgap'⟩
  · exact (flitReceive_sequenced hi hup hg ht).trans ((if_neg hq).trans (if_pos hlt))
  · exact ⟨_, (flitReceive_sequenced hi hup hg ht).trans ((if_neg hq).trans (if_neg (by omega))), State.port_setPort _ _ _⟩
  · rw [ackTimer_eq hup, giveCredits_none ho]
  · have hexp : ((s.giveCredits p).port p).exp = (s.port p).exp := (core_parts (sameCores_giveCredits s p p)).2.2.1
    refine ⟨_, ackTimer_eq hup, ?_⟩
    split
    · exact ⟨‹_›, hexp⟩
    · rw [State.port_setPort]
      exact ⟨rfl, hexp⟩
  · rw [retryReceive_eq hi hup hg ht]
    split
    · exact ⟨_, rfl, State.port_setPort _ _ _⟩
    · exact ⟨_, rfl, State.port_setPort _ _ _⟩
  · rw [exec_retryRepeat, execRetryRepeat]
    exact if_pos (by rw [hup, hgap]; rfl)
  · rw [laneShed_eq hup hi8 hini ha]
    split
    · refine ⟨_, rfl, fun h => absurd h (by omega), fun _ => ?_⟩
      rw [port_linkDown]
      exact ⟨rfl, rfl⟩
    · refine ⟨_, rfl, fun _ => ?_, fun h => absurd h (by omega)⟩
      rw [State.port_setPort]
      obtain ⟨-, hup', -, -, hep, hini', -⟩ := core_parts (core_propose
        { s.port p with shed := (s.port p).shed ||| (1#8 <<< i) } ((s.port p).act &&& ~~~(1#8 <<< i)))
      exact ⟨hini', hup'.trans hup, hep⟩
  · obtain ⟨hact, -, -, -, -, hini, -⟩ := core_parts (core_takeAck { s.port p with inp := l } (w.flit (s.port p).act))
    refine ⟨_, rshreqReceive_agrees hi hup hg ht ho ha, ?_⟩
    obtain ⟨hact', -, -, -, hep', hini', -⟩ := core_parts (core_agree (s := s.setPort p { s.port p with inp := l }) (p := p)
      (e := ((w.flit (s.port p).act).pay.getD 1 0).toNat) (by rw [hini, hact]; exact hl))
    rw [hini, hact] at hact'
    exact ⟨hact', hep', hini'⟩
  · obtain ⟨-, hzup, -, -, -, -, -⟩ := core_parts (core_takeAck { s.port p with inp := l } (w.flit (s.port p).act))
    refine ⟨_, (rshackReceive_eq hi hup hg ht hm he).trans (if_pos hsub), ?_⟩
    have hcore := core_switch (s := (s.setPort p { s.port p with inp := l }).setPort p
      (({ s.port p with inp := l } : Port).takeAck (w.flit (s.port p).act))) (p := p) hl
    rw [State.port_setPort] at hcore
    obtain ⟨hact', hup', -, -, -, hini', -⟩ := core_parts hcore
    exact ⟨hact', hini', hup'.trans (hzup.trans hup)⟩
  · obtain ⟨hact, -, -, -, hep, -, -⟩ := core_parts (core_takeAck { s.port p with inp := l } (w.flit (s.port p).act))
    refine ⟨_, (rshackReceive_eq hi hup hg ht hm he).trans (if_neg hsub), ?_⟩
    rw [State.port_setPort]
    obtain ⟨hact', -, -, -, hep', hini', -⟩ := core_parts (core_propose
      (({ s.port p with inp := l } : Port).takeAck (w.flit (s.port p).act)) m)
    exact ⟨hini', hep'.trans (congrArg (fun e => (e + 1) % 256) hep), hact'.trans hact⟩
  · rw [exec_rshreqRepeat, execRshreqRepeat, hm]
    exact if_pos hup
  · rw [exec_linkTimeout, execLinkTimeout]
    refine ⟨_, if_pos (by rw [hup]; simpa using hr), ?_⟩
    rw [port_linkDown]
    exact ⟨rfl, rfl, rfl⟩
  · rw [exec_retrain, execRetrain]
    refine ⟨_, if_neg (by rw [hq]; simp; omega), ?_⟩
    rw [State.port_setPort]
    by_cases hm : 4 ≤ lanes m
    · rw [if_pos hm, if_pos (decide_eq_true hm)]
      exact ⟨rfl, rfl, rfl, rfl, rfl⟩
    · rw [if_neg hm, if_neg (by simpa using hm)]
      exact ⟨rfl, rfl, rfl, rfl, rfl⟩

end Sys2Proof.Laws
end

section

/-! # Routing (14 R309 to R312, 19 R361, R364) -/

namespace Sys2Proof.Laws
open Sys2Proof.Machine Sys2Proof.Claim

/-! ### What leaves the routing tables as they stand -/

@[simp] theorem State.dieEvent_fab (s : State) (p : Nat) (part : Option Nat) (type addr info : Nat) :
    (s.dieEvent p part type addr info).fab = s.fab := rfl

@[simp] theorem State.tmEnd_fab (s : State) (n id code : Nat) (x : Net) : (s.tmEnd n id code x).fab = s.fab := by
  unfold State.tmEnd
  dsimp only
  split
  · rfl
  split
  · rfl
  split <;> rfl

@[simp] theorem State.failReq_fab (s : State) (r : Req) (cls code : Nat) : (s.failReq r cls code).fab = s.fab :=
  State.tmEnd_fab _ _ _ _ _

@[simp] theorem State.freeBytes_fab (s : State) (n : Nat) : (s.freeBytes n).2.fab = s.fab := by
  induction n generalizing s with
  | zero => rfl
  | succ n ih => exact ih _

@[simp] theorem State.giveCredits_fab (s : State) (p : Nat) : (s.giveCredits p).fab = s.fab := by
  unfold State.giveCredits
  dsimp only
  split
  · rfl
  split
  · rfl
  · exact State.freeBytes_fab s.freeBool.2 8

@[simp] theorem State.freeVia_fab (s : State) (x : Net) : (s.freeVia x).fab = s.fab := by
  unfold State.freeVia
  split
  · exact State.giveCredits_fab _ _
  · rfl

theorem failForeign_fab {x : Net} (h : x.kind ≠ 0) (s : State) (code : Nat) : (s.failForeign x code).fab = s.fab := by
  unfold State.failForeign
  dsimp only
  rw [if_neg fun hk => h hk.1]
  rfl

/-- A packet of this package that fails is answered by no packet of RD. -/
theorem failNet_fab {s : State} {x : Net} (h : x.spkg = s.own) (code : Nat) : (s.failNet x code).fab = s.fab := by
  unfold State.failNet
  split
  · rw [if_pos h, State.tmEnd_fab]
  · rw [if_pos h, State.tmEnd_fab]
  · split
    · rw [State.tmEnd_fab]
    · exact failForeign_fab Nat.one_ne_zero _ _
  · split
    · rfl
    · exact State.tmEnd_fab _ _ _ _ _
  · rfl

/-- Routing tables that stand but for the requests that wait and the notices that are owed. -/
def SameRoutes (s r : State) : Prop := ∃ reqs notes, r.fab = { s.fab with reqs := reqs, notes := notes }

theorem sameRoutes_of_fab {s r : State} (h : r.fab = s.fab) : SameRoutes s r := ⟨s.fab.reqs, s.fab.notes, h⟩

theorem SameRoutes.trans {s r u : State} (h : SameRoutes s r) (h' : SameRoutes r u) : SameRoutes s u := by
  obtain ⟨_, _, h⟩ := h
  obtain ⟨reqs, notes, h'⟩ := h'
  exact ⟨reqs, notes, by rw [h', h]⟩

theorem sameRoutes_foldl {α : Type} {f : State → α → State} (h : ∀ s a, SameRoutes s (f s a)) (l : List α) (s : State) :
    SameRoutes s (l.foldl f s) := by
  induction l generalizing s with
  | nil => exact sameRoutes_of_fab rfl
  | cons a l ih => exact (h s a).trans (ih _)

theorem sameRoutes_lostPacket (s : State) (x : Net) : SameRoutes s (s.lostPacket x) := by
  unfold State.lostPacket
  dsimp only
  split
  · next h => exact ⟨_, s.fab.notes, (failNet_fab (show x.spkg = State.own _ from h) _).trans rfl⟩
  · exact ⟨_, _, rfl⟩

theorem sameRoutes_linkDown (s : State) (p : Nat) : SameRoutes s (s.linkDown p) := by
  unfold State.linkDown
  dsimp only
  exact SameRoutes.trans (u := State.report _ _ _ _ _ _ _) ⟨_, _, rfl⟩
    (sameRoutes_foldl (fun s (q : BitVec 12 × Net) => sameRoutes_lostPacket s q.2) _ _)

theorem managerWrite_fab (s : State) : ∃ rcfg tcw, s.managerWrite.fab = { s.fab with rcfg := rcfg, tcw := tcw } := by
  unfold State.managerWrite
  dsimp only
  split
  · exact ⟨_, _, rfl⟩
  · split
    · exact ⟨_, _, rfl⟩
    · refine ⟨s.fab.rcfg, s.fab.tcw, ?_⟩
      unfold State.putPctl
      dsimp only
      generalize (if s.freeNat.1 / 4 % 577 = 576 then 0x3FF else s.freeNat.1 / 4 % 577) = q
      generalize s.freeNat.2.freeWord.1 = v
      have hfold : ∀ (l : List Nat) (r : State), (l.foldl (fun s p => s.setPort p (setPctl v (s.port p))) r).fab = r.fab := by
        intro l
        induction l with
        | nil => exact fun _ => rfl
        | cons p l ih => exact fun r => ih _
      split
      · exact hfold _ _
      · rfl
  · exact ⟨_, _, rfl⟩
  · exact ⟨_, _, rfl⟩

theorem foldl_failReq_fab (l : List Req) (cls code : Nat) (s : State) : (l.foldl (fun s r => s.failReq r cls code) s).fab = s.fab := by
  induction l generalizing s with
  | nil => rfl
  | cons r l ih => exact (ih _).trans (State.failReq_fab _ _ _ _)

theorem expireAll_fab (s : State) (sel : Nat → Bool) (cls code : Nat) : (s.expireAll sel cls code).fab = { s.fab with
    reqs := s.fab.reqs.filter fun r => !sel r.pkt.dpkg
    rdq := s.fab.rdq.filter fun x => !(x.spkg == s.own && decide (x.kind ≤ 1) && sel x.dpkg) } :=
  foldl_failReq_fab _ _ _ _

theorem tellManager_fab (s : State) : ∃ rdq, s.tellManager.fab = { s.fab with rdq := rdq } := by
  unfold State.tellManager
  split
  · exact ⟨s.fab.rdq, rfl⟩
  · dsimp only
    exact ⟨_, by rw [State.freeBytes_fab]⟩

/-! ### Links that go down -/

theorem port_linkDown_ne (s : State) {k p : Nat} (h : k ≠ p) : (s.linkDown p).port k = s.port k := by
  unfold State.linkDown
  dsimp only
  refine (State.port_congr (foldl_ports (fun s (q : BitVec 12 × Net) => State.lostPacket_ports s q.2) _ _) k).trans ?_
  exact State.port_setPort_ne _ h _

theorem up_linkDown {s : State} {k p : Nat} (h : k = p ∨ (s.port k).up = false) : ((s.linkDown p).port k).up = false := by
  rcases eq_or_ne k p with rfl | hne
  · rw [port_linkDown]
  · rw [port_linkDown_ne _ hne]
    exact h.resolve_left hne

theorem up_linksDown (k : Nat) (l : List Nat) (s : State) (h : k ∈ l ∨ (s.port k).up = false) :
    ((l.foldl (fun s p => (s.report 13 12 (unitParty 5) 0 0 0).linkDown p) s).port k).up = false := by
  induction l generalizing s with
  | nil => exact h.resolve_left List.not_mem_nil
  | cons p l ih =>
    refine ih _ ?_
    rcases h with h | h
    · rcases List.mem_cons.1 h with rfl | h
      · exact .inr (up_linkDown (.inl rfl))
      · exact .inl h
    · exact .inr (up_linkDown (.inr h))

theorem mem_ports_of_up {s : State} {k : Nat} (h : (s.port k).up = true) : k ∈ s.ports.map (·.1) := by
  have hfind : ∀ t : Tab Port, (tget t Port.reset k).up = true → k ∈ t.map (·.1) := by
    intro t
    induction t with
    | nil => exact fun h => absurd h Bool.false_ne_true
    | cons e t ih =>
      obtain ⟨j, x⟩ := e
      intro h
      rcases eq_or_ne j k with rfl | hne
      · exact List.mem_cons_self
      · refine List.mem_cons_of_mem _ (ih ?_)
        simpa [tget, tfind, hne] using h
  exact hfind _ h

/-! ### PACKET_FORWARD -/

theorem forward_adaptive {s : State} {i p q : Nat} {x : Net} (hx : s.fab.rdq[i]? = some x) (hp : s.peerOf p = some q)
    (hcut : s.cutOff = false) (hc : s.carries x p = true) (hh : s.holdsBack x = false) (hv : x.vc ≠ 2) (hg : x.igrp = none)
    (hm : s.minimal q x.dpkg = true) : exec (.packetForward i p) s =
      .next (if (s.port p).takes { x with vc := Config.freeNat s.free % 2 } then
        ({ s with free := s.free + 1 } : State).sendOn i p { x with vc := Config.freeNat s.free % 2 }
        else { s with free := s.free + 1 }) := by
  have hadapt : ({ s with free := s.free + 1 } : State).adaptive { x with vc := Config.freeNat s.free % 2 } q =
      (some { x with vc := Config.freeNat s.free % 2 }, { s with free := s.free + 1 }) := by
    unfold State.adaptive
    dsimp only
    rw [hg, if_neg (Option.some_ne_none _).symm]
    exact if_pos hm
  rw [exec_packetForward, execPacketForward, if_neg (by rw [hcut]; exact Bool.false_ne_true), hx]
  dsimp only
  rw [if_neg (by rw [hc, hh]; exact Bool.false_ne_true), if_neg hv]
  unfold State.forwardAdaptive
  rw [hp]
  dsimp only [State.freeNat]
  rw [hadapt]
  rfl

theorem forward_refused {s : State} {i p : Nat} {x : Net} (hx : s.fab.rdq[i]? = some x) (hcut : s.cutOff = false)
    (h : s.carries x p = false ∨ s.holdsBack x = true) : exec (.packetForward i p) s = .next s := by
  rw [exec_packetForward, execPacketForward, if_neg (by rw [hcut]; exact Bool.false_ne_true), hx]
  refine if_pos ?_
  rcases h with h | h <;> rw [h] <;> simp

theorem forward_cut {s : State} {i p : Nat} (hcut : s.cutOff = true) : exec (.packetForward i p) s =
    .next (if (s.party 5).viral && s.fab.notes.contains p then s.noticePort p else s) := by
  rw [exec_packetForward, execPacketForward, if_pos hcut]

/-- In escape the next hop that the version names is down, or another one now. -/
theorem forward_dead {s : State} {i p q m : Nat} {x : Net} {e : Nat × List (Nat × Nat)} {d : Bool} (hx : s.fab.rdq[i]? = some x)
    (hcut : s.cutOff = false) (hc : s.carries x p = true) (hh : s.holdsBack x = false) (hv : x.vc = 2)
    (hdead : (s.port p).up = false ∨ s.peerOf p ≠ some q) (he : (s.fab.trees.find? fun t => t.1 == x.tree) = some e)
    (hm : (e.2.find? fun k => k.1 == 1024 * s.own + p) = some (m, q))
    (hd : escapeHop e.2 s.own q x.dpkg x.down = some d) : exec (.packetForward i p) s = .next (s.deadHop i x) := by
  have hlinks : s.fab.links x.tree = e.2 := by
    unfold Fab.links
    rw [he]
    rfl
  rw [exec_packetForward, execPacketForward, if_neg (by rw [hcut]; exact Bool.false_ne_true), hx]
  dsimp only
  rw [if_neg (by rw [hc, hh]; exact Bool.false_ne_true), if_pos hv]
  unfold State.forwardEscape Fab.treePeer
  rw [hlinks, hm]
  dsimp only [Option.map_some]
  rw [hd]
  dsimp only
  rw [if_pos]
  rcases hdead with h | h
  · rw [h]
    rfl
  · rw [bne_iff_ne.2 h, Bool.or_true]

/-- The packets that a port has under way, and what it has sent, are not changed by a buffer freed at another. -/
theorem giveCredits_pkts (s : State) (p : Nat) : ((s.giveCredits p).port p).pkts = (s.port p).pkts := by
  unfold State.giveCredits
  dsimp only
  split
  · rfl
  split
  · rfl
  · rw [State.port_setPort]
    unfold Port.sendSeq
    dsimp only
    split <;> rfl

theorem port_giveCredits_ne (s : State) {k p : Nat} (h : k ≠ p) : (s.giveCredits p).port k = s.port k := by
  unfold State.giveCredits
  dsimp only
  split
  · rfl
  split
  · rfl
  · exact (State.port_setPort_ne _ h _).trans (State.port_congr (State.freeBytes_ports _ _) k)

theorem port_freeVia (s : State) (x : Net) (p : Nat) : ((s.freeVia x).port p).pkts = (s.port p).pkts ∧
    ((∀ c, x.via ≠ some (p, c)) → (s.freeVia x).port p = s.port p) := by
  unfold State.freeVia
  split
  · next k c hvia =>
    unfold State.owe
    rcases eq_or_ne p k with rfl | hne
    · rw [giveCredits_pkts, State.port_setPort]
      exact ⟨rfl, fun h => absurd hvia (h c)⟩
    · rw [port_giveCredits_ne _ hne, State.port_setPort_ne _ hne]
      exact ⟨rfl, fun _ => rfl⟩
  · exact ⟨rfl, fun _ => rfl⟩

theorem deadHop_ports (s : State) (i : Nat) (x : Net) : (s.deadHop i x).ports = (s.freeVia x).ports := by
  unfold State.deadHop
  exact State.lostPacket_ports _ _

theorem deadHop_rdq (s : State) (i : Nat) (x : Net) : (s.deadHop i x).fab.rdq = s.fab.rdq.eraseIdx i := by
  unfold State.deadHop
  dsimp only
  obtain ⟨_, _, h⟩ := sameRoutes_lostPacket ((((s.freeVia x).dropRdq i).dieEvent 5 (((s.freeVia x).dropRdq i).partTagged x.ptag) 0x19
    (x.spkg % 2 ^ 26) 4).reportPkt 19 11 (unitParty 5) x.ptag) x
  rw [h]
  exact congrArg (fun f : Fab => f.rdq.eraseIdx i) (State.freeVia_fab s x)

theorem noticePort_sends {s : State} {p q : Nat} (hp : s.peerOf p = some q) (ht : (s.port p).takes (s.noticeNet q) = true) :
    s.noticePort p = { s.setPort p ((s.port p).sendNet (s.noticeNet q)) with
      fab := { s.fab with notes := s.fab.notes.filter (· != p) } } := by
  unfold State.noticePort
  rw [hp]
  exact if_pos ht

/-! ### Tree versions -/

theorem escapeEntry_enters {s : State} {i v : Nat} {x : Net} {e : List (Nat × Nat)} (hx : s.fab.rdq[i]? = some x)
    (ht : s.fab.trees.getLast? = some (v, e)) (hv : x.vc ≠ 2) : exec (.escapeEntry i) s =
      .next (({ s with fab := { s.fab with rdq := s.fab.rdq.set i { x with vc := 2, tree := v, down := false } } } : State).dieCount
        5 9 1) := by
  rw [exec_escapeEntry, execEscapeEntry, hx, ht]
  exact if_neg hv

/-- The topology table that a tree brings: its links, with those known so far or alone. -/
theorem rewire_fab (s : State) (l : List (Nat × Nat)) : ∃ reqs notes topo, (s.rewire l).fab =
    { s.fab with reqs := reqs, notes := notes, topo := topo } ∧ (∀ e ∈ l, e ∈ topo) ∧ (topo = l ∨ ∀ e ∈ s.fab.topo, e ∈ topo) := by
  unfold State.rewire
  dsimp only
  split
  · obtain ⟨reqs, notes, h⟩ := sameRoutes_foldl (f := fun s p => if (s.port p).up && s.peerOf p = none then s.linkDown p else s)
      (fun s p => by
        split
        · exact sameRoutes_linkDown s p
        · exact sameRoutes_of_fab rfl)
      (s.freeBool.2.ports.map (·.1)) { s.freeBool.2 with fab := { s.freeBool.2.fab with topo := l } }
    exact ⟨reqs, notes, l, h, fun _ h => h, .inl rfl⟩
  · refine ⟨s.fab.reqs, s.fab.notes, s.fab.topo ++ l.filter fun e => !s.fab.topo.contains e, rfl, fun e he => ?_,
      .inr fun e he => List.mem_append_left _ he⟩
    by_cases h : e ∈ s.fab.topo
    · exact List.mem_append_left _ h
    · exact List.mem_append_right _ (List.mem_filter.2 ⟨he, by simpa using h⟩)

theorem treeInstall_installs {s : State} {v : Nat} (l : List (Nat × Nat)) (hl : s.fab.trees.length < 4)
    (hv : (s.fab.trees.all fun t => t.1 != v) = true) : exec (.treeInstall v l) s =
      .next ((({ s with fab := { s.fab with trees := s.fab.trees ++ [(v, l)], unreach := [], dead := [] } } : State).rewire
        l).managerWrite) := by
  rw [exec_treeInstall, execTreeInstall]
  refine if_neg ?_
  rw [not_or]
  refine ⟨by omega, fun h => ?_⟩
  obtain ⟨t, ht, htv⟩ := List.any_eq_true.1 h
  exact absurd (beq_iff_eq.1 htv) (bne_iff_ne.1 (List.all_eq_true.1 hv t ht))

theorem treeRetire_retires {s : State} {v : Nat} (h : (s.fab.rdq.all fun x => x.vc != 2 || x.tree != v) = true)
    (hv : (s.fab.trees.getLast?.map (·.1)) ≠ some v) : exec (.treeRetire v) s =
      .next { s with fab := { s.fab with trees := s.fab.trees.filter fun t => t.1 != v } } := by
  rw [exec_treeRetire, execTreeRetire]
  refine if_neg ?_
  rw [Bool.or_eq_true, not_or]
  refine ⟨fun hany => ?_, fun he => hv (beq_iff_eq.1 he)⟩
  obtain ⟨x, hx, hxv⟩ := List.any_eq_true.1 hany
  obtain ⟨hvc, htree⟩ := Bool.and_eq_true_iff.1 hxv
  have := List.all_eq_true.1 h x hx
  simp_all

/-! ### Liveness, silent groups and viral notices -/

theorem suspendSent_fab (s : State) (sel : W64 → Bool) : (s.suspendSent sel).fab = s.fab := by
  have hgroups : ∀ (l : List W64) (p : Nat) (s : State), (l.foldl (fun s g =>
      if sel g then s.suspend p (s.tgtPkg g) 1 else s) s).fab = s.fab := fun l p => by
    induction l with
    | nil => exact fun _ => rfl
    | cons g l ih =>
      intro s
      rw [List.foldl_cons, ih]
      split <;> rfl
  have htiles : ∀ (l : Tab Tile) (s : State), (l.foldl (fun s e =>
      (e.2.coll.flatMap fun c => c.2.sent.map fun d => c.2.peer d.peer).foldl (fun s g =>
        if sel g then s.suspend (partyOf (dieOf e.1)) (s.tgtPkg g) 1 else s) s) s).fab = s.fab := fun l => by
    induction l with
    | nil => exact fun _ => rfl
    | cons e l ih => exact fun s => (ih _).trans (hgroups _ _ _)
  exact htiles _ _

theorem foldl_suspend_fab (q : Nat) (l : List Req) (s : State) : (l.foldl (fun s _ => s.suspend 5 q 1) s).fab = s.fab := by
  induction l generalizing s with
  | nil => rfl
  | cons r l ih => exact ih _

/-- What a package tells of being held is noted, and nothing else of RD's tables. -/
theorem hears_fab (s : State) (q : Nat) (held : Bool) : ∃ l, (s.hears q held).fab = { s.fab with held := l } ∧
    l.contains q = held := by
  unfold State.hears
  dsimp only
  cases held with
  | false => exact ⟨s.fab.held.filter (· != q), rfl, by simp⟩
  | true =>
    rw [if_neg (by decide)]
    split
    · exact ⟨s.fab.held, rfl, ‹_›⟩
    · refine ⟨s.fab.held.filter (· != q) ++ [q], ?_, by simp⟩
      split
      · rw [suspendSent_fab, foldl_suspend_fab]
      · exact (suspendSent_fab _ _).trans (foldl_suspend_fab _ _ _)

theorem livenessSend_sends {s : State} {p q : Nat} (hp : s.peerOf p = some q) (hg : isGlobal p = true)
    (ht : (s.port p).takes (s.livenessNet q) = true) (hc : s.cutOff = false) :
    exec (.livenessSend p) s = .next (s.setPort p ((s.port p).sendNet (s.livenessNet q))) := by
  rw [exec_livenessSend, execLivenessSend, hp]
  exact if_pos (by rw [hg, ht, hc]; rfl)

theorem receives_cut {s : State} (p : Nat) (hc : s.cutOff = true) :
    exec (.livenessReceive p) s = .next s ∧ exec (.viralNoticeReceive p) s = .next s := by
  rw [exec_livenessReceive, execLivenessReceive, exec_viralNoticeReceive, execViralNoticeReceive]
  cases s.peerOf p with
  | none => exact ⟨rfl, rfl⟩
  | some q => exact ⟨if_pos (by rw [hc, Bool.or_true]), if_pos (by rw [hc, Bool.or_true])⟩

/-- A group heard of. -/
def heardOf (f : Fab) (g : Nat) : Fab := if f.alive.contains g then f else { f with alive := f.alive ++ [g] }

/-- Every link to a package down. -/
def linksDowned (s : State) (q : Nat) : State :=
  ((s.ports.map (·.1)).filter fun p => (s.port p).up && s.peerOf p == some q).foldl
    (fun s p => (s.report 13 12 (unitParty 5) 0 0 0).linkDown p) s

@[simp] theorem linksDowned_mem (s : State) (q : Nat) : (linksDowned s q).mem = s.mem := by
  unfold linksDowned
  exact foldl_mem _ (fun s p => by simp) _ _

theorem up_linksDowned {s : State} {q k : Nat} (hk : s.peerOf k = some q) : ((linksDowned s q).port k).up = false := by
  refine up_linksDown k _ s ?_
  cases hku : (s.port k).up with
  | false => exact .inr rfl
  | true => exact .inl (List.mem_filter.2 ⟨mem_ports_of_up hku, by rw [hku, hk]; simp⟩)

section
variable {s : State} {p q : Nat} (hp : s.peerOf p = some q) (hup : (s.port p).up = true) (hc : s.cutOff = false)
include hp hup hc

theorem livenessReceive_notes : exec (.livenessReceive p) s =
    .next (({ s with fab := heardOf s.fab (pkgGroup q), free := s.free + 1 } : State).hears q (Config.freeBool s.free)) := by
  rw [exec_livenessReceive, execLivenessReceive, hp]
  dsimp only
  rw [if_neg (by rw [hup, hc]; exact Bool.false_ne_true)]
  unfold heardOf
  split <;> rfl

theorem viralNotice_fails : ∃ v : State, v.ports = (linksDowned s q).ports ∧ v.mem = s.mem ∧
    exec (.viralNoticeReceive p) s = .next
      (({ v with fab := { v.fab with dead := v.fab.dead.filter (· != q) ++ [q] } } : State).expireAll (fun p => p == q) 15 7) := by
  rw [exec_viralNoticeReceive, execViralNoticeReceive, hp]
  dsimp only
  rw [if_neg (by rw [hup, hc]; exact Bool.false_ne_true)]
  refine ⟨_, ?_, ?_, rfl⟩
  · exact foldl_ports (f := fun s (r : Req) => s.reportAt 5 14 11 r.pkt.stile 0) (fun _ _ => rfl) _ _
  · exact (foldl_mem (fun s (r : Req) => s.reportAt 5 14 11 r.pkt.stile 0) (fun _ _ => rfl) _ _).trans (linksDowned_mem s q)

end

theorem groupTimeout_silent {s : State} {v : Nat} (ha : s.fab.alive.contains v = false) (hu : s.fab.unreach.contains v = false)
    (hv : v ≠ pkgGroup s.own) : exec (.groupTimeout v) s = .next (if s.fab.held.any fun q => pkgGroup q == v then s else
      ((({ s with fab := { s.fab with unreach := s.fab.unreach ++ [v] } } : State).report 15 11 (unitParty 5) 0 0 0).expireAll
        (fun p => pkgGroup p == v) 15 7).tellManager) := by
  rw [exec_groupTimeout, execGroupTimeout]
  dsimp only
  rw [if_neg (by rw [ha]; exact Bool.false_ne_true), hu, beq_false_of_ne hv, Bool.false_or, Bool.false_or]
  split <;> rfl

theorem ports_expireAll (s : State) (sel : Nat → Bool) (cls code : Nat) : (s.expireAll sel cls code).ports = s.ports := by
  unfold State.expireAll
  exact foldl_ports (f := fun s r => s.failReq r cls code) (fun s r => State.tmEnd_ports _ _ _ _ _) _ _

/-- Settles O48: forwarding, escape, tree versions, liveness, silent groups and notices, each by its move's equation and by what
it leaves of RD's tables. -/
theorem routingMoves : Obligations.RoutingMoves := by
  unfold Obligations.RoutingMoves
  intro s i p q v x
  refine ⟨fun hx hp hcut hc hh hv hg hm => forward_adaptive hx hp hcut hc hh hv hg hm,
    fun hx hcut h => forward_refused hx hcut h, fun hcut hn => ?_, fun hv hn hp ht => ?_,
    fun hx hcut hc hh hv hdead e m d he hm hd => ?_, fun e hx ht hv => ⟨_, escapeEntry_enters hx ht hv, rfl⟩,
    fun l hl hv => ?_, fun h hv => treeRetire_retires h hv,
    fun hp hg ht hc => ⟨livenessSend_sends hp hg ht hc, rfl, rfl, rfl, rfl⟩, fun hc => receives_cut p hc, fun hp hup hc => ?_,
    fun ha => ?_, fun ha hu hv => ⟨fun hh => ?_, fun hh => ?_⟩, fun hp hup hc => ?_⟩
  · rw [forward_cut hcut, hn, Bool.and_false]
    rfl
  · have hcut : s.cutOff = true := by
      unfold State.cutOff
      rw [hv, Bool.true_or]
    rw [forward_cut hcut, hv, hn, Bool.and_self, if_pos rfl, noticePort_sends hp ht]
    exact ⟨_, rfl, State.port_setPort _ _ _, by simp, rfl⟩
  · have hports := State.port_congr (deadHop_ports s i x) p
    obtain ⟨hpkts, hsame⟩ := port_freeVia s x p
    exact ⟨_, forward_dead hx hcut hc hh hv hdead he hm hd, deadHop_rdq s i x, (congrArg Port.pkts hports).trans hpkts,
      fun h => congrArg Port.out (hports.trans (hsame h)), congrArg Prod.fst (by simp : (_ : State).mem = s.mem)⟩
  · obtain ⟨reqs, notes, topo, hrew, hsub, htopo⟩ := rewire_fab
      { s with fab := { s.fab with trees := s.fab.trees ++ [(v, l)], unreach := [], dead := [] } } l
    obtain ⟨rcfg, tcw, hman⟩ := managerWrite_fab
      (({ s with fab := { s.fab with trees := s.fab.trees ++ [(v, l)], unreach := [], dead := [] } } : State).rewire l)
    refine ⟨_, treeInstall_installs l hl hv, ?_⟩
    rw [hman, hrew]
    exact ⟨rfl, rfl, rfl, hsub, htopo, congrArg Prod.fst (by simp : (_ : State).mem = s.mem)⟩
  · obtain ⟨held, hfab, hheld⟩ := hears_fab { s with fab := heardOf s.fab (pkgGroup q), free := s.free + 1 } q
      (Config.freeBool s.free)
    refine ⟨_, livenessReceive_notes hp hup hc, ?_⟩
    rw [hfab]
    refine ⟨?_, hheld, congrArg Prod.fst (by simp : (_ : State).mem = s.mem)⟩
    unfold heardOf
    dsimp only
    split <;> rfl
  · rw [exec_groupTimeout, execGroupTimeout]
    exact if_pos ha
  · rw [groupTimeout_silent ha hu hv, if_pos hh]
  · rw [groupTimeout_silent ha hu hv, if_neg (by rw [hh]; exact Bool.false_ne_true)]
    obtain ⟨rdq, htell⟩ := tellManager_fab (((({ s with fab := { s.fab with unreach := s.fab.unreach ++ [v] } } : State).report 15 11
      (unitParty 5) 0 0 0).expireAll (fun p => pkgGroup p == v) 15 7))
    refine ⟨_, rfl, ?_⟩
    rw [htell, expireAll_fab]
    exact ⟨rfl, fun e he => by simpa using (List.mem_filter.1 he).2, congrArg Prod.fst (by simp : (_ : State).mem = s.mem)⟩
  · obtain ⟨u, hports, hmem, hgo⟩ := viralNotice_fails hp hup hc
    refine ⟨_, hgo, ?_⟩
    rw [expireAll_fab]
    refine ⟨List.mem_append_right _ List.mem_cons_self, fun e he => by simpa using (List.mem_filter.1 he).2, fun k hk => ?_,
      congrArg Prod.fst ((by simp : (_ : State).mem = u.mem).trans hmem)⟩
    have hall := (ports_expireAll { u with fab := { u.fab with dead := u.fab.dead.filter (· != q) ++ [q] } } (fun p => p == q) 15
      7).trans hports
    rw [State.port_congr hall]
    exact up_linksDowned hk

end Sys2Proof.Laws
end

section

/-! # Dispatch, START, requests, drains and the end of a task (13 R268 to R296) -/

namespace Sys2Proof.Laws
open Sys2Proof.Machine Sys2Proof.Claim

/-! ### What leaves the running tasks as they stand -/

/-- The running tasks and the tiles. -/
def tasks (s : State) : List Run × Tab Tile := (s.runs, s.tiles)

theorem tasks_foldl {α : Type} {f : State → α → State} (h : ∀ s a, tasks (f s a) = tasks s) (l : List α) (s : State) :
    tasks (l.foldl f s) = tasks s := by
  induction l generalizing s with
  | nil => rfl
  | cons a l ih => exact (ih _).trans (h _ _)

theorem tasks_walkNote (s : State) (party unit part : Nat) (note : WalkNote) : tasks (s.walkNote party unit part note) = tasks s := by
  unfold State.walkNote
  split
  · dsimp only
    split
    · split <;> rfl
    split
    · split <;> rfl
    split
    · split <;> rfl
    split <;> rfl
  · rfl

theorem tasks_writeBulk (s : State) (pa : Nat) (l : List Byte) : tasks (s.writeBulk pa l) = tasks s := by
  unfold State.writeBulk
  split <;> rfl

theorem tasks_refused (s : State) (asid pa : Nat) : tasks (s.refused asid pa) = tasks s := by
  unfold State.refused
  dsimp only
  split <;> rfl

theorem tasks_pinWrite (pins : List TlbE) (k va : Nat) (l : List Byte) (s : State) : tasks (s.pinWrite pins k va l) = tasks s := by
  induction k generalizing s va l with
  | zero => rfl
  | succ k ih =>
    unfold State.pinWrite
    split
    · rfl
    dsimp only
    rw [ih]
    split
    · split
      · rfl
      split
      · exact tasks_writeBulk _ _ _
      · exact tasks_refused _ _ _
    · rfl

theorem tasks_complete (s : State) (r status : Nat) (trapc trapv : W64) : tasks (s.complete r status trapc trapv) = tasks s := by
  unfold State.complete
  dsimp only
  split
  · exact tasks_pinWrite _ _ _ _ _
  split
  · exact tasks_pinWrite _ _ _ _ _
  · exact tasks_walkNote _ _ _ _ _

theorem tasks_setRecState (s : State) (r st : Nat) : tasks (s.setRecState r st) = tasks s := rfl

theorem tasks_setRinf (s : State) (r : Nat) (x : RInfo) : tasks (s.setRinf r x) = tasks s := rfl

theorem tasks_journalDev (s : State) (state rcd ref detail : Nat) : tasks (s.journalDev state rcd ref detail) = tasks s := rfl

theorem tasks_saved (s : State) (l : Tab SavedQ) : tasks { s with saved := l } = tasks s := rfl

theorem tasks_endRec (s : State) (r : Nat) (d : Dead) : tasks (s.endRec r d) = tasks s := by
  unfold State.endRec
  extract_lets s₁ s₂ s₃ x s₄
  calc tasks _ = tasks (s₄.setRecState r (if d.status = 0 then recDone else recPoisoned)) := tasks_saved _ _
    _ = tasks s₄ := tasks_setRecState _ _ _
    _ = tasks s₃ := tasks_setRinf _ _ _
    _ = tasks s₂ := tasks_complete _ _ _ _ _
    _ = tasks s₁ := tasks_journalDev _ _ _ _ _
    _ = tasks s := rfl

theorem tasks_decrementBy (s : State) (p r : Nat) : tasks (s.decrementBy p r) = tasks s := by
  have hdecrement : tasks (s.decrement r) = tasks s := by
    unfold State.decrement
    dsimp only
    split
    · split
      · rfl
      split <;> rfl
    · rfl
  unfold State.decrementBy
  split
  · exact hdecrement
  · rfl

theorem tasks_writeBack (s : State) (x : Run) : tasks (s.writeBack x) = tasks s := by
  unfold State.writeBack
  refine tasks_foldl (fun s o => ?_) _ s
  split
  · exact tasks_pinWrite _ _ _ _ _
  · rfl

/-! ### Ageing -/

/-- Records, running tasks and pins are not what ageing changes. -/
theorem age_eq (s : State) (r : Nat) : ∃ pool resv free, s.age r = { s with pool := pool, resv := resv, free := free } := by
  unfold State.age
  split
  · exact ⟨s.pool, s.resv, s.free, rfl⟩
  dsimp only
  split
  · exact ⟨_, s.resv, s.free, rfl⟩
  split
  · exact ⟨_, s.resv, s.free, rfl⟩
  split
  · exact ⟨_, s.resv, s.free, rfl⟩
  · unfold State.reserve
    split
    · exact ⟨_, s.resv, s.free, rfl⟩
    · exact ⟨_, _, _, rfl⟩

theorem foldl_age_eq (l : List Nat) (s : State) :
    ∃ pool resv free, l.foldl State.age s = { s with pool := pool, resv := resv, free := free } := by
  induction l generalizing s with
  | nil => exact ⟨s.pool, s.resv, s.free, rfl⟩
  | cons r l ih =>
    obtain ⟨_, _, _, h⟩ := age_eq s r
    obtain ⟨pool, resv, free, h'⟩ := ih (s.age r)
    exact ⟨pool, resv, free, by rw [List.foldl_cons, h', h]⟩

/-! ### The decision -/

section
variable {s : State} {r : Nat} {l : List Nat} (hd : s.dispatches = true)
include hd

theorem decision_refused (he : s.examine s.poolOrder [] = some (r, none, l)) :
    exec .dispatchDecision s = .next (s.poisonRec r ⟨4, 0, 0, 0, 0⟩) := by
  rw [exec_dispatchDecision, execDispatchDecision, if_pos hd]
  unfold State.decide_
  rw [he]

variable {qs : List Nat} (he : s.examine s.poolOrder [] = some (r, some qs, l))
include he

theorem decision_unpinned {w : WalkNote} (hp : s.prepFor r = .error w) : exec .dispatchDecision s =
    .next ((s.walkNote 0 (unitParty 0) (s.recPart r) w).poisonRec r ⟨4, 0, 0, 0, 0⟩) := by
  rw [exec_dispatchDecision, execDispatchDecision, if_pos hd]
  unfold State.decide_
  rw [he]
  dsimp only
  rw [hp]

variable {p : Prep} (hp : s.prepFor r = .ok p)
include hp

theorem decision_tainted {pa : Nat} (ht : (l.foldl State.age s).imageTaint r p = some pa) :
    let aged := l.foldl State.age s
    let (status, cls, source) := if (aged.rinf r).saved then (1, 21, 13) else (4, aged.lossOf pa)
    exec .dispatchDecision s = .next ((aged.report cls source (unitParty 0) 0 pa 0).poisonRec r ⟨status, 0, 0, cls, source⟩) := by
  rw [exec_dispatchDecision, execDispatchDecision, if_pos hd]
  unfold State.decide_
  rw [he]
  dsimp only
  rw [hp]
  dsimp only
  rw [ht]

theorem decision_passes (ht : (l.foldl State.age s).imageTaint r p = none) (hf : (l.foldl State.age s).fit r = none) :
    exec .dispatchDecision s = .next (l.foldl State.age s) := by
  rw [exec_dispatchDecision, execDispatchDecision, if_pos hd]
  unfold State.decide_
  rw [he]
  dsimp only
  rw [hp]
  dsimp only
  rw [ht, hf]

theorem decision_binds {ts : List Nat} (ht : (l.foldl State.age s).imageTaint r p = none)
    (hf : (l.foldl State.age s).fit r = some ts) :
    exec .dispatchDecision s = .next ((l.foldl State.age s).dispatch r ts p) := by
  rw [exec_dispatchDecision, execDispatchDecision, if_pos hd]
  unfold State.decide_
  rw [he]
  dsimp only
  rw [hp]
  dsimp only
  rw [ht, hf]

end

/-- The pool and the running tasks. -/
def pooled (s : State) : List PoolE × List Run := (s.pool, s.runs)

theorem pooled_foldl {α : Type} {f : State → α → State} (h : ∀ s a, pooled (f s a) = pooled s) (l : List α) (s : State) :
    pooled (l.foldl f s) = pooled s := by
  induction l generalizing s with
  | nil => rfl
  | cons a l ih => exact (ih _).trans (h _ _)

theorem pooled_setRinf (s : State) (r : Nat) (x : RInfo) : pooled (s.setRinf r x) = pooled s := rfl

theorem pooled_journalDev (s : State) (state rcd ref detail : Nat) : pooled (s.journalDev state rcd ref detail) = pooled s := rfl

/-- A record dispatched leaves the pool and runs on its tiles. -/
theorem pooled_dispatch (s : State) (r : Nat) (qs : List Nat) (p : Prep) : pooled (s.dispatch r qs p) =
    (s.pool.filter fun e => e.rcd != r, s.runs ++ [⟨r, s.recPart r, rankTiles (s.recStages r) qs, none, false, [], none⟩]) := by
  unfold State.dispatch
  extract_lets st tiles x s₁ s₂ y s₃ s₄
  have hpool : s₁.pool = s.pool := by
    unfold s₁
    split <;> rfl
  have hruns : s₁.runs = s.runs := by
    unfold s₁
    split <;> rfl
  have hpart : s₁.recPart r = s.recPart r := by
    unfold s₁
    split <;> rfl
  have hy : pooled y = (s₁.pool.filter fun e => e.rcd != r, s₁.runs ++ [⟨r, s₁.recPart r, tiles, none, false, [], none⟩]) := rfl
  calc pooled _ = pooled s₄ := by refine pooled_foldl ?_ _ _; exact fun _ _ => rfl
    _ = pooled s₃ := pooled_journalDev _ _ _ _ _
    _ = pooled y := pooled_setRinf _ _ _
    _ = _ := hy
    _ = _ := by rw [hpool, hruns, hpart]

/-! ### START -/

section
variable {s : State} {n : Nat} {b : Boot} {k : Bind} (hn : n < 256) (hb : (s.tile n).boot = some b) (hk : (s.tile n).task = some k)
include hn hb hk

theorem start_loads (hl : b.loaded = false) : exec (.start n) s = .next (s.loadTile n b) := by
  rw [exec_start, execStart, Nat.mod_eq_of_lt hn, hb, hk]
  exact if_pos (by rw [hl]; rfl)

/-- Once a tile is loaded and nothing of its staging is on its way. -/
theorem start_begins (hl : b.loaded = true) (ha : ∀ w ∈ (s.tile n).async, ∀ x y z, w.w ≠ .stage x y z) : exec (.start n) s =
    if b.restore then
      match s.frameTaint b k.rank, s.restoreTile n b k.rank with
      | some pa, _ => .next (s.report 21 13 n 0 pa 0)
      | none, some s => .next (s.tileEvent n 4 0x20 b.rcd (k.rank + 256))
      | none, none => .next (s.kill b.rcd ⟨2, 0, 0, 0, 0⟩)
    else .next (s.startFresh n b k.rank) := by
  rw [exec_start, execStart, Nat.mod_eq_of_lt hn, hb, hk]
  dsimp only
  rewrite [if_neg (by rw [hl]; exact Bool.false_ne_true), if_neg]
  · rfl
  · intro hany
    obtain ⟨w, hw, hs⟩ := List.any_eq_true.1 hany
    split at hs
    · exact ha w hw _ _ _ ‹_›
    · exact Bool.false_ne_true hs

end

theorem tile_inval (s : State) (d n : Nat) : (s.inval d).tile n = s.tile n := rfl

/-- A tile loaded. -/
theorem tile_loadTile (s : State) (n : Nat) (b : Boot) : (s.loadTile n b).tile n =
    (s.tile n).load b (s.pinned (s.rinf b.rcd).pins (s.recAt b.rcd 8 8 + b.code + 256)
      (min (64 * s.recAt b.rcd 6 2 - (b.code + 256)) 0x38000)) (s.pinned (s.rinf b.rcd).pins (s.recAt b.rcd 8 8 + b.code) 256)
      (s.opnds b.rcd) (stageAll (s.rinf b.rcd).pins (s.opnds b.rcd)) := by
  unfold State.loadTile
  dsimp only
  rw [tile_inval, tile_modTile]
  split <;> rfl

/-- Formats that operands name. -/
def opndFmts (ops : List Opnd) (v : Vector (BitVec 4) 12) : Vector (BitVec 4) 12 :=
  ops.foldl (fun v o => if o.fmt = 15 then v else v.set (Fin.ofNat 12 (o.sad / 0x40000)) (BitVec.ofNat 4 o.fmt)) v

theorem opndFmts_other (ops : List Opnd) (v : Vector (BitVec 4) 12) (j : Fin 12)
    (h : ∀ o ∈ ops, o.fmt ≠ 15 → o.sad / 0x40000 % 12 ≠ j.val) : (opndFmts ops v).get j = v.get j := by
  induction ops generalizing v with
  | nil => rfl
  | cons o l ih =>
    refine (ih _ fun x hx => h x (List.mem_cons_of_mem _ hx)).trans ?_
    dsimp only
    by_cases hf : o.fmt = 15
    · rw [if_pos hf]
    · rw [if_neg hf, vector_get_set, if_neg fun he => h o List.mem_cons_self hf (congrArg Fin.val he)]

theorem opndFmts_last (l : List Opnd) (o : Opnd) (v : Vector (BitVec 4) 12) (j : Fin 12) (hf : o.fmt ≠ 15)
    (hj : o.sad / 0x40000 % 12 = j.val) : (opndFmts (l ++ [o]) v).get j = BitVec.ofNat 4 o.fmt := by
  unfold opndFmts
  rw [List.foldl_append, List.foldl_cons, List.foldl_nil, if_neg hf]
  rw [vector_get_set, if_pos (Fin.ext hj)]

theorem slot_startSlots (t : Tile) (base : List Nat) (k : Slot) : (t.startSlots base).slot k = { SlotSt.reset with
    pc := BitVec.ofNat 18 (base.getD (Slot.num k) 0), running := true, base := t.cyc } := by
  cases k <;> rfl

/-- A tile that has begun its task. -/
theorem tile_startTile (s : State) (n : Nat) (b : Boot) : (s.startTile n b).tile n =
    { ((s.tile n).startBase.startSlots b.base) with x := Vector.ofFn fun i => w64 (s.recAt b.rcd (32 + 8 * i.val) 8) } := by
  unfold State.startTile
  dsimp only
  exact tile_modTile _ _ _

theorem startFresh_ok {s : State} {n : Nat} {b : Boot} (rank : Nat) (h : s.startFmtBad n b.rcd = false) :
    s.startFresh n b rank = (s.startTile n b).tileEvent n 4 0x20 b.rcd rank := by
  unfold State.startFresh
  refine if_neg ?_
  have ht : (((s.startTile n b).tileEvent n 4 0x20 b.rcd rank).tile n).bfmt = (s.tile n).bfmt := by
    unfold State.tileEvent
    rw [tile_modTile, tile_startTile]
    rfl
  have hbad : ((s.startTile n b).tileEvent n 4 0x20 b.rcd rank).startFmtBad n b.rcd = s.startFmtBad n b.rcd := by
    unfold State.startFmtBad
    rw [ht]
    rfl
  rw [hbad, h]
  exact Bool.false_ne_true

/-! ### The end of a task -/

theorem release_foldl (l : List Nat) (s : State) (m : Nat) :
    ((l.foldl (fun s n => s.modTile n Tile.release) s).tile m).spad = (s.tile m).spad ∧
    ((m ∈ l ∨ (s.tile m).task = none) → ((l.foldl (fun s n => s.modTile n Tile.release) s).tile m).task = none) := by
  induction l generalizing s with
  | nil => exact ⟨rfl, fun h => h.resolve_left List.not_mem_nil⟩
  | cons n l ih =>
    obtain ⟨hspad, htask⟩ := ih (s.modTile n Tile.release)
    rcases eq_or_ne m n with rfl | hne
    · rw [tile_modTile] at hspad htask
      exact ⟨hspad, fun _ => htask (.inr rfl)⟩
    · have hsame : (s.modTile n Tile.release).tile m = s.tile m := State.tile_setTile_ne _ _ _ _ hne
      rw [hsame] at hspad htask
      exact ⟨hspad, fun h => htask (h.imp_left fun h => (List.mem_cons.1 h).resolve_left hne)⟩

theorem unbind_runs (s : State) (x : Run) : (s.unbind x).runs = s.runs.filter fun y => y.rcd != x.rcd := by
  have hfold : ∀ (l : List Nat) (s : State), (l.foldl (fun s n => s.modTile n Tile.release) s).runs = s.runs := by
    intro l
    induction l with
    | nil => exact fun _ => rfl
    | cons n l ih => exact fun s => ih _
  unfold State.unbind
  dsimp only
  rw [hfold]

theorem taskDone_unbinds (s : State) (x : Run) : ∃ u : State, tasks u = tasks s ∧ s.taskDone x = u.unbind x := by
  refine ⟨_, ?_, rfl⟩
  refine (tasks_foldl (fun s r => tasks_decrementBy s _ r) _ _).trans ?_
  exact (tasks_endRec _ _ _).trans (tasks_writeBack _ _)

section
variable {s : State} {i : Nat} {x : Run} (hx : s.runs[i]? = some x)
include hx

theorem taskEnd_lives (hd : x.dead = none) : exec (.taskEnd i) s = .next (if (s.party 0).viral then s
    else if x.tiles.all fun n => (s.tile n).over_ then s.taskDone x else s) := by
  rw [exec_taskEnd, execTaskEnd, hx]
  dsimp only
  rw [hd]
  dsimp only
  split
  · rfl
  split <;> rfl

theorem taskEnd_dead {d : Dead} (hd : x.dead = some d) (hv : (s.party 0).viral = false)
    (h : (x.tiles.all fun n => (s.tile n).still && (s.tile n).written) = true) : exec (.taskEnd i) s = .next (s.taskKilled x d) := by
  rw [exec_taskEnd, execTaskEnd, hx]
  dsimp only
  rw [if_neg (by rw [hv]; exact Bool.false_ne_true), hd]
  exact if_pos h

end

theorem taskEnd_viral {s : State} (i : Nat) (hv : (s.party 0).viral = true) : exec (.taskEnd i) s = .next s := by
  rw [exec_taskEnd, execTaskEnd]
  split
  · rfl
  · exact if_pos hv

/-! ### Requests, drains and watchdogs -/

section
variable {s : State} {n : Nat} (hn : n < 256)
include hn

theorem preemptArrive_begins {r : Nat} {l : List Nat} {x : Run} (hr : (s.tile n).reqs = r :: l) (hh : (s.tile n).hold = none)
    (hb : (s.tile n).boot = none) (hp : (s.tile n).phase = 0) (hx : s.runOf n = some x) (hk : (s.tile n).killed = false)
    (he : s.allEnded x = false) (hd : (s.tile n).drn = none) : exec (.preemptArrive n) s = .next (s.setTile n
      (if (s.tile n).inh then { s.tile n with reqs := l, preq := some ((s.tile n).preq.getD r) }
        else ({ s.tile n with reqs := l } : Tile).beginDrain r)) := by
  rw [exec_preemptArrive, execPreemptArrive, Nat.mod_eq_of_lt hn]
  dsimp only
  rw [hr]
  dsimp only
  rw [if_neg (by rw [hh, hb, hp]; simp), hx]
  dsimp only
  rw [if_neg (by rw [hk]; exact Bool.false_ne_true)]
  unfold State.arrive
  dsimp only
  rw [if_neg (by rw [he]; exact Bool.false_ne_true), if_neg (by rw [hd]; exact Bool.false_ne_true)]
  split <;> rfl

theorem preemptInhTimeout_begins {r : Nat} (hr : (s.tile n).preq = some r) (hi : (s.tile n).inh = true)
    (hh : (s.tile n).hold = none) (hk : (s.tile n).killed = false) (hp : (s.tile n).phase = 0) :
    exec (.preemptInhTimeout n) s = .next (s.setTile n ((s.tile n).beginDrain r)) := by
  rw [exec_preemptInhTimeout, execPreemptInhTimeout, Nat.mod_eq_of_lt hn, hr]
  exact if_pos ⟨hi, by rw [hh]; rfl, by rw [hk]; rfl, hp⟩

theorem stubTimeout_eq (k : Slot) : exec (.stubTimeout n k) s =
    .next (if ((s.tile n).slot k).stub then s.setTile n ((s.tile n).dropStub k) else s) := by
  rw [exec_stubTimeout, execStubTimeout, Nat.mod_eq_of_lt hn]
  split <;> rfl

theorem frameComplete_goes {d : Drain} {b : Bind} {c : Cap} (hd : (s.tile n).drn = some d) (hb : (s.tile n).task = some b)
    (hc : d.cap = some c) (ha : (s.tile n).allDrained = true) (hk : (s.tile n).killed = false) (hv : (s.party 0).viral = false)
    (hs : ((s.run b.rcd).all fun x => x.saves.contains b.rank) = false) : exec (.frameComplete n) s =
      if d.mimg.isNone && !d.want then
        if (s.tile n).mayImage then .next (s.setTile n ((s.tile n).askImage d)) else .next s
      else if (d.mimg.isNone && d.image.isNone) || !(s.tile n).saveable then .next s
      else .next ((s.writeFrame n d b).frameDone b) := by
  rw [exec_frameComplete, execFrameComplete, Nat.mod_eq_of_lt hn, hd, hb]
  dsimp only
  rw [if_neg]
  rw [hc, ha, hk, hv, hs]
  exact Bool.false_ne_true

theorem qptWatchdog_late {v : InvP} {l : List InvP} {b : Bind} (hi : (s.tile n).invals = v :: l) (hq : (s.tile n).qpts = [])
    (hb : (s.tile n).task = some b) (hh : (s.tile n).hold = none) (hd : (s.tile n).drn = none) :
    exec (.qptWatchdog n) s = .next (s.qptLate n b.rcd) := by
  rw [exec_qptWatchdog, execQptWatchdog, Nat.mod_eq_of_lt hn, hb]
  exact if_pos ⟨by rw [hi, hq]; rfl, by rw [hh]; rfl, by rw [hd]; rfl⟩

theorem qptWatchdog_none (hi : (s.tile n).invals = []) : exec (.qptWatchdog n) s = .next s := by
  rw [exec_qptWatchdog, execQptWatchdog, Nat.mod_eq_of_lt hn]
  split
  · refine if_neg fun h => ?_
    rw [hi] at h
    exact absurd h.1 Bool.false_ne_true
  · rfl

theorem stallWatchdog_sets {k : Slot} (hs : ((s.tile n).slot k).stall ≠ none) (hr : ((s.tile n).slot k).running = true)
    (hh : (s.tile n).hold = none) : exec (.stallWatchdog n k) s = .next (s.setTile n { s.tile n with wdog := some k }) := by
  rw [exec_stallWatchdog, execStallWatchdog, Nat.mod_eq_of_lt hn]
  exact if_pos ⟨Option.isSome_iff_ne_none.2 hs, hr, by rw [hh]; rfl⟩

end

/-- Settles O50: each move under its guards; a dispatch by the pool and the runs that it leaves, START by the tile that it loads and
then begins, the end of a task by the tiles that it frees. -/
theorem taskMoves : Obligations.TaskMoves := by
  unfold Obligations.TaskMoves
  intro s n i hn
  refine ⟨fun hd => ?_, fun r qs l p hd he hp => ⟨fun pa ht => decision_tainted hd he hp ht,
      fun ht hf => decision_passes hd he hp ht hf, fun ts ht hf => ?_⟩,
    fun r qs l w hd he hp => decision_unpinned hd he hp, fun r l hd he => decision_refused hd he, fun v hv => ?_,
    fun b k hb hk hl => ?_, fun b k pa hb hk hl hr ha ht => ?_, fun b k hb hk hl hr hf ha => ?_,
    fun hv => taskEnd_viral i hv, fun x hx hv hd hall => ?_, fun x hx hd hall => ?_,
    fun x d hx hv hd hall => taskEnd_dead hx hd hv hall,
    fun r l x hr hh hb hp hx hk he hd => ?_,
    fun r hr hi hh hk hp => preemptInhTimeout_begins hn hr hi hh hk hp, fun k hk => ?_, fun k hk => ?_,
    fun d b c hd hb hc ha hk hv hs => ⟨fun hm hw hi => ?_, fun hi hsv hm => ?_⟩,
    fun v l b hi hq hb hh hd => qptWatchdog_late hn hi hq hb hh hd, fun hi => qptWatchdog_none hn hi,
    fun k hs hr hh => stallWatchdog_sets hn hs hr hh⟩
  · rw [exec_dispatchDecision, execDispatchDecision]
    exact if_neg (by rw [hd]; exact Bool.false_ne_true)
  · obtain ⟨pool, resv, free, hage⟩ := foldl_age_eq l s
    refine ⟨_, decision_binds hd he hp ht hf, ?_⟩
    have hpool := pooled_dispatch (l.foldl State.age s) r ts p
    obtain ⟨hp', hr'⟩ := Prod.mk.inj hpool
    rw [hp', hr', hage]
    exact ⟨fun e he => by simpa using (List.mem_filter.1 he).2, rfl⟩
  · rw [exec_reservationTimeout, execReservationTimeout, hv]
  · refine ⟨_, start_loads hn hb hk hl, ?_⟩
    rw [tile_loadTile]
    refine ⟨rfl, hk, rfl, rfl, fun _ => rfl, rfl, congrArg Prod.fst (State.loadTile_mem s n b), rfl, rfl, fun j => ?_, rfl⟩
    refine ⟨?_, fun h => ?_, fun o l' hl' hf hj => ?_⟩
    · exact Vector.get_ofFn _ _
    · exact (opndFmts_other _ _ j h).trans (Vector.get_ofFn _ _)
    · rw [hl']
      exact opndFmts_last l' o _ j hf hj
  · rw [start_begins hn hb hk hl (by rw [ha]; exact fun w hw => absurd hw List.not_mem_nil), if_pos hr, ht]
  · have hstage : ∀ w ∈ (s.tile n).async, ∀ x y z, w.w ≠ .stage x y z := by
      intro w hw x y z hs
      have := List.all_eq_true.1 ha w hw
      rw [hs] at this
      exact Bool.false_ne_true this
    refine ⟨_, (start_begins hn hb hk hl hstage).trans ((if_neg (by rw [hr]; exact Bool.false_ne_true)).trans
      (congrArg Host.Outcome.next (startFresh_ok k.rank hf))), ?_⟩
    unfold State.tileEvent
    rw [tile_modTile, tile_startTile]
    refine ⟨fun j => ?_, fun j => Vector.get_ofFn _ _, rfl, rfl, rfl, congrArg Prod.fst (by simp : (_ : State).mem = s.mem)⟩
    have hslot := slot_startSlots (s.tile n).startBase b.base j
    exact ⟨congrArg SlotSt.pc hslot, congrArg SlotSt.running hslot, congrArg SlotSt.s hslot⟩
  · obtain ⟨u, hu, hdone⟩ := taskDone_unbinds s x
    obtain ⟨hur, hut⟩ := Prod.mk.inj hu
    refine ⟨_, (taskEnd_lives hx hd).trans (congrArg Host.Outcome.next ((if_neg (by rw [hv]; exact Bool.false_ne_true)).trans
      ((if_pos hall).trans hdone))), ?_⟩
    have htile : ∀ m, u.tile m = s.tile m := fun m => congrArg (fun l => tget l Tile.reset m) hut
    refine ⟨by rw [unbind_runs, hur], fun m hm => ?_⟩
    obtain ⟨hspad, htask⟩ := release_foldl x.tiles u m
    exact ⟨htask (.inl hm), hspad.trans (congrArg Tile.spad (htile m))⟩
  · rw [taskEnd_lives hx hd, hall]
    split <;> rfl
  · rw [preemptArrive_begins hn hr hh hb hp hx hk he hd]
  · rw [stubTimeout_eq hn, if_pos hk]
  · rw [stubTimeout_eq hn, if_neg (by rw [hk]; exact Bool.false_ne_true)]
  · rw [frameComplete_goes hn hd hb hc ha hk hv hs, if_pos (by rw [hm, hw]; rfl), if_pos hi]
  · rw [frameComplete_goes hn hd hb hc ha hk hv hs, if_neg, if_neg]
    · rw [← Option.not_isSome, ← Option.not_isSome, ← Bool.not_or, hi, hsv]
      exact Bool.false_ne_true
    · rw [← Option.not_isSome, ← Bool.not_or, hm]
      exact Bool.false_ne_true

end Sys2Proof.Laws
end

section

/-! # Errors, the viral state, freezes and the Cartouche (18, 19, 20) -/

namespace Sys2Proof.Laws
open Sys2Proof.Machine Sys2Proof.Claim

/-! ### Errors where they are detected -/

theorem errorDetected_known {e : ErrSite} (h : siteOk e = true) (s : State) : exec (.errorDetected e) s = .next (s.detect e) :=
  if_pos h

theorem errorDetected_unknown {e : ErrSite} (h : siteOk e = false) (s : State) : exec (.errorDetected e) s = .next s := by
  rw [exec_errorDetected, execErrorDetected, h]
  exact if_neg Bool.false_ne_true

theorem detect_met {e : ErrSite} (h : metBySlot e = true) (s : State) : s.detect e = s.meet e := if_pos h

/-- An error that no word meets, and that is none of an engine's, is reported, and poisons its sector where it lies in memory. -/
theorem detect_reported {e : ErrSite} (hm : metBySlot e = false) (h2 : e.cls ≠ 2) (s : State) :
    s.detect e = ((if e.cls = 4 ∧ backed e.addr = true then s.taint e.addr 1 else s).report
      e.cls e.source e.unit e.slot e.addr e.detail) := by
  simp [State.detect, hm, h2]

theorem metBySlot_of_cls {e : ErrSite} (h : e.cls = 4) : metBySlot e = false := by
  simp [metBySlot, h]

/-- One sector more is poisoned. -/
theorem taint_one (s : State) (pa : Nat) :
    pa / 32 ∈ (s.taint pa 1).poison ∧ ∀ q ∈ s.poison, q ∈ (s.taint pa 1).poison := by
  have h : (s.taint pa 1).poison = if s.poison.contains (pa / 32) then s.poison else s.poison ++ [pa / 32] := rfl
  rw [h]
  split
  · next hc => exact ⟨List.contains_iff_mem.mp hc, fun _ => id⟩
  · exact ⟨by simp, fun q hq => by simp [hq]⟩

theorem errorDetected_poisons {e : ErrSite} (ho : siteOk e = true) (hc : e.cls = 4) (hb : backed e.addr = true) (s : State) :
    ∃ r, exec (.errorDetected e) s = .next r ∧ e.addr / 32 ∈ r.poison ∧ (∀ q ∈ s.poison, q ∈ r.poison) ∧ r.dmem = s.dmem := by
  have hd : s.detect e = (s.taint e.addr 1).report e.cls e.source e.unit e.slot e.addr e.detail := by
    rw [detect_reported (metBySlot_of_cls hc) (by omega), if_pos ⟨hc, hb⟩]
  refine ⟨_, (errorDetected_known ho s).trans (congrArg _ hd), ?_⟩
  obtain ⟨hin, hold⟩ := taint_one s e.addr
  exact ⟨hin, hold, rfl⟩

/-- An error at a slot that runs is met by a word in flight, or noted for the slot's next one. -/
theorem meet_running {s : State} {e : ErrSite} (ht : (s.tile e.unit).task ≠ none) (hk : (s.tile e.unit).killed = false)
    (hr : ((s.tile e.unit).slot (slotOf e.slot)).running = true) :
    ∃ (u : Tile) (y : Flaw), s.meet e = s.setTile e.unit { u with flaws := (s.tile e.unit).flaws ++ [y] } ∧ y.site.cls = e.cls := by
  have hn : ((s.tile e.unit).task.isNone || (s.tile e.unit).killed) = false := by
    cases hb : (s.tile e.unit).task with
    | none => exact absurd hb ht
    | some b => simp [hk]
  have hg : (s.tile e.unit).goesOn (slotOf e.slot) = true := by simp [Tile.goesOn, hr]
  unfold State.meet
  dsimp only
  rw [hn, if_neg Bool.false_ne_true]
  split
  · exact ⟨_, _, rfl, rfl⟩
  · rw [if_pos hg]
    exact ⟨_, _, rfl, rfl⟩

/-- An error at a tile that runs no task is reported. -/
theorem meet_idle {s : State} {e : ErrSite} (h : (s.tile e.unit).task = none ∨ (s.tile e.unit).killed = true) :
    ∃ detail, s.meet e = s.report e.cls e.source e.unit e.slot e.addr detail := by
  have hn : ((s.tile e.unit).task.isNone || (s.tile e.unit).killed) = true := by
    rcases h with h | h <;> simp [h]
  exact ⟨_, if_pos hn⟩

theorem errorDetected_met {s : State} {e : ErrSite} (ho : siteOk e = true) (hm : metBySlot e = true)
    (ht : (s.tile e.unit).task ≠ none) (hk : (s.tile e.unit).killed = false)
    (hr : ((s.tile e.unit).slot (slotOf e.slot)).running = true) :
    ∃ r y, exec (.errorDetected e) s = .next r ∧ (r.tile e.unit).flaws = (s.tile e.unit).flaws ++ [y] ∧
      y.site.cls = e.cls ∧ r.errs = s.errs ∧ r.dmem = s.dmem := by
  obtain ⟨u, y, hu, hy⟩ := meet_running ht hk hr
  refine ⟨_, y, (errorDetected_known ho s).trans (congrArg _ ((detect_met hm s).trans hu)), ?_, hy, rfl, rfl⟩
  rw [State.tile_setTile]

theorem errorDetected_idle {s : State} {e : ErrSite} (ho : siteOk e = true) (hm : metBySlot e = true)
    (h : (s.tile e.unit).task = none ∨ (s.tile e.unit).killed = true) :
    ∃ r y, exec (.errorDetected e) s = .next r ∧ r.errs = s.errs ++ [y] ∧ y.site.cls = e.cls ∧ y.site.unit = e.unit ∧
      r.tiles = s.tiles := by
  obtain ⟨d, hd⟩ := meet_idle h
  exact ⟨_, _, (errorDetected_known ho s).trans (congrArg _ ((detect_met hm s).trans hd)), rfl, rfl, rfl, rfl⟩

/-! ### Invalidations and fault rings -/

theorem exec_invalDone_of_done {s : State} {i : Nat} {f : InvF} (hf : s.invs[i]? = some f)
    (h : (s.tiles.all fun e => e.2.invals.all fun v => v.id != f.inv.id) = true) :
    exec (.invalDone i) s = .next (s.invalDone f) := by
  have hn : (s.tiles.any fun e => e.2.invals.any fun v => v.id == f.inv.id) = false := by
    simpa [List.all_eq_true, List.any_eq_false] using h
  rw [exec_invalDone, execInvalDone, hf]
  dsimp only
  rw [hn]
  exact if_neg Bool.false_ne_true

theorem exec_faultRingFlush_of_held {s : State} {i : Nat} {l : List Byte} {r : List (List Byte)} (hv : (s.party 0).viral = false)
    (hh : (tget s.frings FRing.reset i).held = l :: r) :
    exec (.faultRingFlush i) s = .next (s.flushFault i (tget s.frings FRing.reset i) l r) := by
  rw [exec_faultRingFlush, execFaultRingFlush, hh]
  dsimp only
  rw [hv]
  exact if_neg Bool.false_ne_true

/-! ### Frozen rings -/

theorem Ring.freeze_frozen (r : Ring) (size cyc : Nat) (recs : List (BitVec 128)) : (r.freeze size cyc recs).frozen = true := by
  unfold Ring.freeze
  split
  · assumption
  · rfl

theorem freezeRing_frozen (s : State) (n cyc : Nat) (recs : List (BitVec 128)) :
    (tget (s.freezeRing n cyc recs).rings Ring.reset n).frozen = true :=
  (congrArg Ring.frozen (tget_tset_same _ _ _ _)).trans (Ring.freeze_frozen _ _ _ _)

theorem stopRing_frozen (s : State) (i : Nat) : (tget (s.stopRing i).rings Ring.reset i).frozen = true :=
  congrArg Ring.frozen (tget_tset_same _ _ _ _)

theorem stopRing_of_die {i : Nat} (h : 256 ≤ i) (s : State) :
    s.stopRing i = { s with rings := tset s.rings i { tget s.rings Ring.reset i with frozen := true } } := by
  unfold State.stopRing
  rw [if_neg (by omega : ¬ i < 256)]

theorem freezeTimeout_stops {s : State} {i : Nat} (hi : i < 262) (hv : (s.party (ringParty i)).viral = true)
    (hf : (tget s.rings Ring.reset i).frozen = false) : exec (.freezeTimeout i) s = .next (s.stopRing i) := by
  rw [exec_freezeTimeout, execFreezeTimeout]
  exact if_pos ⟨hi, hv, by rw [hf]; rfl⟩

theorem Ring.offer_frozen {r : Ring} (h : r.frozen = true) (c : Nat) (e : BitVec 128) : r.offer c e = r := if_pos h

/-! ### The viral state -/

/-- What spreads the viral state leaves: the viral mark of party `p` and the rings. -/
def viralCore (p : Nat) (s : State) : Bool × Tab Ring := ((s.party p).viral, s.rings)

theorem viralCore_foldl {α : Type} {p : Nat} {f : State → α → State} (h : ∀ s a, viralCore p (f s a) = viralCore p s) (l : List α)
    (s : State) : viralCore p (l.foldl f s) = viralCore p s := by
  induction l generalizing s with
  | nil => rfl
  | cons a l ih => exact (ih _).trans (h _ _)

/-- A change of a party keeps, of every party, whatever the change itself keeps. -/
theorem party_modParty_keeps {β : Type} (g : Party → β) (a b : Nat) (s : State) {f : Party → Party} (h : ∀ x, g (f x) = g x) :
    g ((s.modParty b f).party a) = g (s.party a) := by
  by_cases hp : a = b
  · subst hp
    exact (congrArg g (tget_tset_same _ _ _ _)).trans (h _)
  · exact congrArg g (tget_tset_ne _ _ _ _ _ hp)

theorem viralCore_atPort (p : Nat) (s : State) (b src : Nat) (k : Pkt) : viralCore p (s.atPort b src k) = viralCore p s := by
  refine congrArg₂ Prod.mk (party_modParty_keeps Party.viral p b s ?_) rfl
  exact fun _ => rfl

theorem viralCore_notices (p : Nat) (s : State) (a : Nat) : viralCore p (s.notices a) = viralCore p s := by
  refine viralCore_foldl (f := fun s b => _) (fun s b => ?_) _ s
  dsimp only
  split
  · rfl
  · exact viralCore_atPort p s.newId.2 _ _ _

theorem viralCore_noticePort (p : Nat) (s : State) (q : Nat) : viralCore p (s.noticePort q) = viralCore p s := by
  unfold State.noticePort
  split
  · split
    · rfl
    split <;> rfl
  · rfl

theorem viralCore_portNotices (p : Nat) (s : State) : viralCore p s.portNotices = viralCore p s := by
  refine viralCore_foldl (f := fun s (e : Nat × Port) => if e.2.up then s.noticePort e.1 else s) (fun s e => ?_) _ s
  split
  · exact viralCore_noticePort p s _
  · rfl

theorem viralCore_stopStage (p : Nat) (s : State) (d : Nat) : viralCore p (s.stopStage d) = viralCore p s := by
  unfold State.stopStage
  dsimp only
  split <;> rfl

theorem viralCore_freezeDown (p : Nat) (s : State) (d n : Nat) : viralCore p (s.freezeDown d n) = viralCore p s := by
  induction n with
  | zero => rfl
  | succ n ih => exact ih

/-- A party that becomes viral is marked, with its ring frozen. -/
theorem viralMove_spreads {s : State} {p : Nat} (h : (s.party p).viral = false) :
    ((s.viralMove p true).party p).viral = true ∧ (tget (s.viralMove p true).rings Ring.reset (dieRing p)).frozen = true := by
  have hcore : ∃ u, viralCore p (s.viralMove p true) = viralCore p u ∧ (u.party p).viral = true ∧
      u.rings = (s.freezeParty p false true).rings := by
    refine ⟨(s.freezeParty p false true).modParty p fun p => { p with viral := true, bysb := true, out := [] }, ?_,
      congrArg Party.viral (tget_tset_same _ _ _ _), rfl⟩
    unfold State.viralMove
    dsimp only
    rw [h, if_neg Bool.false_ne_true]
    split
    · exact viralCore_notices _ _ _
    split
    · exact (viralCore_portNotices _ _).trans (viralCore_notices _ _ _)
    have hs := (viralCore_stopStage p _ (p - 1)).trans (viralCore_notices p ((s.freezeParty p false true).modParty p
      fun p => { p with viral := true, bysb := true, out := [] }) p)
    split
    · exact hs
    · exact (viralCore_freezeDown _ _ _ _).trans hs
  obtain ⟨u, hu, hv, hr⟩ := hcore
  refine ⟨(congrArg Prod.fst hu).trans hv, ?_⟩
  have hrings : (s.viralMove p true).rings = u.rings := congrArg Prod.snd hu
  rw [hrings, hr]
  exact freezeRing_frozen _ _ _ _

theorem viralSideband_spreads {s : State} {p : Nat} (hp : p < 6) (hs : (s.parties.any fun q => q.2.viral) = true)
    (h : (s.party p).viral = false) :
    ∃ r, exec (.viralSideband p) s = .next r ∧ (r.party p).viral = true ∧ r.dmem = s.dmem ∧
      (tget r.rings Ring.reset (dieRing p)).frozen = true := by
  obtain ⟨hv, hr⟩ := viralMove_spreads h
  refine ⟨_, ?_, hv, congrArg Prod.fst (by simp : (s.viralMove p true).mem = s.mem), hr⟩
  rw [exec_viralSideband, execViralSideband, Nat.mod_eq_of_lt hp, hs, h]
  exact if_pos rfl

/-! ### A tile freezes -/

/-- What freezing a tile's ring leaves of the tile. -/
def quietPart (t : Tile) : List (Nat × Pkt) × Mem := (t.inbox, t.spad)

theorem quietPart_evs (t : Tile) (l : List (Nat × BitVec 128)) : quietPart { t with evs := l } = quietPart t := rfl

theorem quietPart_fireAll (t : Tile) (cyc : Nat) : quietPart (t.fireAll cyc) = quietPart t := by
  unfold Tile.fireAll
  generalize t.bcbs = l
  induction l generalizing t with
  | nil => rfl
  | cons p l ih =>
    refine (ih _).trans ?_
    dsimp only
    split
    · split <;> rfl
    · rfl

theorem tiles_foldl {α : Type} {f : State → α → State} (h : ∀ s a, (f s a).tiles = s.tiles) (l : List α) (s : State) :
    (l.foldl f s).tiles = s.tiles := by
  induction l generalizing s with
  | nil => rfl
  | cons a l ih => exact (ih _).trans (h _ _)

/-- The events of one party of a tile go to its ring. -/
def flushGroup (l : List (Nat × BitVec 128)) (n cyc : Nat) (s : State) (k : Nat) : State :=
  (l.filter fun e => e.1 == k).foldl (fun s e => s.ring n cyc e.2) s

theorem flushEvents_eq (s : State) (n cyc : Nat) : s.flushEvents n cyc =
    (([0, 1, 2, 3, 4].foldl (flushGroup (s.tile n).evs n cyc) s).ringGap n cyc).modTile n fun t => { t with evs := [] } := rfl

theorem flushGroup_tiles (l : List (Nat × BitVec 128)) (n cyc : Nat) (s : State) (k : Nat) :
    (flushGroup l n cyc s k).tiles = s.tiles :=
  tiles_foldl (f := fun (u : State) (e : Nat × BitVec 128) => u.ring n cyc e.2) (fun _ _ => rfl) _ s

theorem ringGap_tiles (s : State) (n cyc : Nat) : (s.ringGap n cyc).tiles = s.tiles := by
  unfold State.ringGap
  dsimp only
  split <;> rfl

theorem tile_of_tiles {u s : State} (h : u.tiles = s.tiles) (n : Nat) : u.tile n = s.tile n :=
  congrArg (fun l => tget l Tile.reset n) h

theorem quietPart_flushEvents (s : State) (n cyc : Nat) : quietPart ((s.flushEvents n cyc).tile n) = quietPart (s.tile n) := by
  have h : (([0, 1, 2, 3, 4].foldl (flushGroup (s.tile n).evs n cyc) s).ringGap n cyc).tiles = s.tiles :=
    (ringGap_tiles _ n cyc).trans (tiles_foldl (f := flushGroup (s.tile n).evs n cyc) (flushGroup_tiles _ n cyc) _ s)
  rw [flushEvents_eq, tile_modTile, quietPart_evs, tile_of_tiles h]

/-- The freeze packet freezes the tile's ring and leaves; the scratchpad stays. -/
theorem freezeTile_keeps (s : State) (n : Nat) (bysb : Bool) (gen : BitVec 2) (row : List (BitVec 10)) :
    (tget (s.freezeTile n bysb gen row).rings Ring.reset n).frozen = true ∧
      (((s.freezeTile n bysb gen row).tile n).inbox.any isFreeze) = false ∧
      ((s.freezeTile n bysb gen row).tile n).spad = (s.tile n).spad := by
  refine ⟨freezeRing_frozen _ _ _ _, ?_, ?_⟩
  · unfold State.freezeTile
    rw [tile_modTile]
    simp [List.any_eq_false]
  · unfold State.freezeTile
    rw [tile_modTile]
    refine congrArg Prod.snd (((quietPart_flushEvents _ _ _).trans ?_) : quietPart _ = quietPart (s.tile n))
    rw [tile_modTile]
    exact quietPart_fireAll _ _

theorem freezePacketArrive_freezes {s : State} {n src : Nat} {q : Pkt} {up bysb : Bool} {gen : BitVec 2} {row : List (BitVec 10)}
    (hn : n < 256) (h0 : (s.tile n).phase = 0) (hp : (s.tile n).putsDone = true)
    (hq : (s.tile n).inbox.find? isFreeze = some (src, q)) (hb : q.body = .freeze up bysb gen row) :
    ∃ r, exec (.freezePacketArrive n) s = .next r ∧ (tget r.rings Ring.reset n).frozen = true ∧
      ((r.tile n).inbox.any isFreeze) = false ∧ (r.tile n).spad = (s.tile n).spad := by
  refine ⟨_, ?_, freezeTile_keeps s n bysb gen row⟩
  rw [exec_freezePacketArrive, execFreezePacketArrive, Nat.mod_eq_of_lt hn, hp, h0, hq]
  simp [hb]

/-! ### The Cartouche -/

theorem cartoucheAssemble_copies {s : State} {i : Nat} {v : Viral} {a : Asm} (hv : s.viral = some v) (hs : s.assembling = true)
    (hi : i < 264) (hf : 262 ≤ i ∨ (tget s.rings Ring.reset i).frozen = true) (ha : a = s.asm.getD ⟨s.oldest, [], [], []⟩)
    (hh : a.has i = false) (hl : ((List.range 264).all (s.copySect a i).1.has) = false) :
    ∃ r, exec (.cartoucheAssemble i) s = .next r ∧ r.asm = some (s.copySect a i).1 ∧ r.dmem = s.dmem := by
  refine ⟨{ (s.copySect a i).2 with asm := some (s.copySect a i).1 }, ?_, rfl, rfl⟩
  have hm : s.assemble v i = { (s.copySect a i).2 with asm := some (s.copySect a i).1 } := by
    unfold State.assemble
    dsimp only
    rw [← ha, hh, hl]
    rfl
  rw [exec_cartoucheAssemble, execCartoucheAssemble, hv]
  refine (if_pos ?_).trans (congrArg _ hm)
  rw [hs, decide_eq_true hi]
  rcases hf with hf | hf
  · rw [decide_eq_true hf]; rfl
  · rw [hf]; simp

theorem seal_ends (s : State) (a : Asm) (v : Viral) (trunc : Bool) :
    (s.seal a v trunc).asm = none ∧ (s.seal a v trunc).viral = some { v with done := true } ∧
      (s.seal a v trunc).nv.capid = s.nv.capid + 1 ∧ (s.seal a v trunc).assembling = false := by
  exact ⟨rfl, rfl, rfl, Bool.and_false _⟩

theorem sealDeadline_seals {s : State} {v : Viral} (hv : s.viral = some v) (hs : s.assembling = true) :
    ∃ r, exec .sealDeadline s = .next r ∧ r.asm = none ∧ r.viral = some { v with done := true } ∧
      r.nv.capid = s.nv.capid + 1 ∧ r.assembling = false := by
  refine ⟨s.seal (s.asm.getD ⟨s.oldest, [], [], []⟩) v true, ?_, seal_ends s _ v true⟩
  rw [exec_sealDeadline, execSealDeadline, hv]
  exact if_pos hs

/-- Settles O51: one lemma for each move. -/
theorem errorAndFreezeMoves : Obligations.ErrorAndFreezeMoves := by
  intro s n i t
  refine ⟨fun _ h => errorDetected_unknown h s, ?_, fun _ ho hc hb => errorDetected_poisons ho hc hb s,
    fun _ ho hm ht hk hr => errorDetected_met ho hm ht hk hr, fun _ ho hm h => errorDetected_idle ho hm h,
    fun _ hf h => exec_invalDone_of_done hf h, fun _ _ hv hh => exec_faultRingFlush_of_held hv hh,
    fun _ hp hs h => viralSideband_spreads hp hs h,
    fun _ _ _ _ _ _ hn h0 hp hq hb => freezePacketArrive_freezes hn h0 hp hq hb,
    fun hi hv hf => ⟨freezeTimeout_stops hi hv hf, stopRing_frozen s i⟩, fun h => stopRing_of_die h s,
    fun _ c e h => Ring.offer_frozen h c e, fun _ _ hv hs hi hf ha hh hl => cartoucheAssemble_copies hv hs hi hf ha hh hl,
    fun _ hv hs => sealDeadline_seals hv hs⟩
  intro e ho h2 h4 hm
  rw [errorDetected_known ho, detect_reported hm h2, if_neg fun h => h4 h.1]

end Sys2Proof.Laws

end

section

/-! # Holds, die resets, resurveys and snapshots (12, 19) -/

namespace Sys2Proof.Laws
open Sys2Proof.Machine Sys2Proof.Claim

/-! ### A debugger holds a die -/

theorem debugHold_holds {s : State} {d : Nat} (hd : d < 4) (hs : (s.die d).stat = 0 ∨ ((s.die d).stat = 4 ∧ d = 0))
    (hv : (s.party (partyOf d)).viral = false) : exec (.debugHold d) s = .next (s.holdDie d) := by
  rw [exec_debugHold, execDebugHold, Nat.mod_eq_of_lt hd]
  exact if_pos ⟨hs, by rw [hv]; rfl⟩

/-- Each tile of a list is held at its cycle, but one that is held already. -/
def holdTile (s : State) (n : Nat) : State := s.modTile n fun t => { t with hold := some (t.hold.getD t.cyc) }

theorem holdTile_hold {s : State} {m n : Nat} (h : m = n ∨ (s.tile n).hold ≠ none) : ((holdTile s m).tile n).hold ≠ none := by
  unfold holdTile State.modTile
  by_cases hm : n = m
  · subst hm
    rw [State.tile_setTile]
    exact Option.some_ne_none _
  · rw [State.tile_setTile_ne _ _ _ _ hm]
    exact h.resolve_left (Ne.symm hm)

theorem holdTiles_hold {n : Nat} (l : List Nat) (s : State) (h : n ∈ l ∨ (s.tile n).hold ≠ none) :
    ((l.foldl holdTile s).tile n).hold ≠ none := by
  induction l generalizing s with
  | nil => exact h.resolve_left (List.not_mem_nil)
  | cons m l ih =>
    refine ih _ ?_
    rcases h with h | h
    · rcases List.mem_cons.1 h with rfl | h
      · exact .inr (holdTile_hold (.inl rfl))
      · exact .inl h
    · exact .inr (holdTile_hold (.inr h))

theorem dies_foldl {α : Type} {f : State → α → State} (h : ∀ s a, (f s a).dies = s.dies) (l : List α) (s : State) :
    (l.foldl f s).dies = s.dies := by
  induction l generalizing s with
  | nil => rfl
  | cons a l ih => exact (ih _).trans (h _ _)

/-- The notices of a hold to the peers change no tile and no die. -/
theorem suspendSent_keeps (s : State) (sel : W64 → Bool) :
    (s.suspendSent sel).tiles = s.tiles ∧ (s.suspendSent sel).dies = s.dies := by
  unfold State.suspendSent
  constructor
  · refine tiles_foldl (fun u e => tiles_foldl (fun u g => ?_) _ u) _ s
    split <;> rfl
  · refine dies_foldl (fun u e => dies_foldl (fun u g => ?_) _ u) _ s
    split <;> rfl

theorem mem_stageTiles {d n : Nat} (hn : n < 256) (hd : dieOf n = d) : n ∈ stageTiles d := by
  unfold dieOf at hd
  exact List.mem_map.2 ⟨n % 64, List.mem_range.2 (by omega), by omega⟩

/-- A die after a change, in a state with the same dies. -/
theorem die_modDie {u s : State} {d : Nat} {f : DieSt → DieSt} (h : u.dies = (s.modDie d f).dies) : u.die d = f (s.die d) :=
  (congrArg (fun l => tget l DieSt.reset d) h).trans (tget_tset_same _ _ _ _)

/-- The die at a hold, before its peers are told. -/
def heldDie (s : State) (d : Nat) : State := (stageTiles d).foldl holdTile (s.modDie d fun x => { x with stat := 1 })

theorem holdDie_keeps (s : State) (d : Nat) :
    (s.holdDie d).tiles = (heldDie s d).tiles ∧ (s.holdDie d).dies = (heldDie s d).dies :=
  suspendSent_keeps _ _

theorem holdDie_holds (s : State) {d n : Nat} (hn : n < 256) (hd : dieOf n = d) :
    ((s.holdDie d).tile n).hold ≠ none ∧ ((s.holdDie d).die d).stat = 1 := by
  obtain ⟨ht, hx⟩ := holdDie_keeps s d
  have hdies : (heldDie s d).dies = (s.modDie d fun x => { x with stat := 1 }).dies :=
    dies_foldl (f := holdTile) (fun _ _ => rfl) _ _
  refine ⟨?_, congrArg DieSt.stat (die_modDie (hx.trans hdies))⟩
  unfold State.tile
  rw [ht]
  exact holdTiles_hold _ _ (.inl (mem_stageTiles hn hd))

theorem releaseDie_dies (s : State) (d : Nat) :
    (s.releaseDie d).dies = (s.modDie d fun x => { x with stat := if x.stat = 1 then s.served d else x.stat }).dies := by
  unfold State.releaseDie
  refine dies_foldl (f := fun u n => if (u.tile n).hold.isSome then u.modTile n Tile.unhold else u) (fun u n => ?_) _ _
  split <;> rfl

theorem debugRelease_serves {s : State} {d : Nat} (hd : d < 4) (hs : (s.die d).stat = 1) :
    ∃ r, exec (.debugRelease d) s = .next r ∧ (r.die d).stat = s.served d ∧ r.dmem = s.dmem := by
  have hm : (s.releaseDie d).mem = s.mem := by simp
  generalize hu : s.releaseDie d = u at hm
  refine ⟨u, ?_, ?_, congrArg Prod.fst hm⟩
  · rw [exec_debugRelease, execDebugRelease, Nat.mod_eq_of_lt hd, hu]
  · subst hu
    exact (congrArg DieSt.stat (die_modDie (releaseDie_dies s d))).trans (if_pos hs)

/-! ### A die in reset -/

/-- Lines that could not be written back are poisoned; no die changes. -/
theorem writeLines_dies (s : State) (d : Nat) (l : List Nat) : (s.writeLines d l).dies = s.dies := by
  refine dies_foldl (f := fun (u : State) line => _) (fun u line => ?_) l s
  dsimp only
  split <;> rfl

theorem leaveDie_emptied (s : State) (d : Nat) : ((s.leaveDie d).die d).l2 = [] := by
  unfold State.leaveDie
  extract_lets dirty u v
  exact congrArg DieSt.l2 (die_modDie (writeLines_dies (v.modDie d DieSt.emptied) d dirty))

theorem dieQuiesceTimeout_leaves {s : State} {d : Nat} {drop : Bool} {l : List Nat} (hd : d < 4)
    (hq : (s.die d).quies = some (drop, false, l)) (hr : s.runsOn d = []) :
    ∃ r, exec (.dieQuiesceTimeout d) s = .next r ∧ (r.die d).stat = (if drop then 3 else 2) ∧ (r.die d).l2 = [] ∧
      r.dmem = s.dmem := by
  refine ⟨(s.leaveDie d).modDie d fun x => { x with
      stat := if drop then 3 else 2, quies := if drop then none else some (false, true, l) }, ?_, ?_, ?_, ?_⟩
  · rw [exec_dieQuiesceTimeout, execDieQuiesceTimeout, Nat.mod_eq_of_lt hd, hq]
    refine congrArg Host.Outcome.next (if_pos ?_)
    rw [hr]
    rfl
  · exact congrArg DieSt.stat (die_modDie rfl)
  · exact (congrArg DieSt.l2 (die_modDie rfl)).trans (leaveDie_emptied s d)
  · exact congrArg Prod.fst (by simp : ((s.leaveDie d).modDie d fun x => { x with
      stat := if drop then 3 else 2, quies := if drop then none else some (false, true, l) }).mem = s.mem)

/-- The journal's numbers and the mark of full service. -/
def journalCore (s : State) : Nat × Bool := (s.jseq, s.full)

theorem journalCore_foldl {α : Type} {f : State → α → State} (h : ∀ s a, journalCore (f s a) = journalCore s) (l : List α)
    (s : State) : journalCore (l.foldl f s) = journalCore s := by
  induction l generalizing s with
  | nil => rfl
  | cons a l ih => exact (ih _).trans (h _ _)

theorem journalCore_flushGroup (l : List (Nat × BitVec 128)) (n cyc : Nat) (s : State) (k : Nat) :
    journalCore (flushGroup l n cyc s k) = journalCore s :=
  journalCore_foldl (f := fun (u : State) (e : Nat × BitVec 128) => u.ring n cyc e.2) (fun _ _ => rfl) _ s

theorem journalCore_ringGap (s : State) (n cyc : Nat) : journalCore (s.ringGap n cyc) = journalCore s := by
  unfold State.ringGap
  dsimp only
  split <;> rfl

theorem journalCore_modTile (s : State) (n : Nat) (f : Tile → Tile) : journalCore (s.modTile n f) = journalCore s := rfl

theorem journalCore_flushEvents (s : State) (n cyc : Nat) : journalCore (s.flushEvents n cyc) = journalCore s := by
  rw [flushEvents_eq, journalCore_modTile, journalCore_ringGap, journalCore_foldl (journalCore_flushGroup _ n cyc)]

theorem journalCore_clearTile (s : State) (p n : Nat) (e : PartE) : journalCore (s.clearTile p n e) = journalCore s := by
  unfold State.clearTile
  dsimp only
  split <;> rfl

theorem journalCore_readmitTile (s : State) (n : Nat) : journalCore (s.readmitTile n) = journalCore s := by
  have hr : journalCore (s.restartTile n) = journalCore s := journalCore_flushEvents s n _
  unfold State.readmitTile
  dsimp only
  split
  · split
    · exact (journalCore_clearTile _ _ _ _).trans hr
    · exact hr
  · exact hr

/-- Each entry that the device writes is one more of the journal, and changes no die. -/
theorem dieEntries_journals (s : State) (state detail : Nat) (l : List Nat) :
    (s.dieEntries state detail l).jseq = s.jseq + l.length ∧ (s.dieEntries state detail l).dies = s.dies := by
  induction l generalizing s with
  | nil => exact ⟨rfl, rfl⟩
  | cons j l ih =>
    obtain ⟨hj, hd⟩ := ih (s.journalDev state noRec j detail)
    refine ⟨?_, hd⟩
    have h1 : (s.journalDev state noRec j detail).jseq = s.jseq + 1 := rfl
    rw [List.length_cons]
    exact hj.trans (by omega)

theorem retrained_ends (s : State) (d : Nat) (l : List Nat) (ok : Bool) :
    ((s.retrained d l ok).die d).stat = (if ok then s.served d else 3) ∧ ((s.retrained d l ok).die d).quies = none ∧
      (s.retrained d l ok).jseq = s.jseq + l.length := by
  unfold State.retrained
  cases ok with
  | true =>
    have hc := journalCore_foldl journalCore_readmitTile (stageTiles d) s
    generalize (stageTiles d).foldl State.readmitTile s = u at hc
    obtain ⟨hj, hx⟩ := dieEntries_journals (u.modDie d fun x => { x.emptied with stat := u.served d, quies := none }) jDone 0 l
    have hdie := die_modDie hx
    have hfull : u.full = s.full := congrArg Prod.snd hc
    have hserved : u.served d = s.served d := by
      unfold State.served
      rw [hfull]
    refine ⟨(congrArg DieSt.stat hdie).trans hserved, congrArg DieSt.quies hdie, hj.trans ?_⟩
    exact congrArg (· + l.length) (congrArg Prod.fst hc : u.jseq = s.jseq)
  | false =>
    obtain ⟨hj, hx⟩ := dieEntries_journals ((s.modDie d fun x => { x.emptied with stat := 3, quies := none }).report 31 15
      (unitParty (partyOf d)) 0 0 0) jFailed (31 * 2 ^ 8 + 15 * 2 ^ 16) l
    have hdie := die_modDie (s := s) (f := fun x => { x.emptied with stat := 3, quies := none }) hx
    exact ⟨congrArg DieSt.stat hdie, congrArg DieSt.quies hdie, hj⟩

theorem dieRetrainDone_ends {s : State} {d : Nat} (ok : Bool) {l : List Nat} (hd : d < 4)
    (hq : (s.die d).quies = some (false, true, l)) (hr : s.runsOn d = []) :
    ∃ r, exec (.dieRetrainDone d ok) s = .next r ∧ (r.die d).stat = (if ok then s.served d else 3) ∧ (r.die d).quies = none ∧
      r.jseq = s.jseq + l.length := by
  refine ⟨s.retrained d l ok, ?_, retrained_ends s d l ok⟩
  rw [exec_dieRetrainDone, execDieRetrainDone, Nat.mod_eq_of_lt hd, hq, hr]
  exact if_pos rfl

theorem dieDropThreshold_drops {s : State} {d : Nat} (hd : d < 4) (he : 16 ≤ (s.die d).errs) (h2 : (s.die d).stat ≠ 2)
    (h3 : (s.die d).stat ≠ 3) : exec (.dieDropThreshold d) s = .next (s.quiesce d true []) := by
  rw [exec_dieDropThreshold, execDieDropThreshold, Nat.mod_eq_of_lt hd]
  exact if_pos ⟨he, h2, h3⟩

theorem dieDropThreshold_below {s : State} {d : Nat} (hd : d < 4) (he : (s.die d).errs < 16) :
    exec (.dieDropThreshold d) s = .next s := by
  rw [exec_dieDropThreshold, execDieDropThreshold, Nat.mod_eq_of_lt hd]
  exact if_neg fun h => by omega

/-! ### What calls for a resurvey -/

theorem holdTimeout_reports {s : State} {p i : Nat} {x : DPkt} (hp : p < 6) (hx : (s.party p).hold[i]? = some x) :
    exec (.holdTimeout p i) s = .next ((s.reportBody p 9 9 x.pkt.body).trigger 0) := by
  rw [exec_holdTimeout, execHoldTimeout, Nat.mod_eq_of_lt hp, hx]
  rfl

theorem interdieLinkError_reports {s : State} {p q : Nat} (hp : p < 6) (hq : q < 6) (hn : p ≠ q) (h1 : bitAt s.clkmask p = false)
    (h2 : bitAt s.clkmask q = false) :
    exec (.interdieLinkError p q) s = .next ((s.report 7 9 (unitParty p) 0 0 0).trigger 0) := by
  rw [exec_interdieLinkError, execInterdieLinkError, Nat.mod_eq_of_lt hp, Nat.mod_eq_of_lt hq]
  refine if_neg ?_
  rw [h1, h2]
  simp [hn]

theorem removalOfAParty_triggers {s : State} {p : Nat} (h0 : 0 < p) (hp : p < 6) (hm : bitAt s.clkmask p = false) :
    exec (.removalOfAParty p) s = .next (s.trigger (2 ^ p)) := by
  rw [exec_removalOfAParty, execRemovalOfAParty, if_neg (by omega), if_neg (by omega), if_neg (by omega), hm]
  exact if_neg Bool.false_ne_true

/-! ### The resurvey -/

/-- What a dropped packet leaves: the mask of the parties, and a party's generation and held packets. -/
def heldCore (a : Nat) (s : State) : W64 × BitVec 2 × List DPkt := (s.clkmask, (s.party a).gen, (s.party a).hold)

theorem heldCore_foldl {α : Type} {a : Nat} {f : State → α → State} (h : ∀ s x, heldCore a (f s x) = heldCore a s) (l : List α)
    (s : State) : heldCore a (l.foldl f s) = heldCore a s := by
  induction l generalizing s with
  | nil => rfl
  | cons x l ih => exact (ih _).trans (h _ _)

theorem heldCore_modParty (a b : Nat) (s : State) {f : Party → Party} (h : ∀ x, ((f x).gen, (f x).hold) = (x.gen, x.hold)) :
    heldCore a (s.modParty b f) = heldCore a s :=
  congrArg (Prod.mk s.clkmask) (party_modParty_keeps (fun x => (x.gen, x.hold)) a b s h)

theorem heldCore_dieRecord (a : Nat) (s : State) (p : Nat) (part : Option Nat) (held : Bool) (type addr info : Nat) :
    heldCore a (s.dieRecord p part held type addr info) = heldCore a s :=
  heldCore_modParty a p (s.freeNat.2.dieCount p 5 ((s.freeNat.1) * (s.party p).hold.length)) (f := fun x =>
    { x with cyc := x.cyc + s.freeNat.1 }) fun _ => rfl

theorem heldCore_loseAcc (a : Nat) (s : State) (d : Nat) (x : Acc) : heldCore a (s.loseAcc d x) = heldCore a s := by
  unfold State.loseAcc
  dsimp only
  split
  · rfl
  · rfl
  · rfl
  · rfl
  · rfl
  · split <;> rfl
  · rfl

theorem heldCore_tmEnd (a : Nat) (s : State) (n id code : Nat) (x : Net) : heldCore a (s.tmEnd n id code x) = heldCore a s := by
  unfold State.tmEnd
  dsimp only
  split
  · rfl
  split
  · rfl
  split <;> rfl

theorem heldCore_failForeign (a : Nat) (s : State) (x : Net) (code : Nat) : heldCore a (s.failForeign x code) = heldCore a s := by
  unfold State.failForeign
  extract_lets p u
  have hu : heldCore a u = heldCore a s := heldCore_dieRecord a s _ _ _ _ _ _
  split <;> exact hu

theorem heldCore_failNet (a : Nat) (s : State) (x : Net) (code : Nat) : heldCore a (s.failNet x code) = heldCore a s := by
  have hends : ∀ (n id : Nat) (y : Net), heldCore a (if y.spkg = s.own then s.tmEnd n id code y else s.failForeign y code) =
      heldCore a s := fun n id y => by
    split
    · exact heldCore_tmEnd _ _ _ _ _ _
    · exact heldCore_failForeign _ _ _ _
  unfold State.failNet
  split
  · exact hends _ _ _
  · exact hends _ _ _
  · split
    · exact heldCore_tmEnd _ _ _ _ _ _
    · exact heldCore_failForeign _ _ _ _
  · split
    · rfl
    split
    · exact heldCore_tmEnd _ _ _ _ _ _
    · exact heldCore_tmEnd _ _ _ _ _ _
  · rfl

theorem heldCore_losePkt (a : Nat) (s : State) (d : Nat) (p : Pkt) (code : Nat) :
    heldCore a (s.losePkt d p code) = heldCore a s := by
  unfold State.losePkt
  split
  · exact heldCore_loseAcc _ _ _ _
  · split
    · exact heldCore_loseAcc _ _ _ _
    · rfl
  · rfl
  · exact heldCore_failNet _ _ _ _
  · rfl
  · rfl

theorem heldCore_dropAt (a : Nat) (s : State) (d code : Nat) (x : DPkt) : heldCore a (s.dropAt d code x) = heldCore a s :=
  calc heldCore a (s.dropAt d code x)
    _ = heldCore a ((s.dieEvent d (s.bodyPart x.pkt.body) 0x19 x.src (code + x.num % 1024 * 16 + x.src * 2 ^ 14)).modParty d fun p =>
          { p with freed := vset p.freed x.src (vget p.freed x.src + 1) }) := heldCore_losePkt _ _ _ _ _
    _ = heldCore a (s.dieEvent d (s.bodyPart x.pkt.body) 0x19 x.src (code + x.num % 1024 * 16 + x.src * 2 ^ 14)) :=
        heldCore_modParty _ _ _ fun _ => rfl
    _ = heldCore a s := heldCore_dieRecord _ _ _ _ _ _ _ _

theorem heldCore_dropFlying (a : Nat) (s : State) (p : Nat) : heldCore a (s.dropFlying p) = heldCore a s := by
  refine heldCore_foldl (fun u b => ?_) _ s
  exact heldCore_foldl (fun u x => heldCore_dropAt _ _ _ _ _) _ _

/-- A party's held packets are dropped; the others keep theirs. -/
theorem heldCore_dropHeld (a : Nat) (s : State) (p : Nat) :
    heldCore a (s.dropHeld p) = (s.clkmask, (s.party a).gen, if a = p then [] else (s.party a).hold) := by
  unfold State.dropHeld
  dsimp only
  rw [heldCore_foldl fun u x => heldCore_dropAt a u p 1 x]
  refine congrArg (Prod.mk s.clkmask) ?_
  split
  · next h =>
    subst h
    exact congrArg (fun x : Party => (x.gen, x.hold)) (tget_tset_same _ _ _ _)
  · next h => exact congrArg (fun x : Party => (x.gen, x.hold)) (tget_tset_ne _ _ _ _ _ h)

/-- One party's share of the drops of a resurvey. -/
def dropAll (s : State) (p : Nat) : State := (s.dropHeld p).dropFlying p

theorem heldCore_dropAll (a : Nat) (l : List Nat) (s : State) :
    heldCore a (l.foldl dropAll s) = (s.clkmask, (s.party a).gen, if a ∈ l then [] else (s.party a).hold) := by
  induction l generalizing s with
  | nil => rfl
  | cons p l ih =>
    have h1 : heldCore a (dropAll s p) = _ := (heldCore_dropFlying a _ p).trans (heldCore_dropHeld a s p)
    simp only [heldCore, Prod.mk.injEq] at h1
    obtain ⟨hm, hg, hh⟩ := h1
    rw [List.foldl_cons, ih, hm, hg, hh]
    by_cases hp : a = p <;> by_cases ha : a ∈ l <;> simp [hp, ha]

/-- Each party's clock and credits are reset. -/
def resurveyParty (s : State) (p : Nat) : State := s.modParty p Party.resurvey

theorem resurveyParty_ne {a p : Nat} (h : a ≠ p) (s : State) : (resurveyParty s p).party a = s.party a := tget_tset_ne _ _ _ _ _ h

theorem party_resurveys (a : Nat) (l : List Nat) (hl : l.Nodup) (s : State) :
    (l.foldl resurveyParty s).party a = if a ∈ l then (s.party a).resurvey else s.party a := by
  induction l generalizing s with
  | nil => rfl
  | cons p l ih =>
    obtain ⟨hp, hn⟩ := List.nodup_cons.1 hl
    rw [List.foldl_cons, ih hn]
    by_cases ha : a = p
    · subst ha
      have hs : (resurveyParty s a).party a = (s.party a).resurvey := tget_tset_same _ _ _ _
      rw [if_neg hp, hs, if_pos List.mem_cons_self]
    · rw [resurveyParty_ne ha]
      simp [ha]

/-- What the end of a resurvey leaves: that none is open, the mask, and a party. -/
def surveyCore (a : Nat) (s : State) : Option Nat × W64 × Party := (s.survey, s.clkmask, s.party a)

theorem surveyCore_stopStage (a : Nat) (s : State) (d : Nat) : surveyCore a (s.stopStage d) = surveyCore a s := by
  unfold State.stopStage
  dsimp only
  split <;> rfl

/-- A die that the mask names stops. -/
def loseDie (mask : Nat) (s : State) (d : Nat) : State := if mask / 2 ^ (partyOf d) % 2 = 1 then s.stopStage d else s

theorem surveyCore_loseDies (a mask : Nat) (l : List Nat) (s : State) :
    surveyCore a (l.foldl (loseDie mask) s) = surveyCore a s := by
  induction l generalizing s with
  | nil => rfl
  | cons d l ih =>
    refine (ih _).trans ?_
    unfold loseDie
    split
    · exact surveyCore_stopStage a s d
    · rfl

theorem clkmask_resurveys (l : List Nat) (s : State) : (l.foldl resurveyParty s).clkmask = s.clkmask := by
  induction l generalizing s with
  | nil => rfl
  | cons p l ih => exact ih _

/-- A state in which every clock and credit is as after reset. -/
def resurveyed (s : State) : State := (List.range 6).foldl resurveyParty ((List.range 6).foldl dropAll s)

theorem resume_eq (s : State) (mask : Nat) : s.resume mask =
    (((List.range 4).foldl (loseDie mask) { resurveyed s with survey := none, clkmask := nextMask (resurveyed s).clkmask mask }
      ).dropLost).dieCount 0 10 1 := rfl

theorem surveyCore_dropLost (a : Nat) (s : State) : surveyCore a (s.dropLost.dieCount 0 10 1) = surveyCore a s := rfl

theorem surveyCore_closed (a : Nat) (s : State) (w : W64) :
    surveyCore a { s with survey := none, clkmask := w } = (none, w, s.party a) := rfl

theorem surveyCore_resume (s : State) (mask a : Nat) : surveyCore a (s.resume mask) =
    (none, nextMask (resurveyed s).clkmask mask, (resurveyed s).party a) := by
  rw [resume_eq, surveyCore_dropLost, surveyCore_loseDies, surveyCore_closed]

theorem party_resurveyed (s : State) {a : Nat} (ha : a < 6) : ∃ x : Party, (resurveyed s).party a = x.resurvey ∧
    x.gen = (s.party a).gen ∧ x.hold = [] ∧ (resurveyed s).clkmask = s.clkmask := by
  have hc := heldCore_dropAll a (List.range 6) s
  rw [if_pos (List.mem_range.2 ha)] at hc
  simp only [heldCore, Prod.mk.injEq] at hc
  obtain ⟨hm, hg, hh⟩ := hc
  refine ⟨((List.range 6).foldl dropAll s).party a, ?_, hg, hh, (clkmask_resurveys _ _).trans hm⟩
  exact (party_resurveys a _ List.nodup_range _).trans (if_pos (List.mem_range.2 ha))

theorem resurveyResume_resets {s : State} {mask : Nat} (hs : s.survey = some mask) :
    ∃ r, exec .resurveyResume s = .next r ∧ r.survey = none ∧ r.clkmask = nextMask s.clkmask mask ∧
      ∀ a, a < 6 → (r.party a).m = Vector.replicate 36 0 ∧ (r.party a).dlv = Vector.replicate 6 0 ∧
        (r.party a).gen = (s.party a).gen + 1 ∧ (r.party a).hold = [] ∧ (r.party a).cred = Vector.replicate 6 64 ∧
        (r.party a).shared = 704 ∧ (r.party a).lent = Vector.replicate 6 0 := by
  have hcore (a : Nat) (ha : a < 6) : (s.resume mask).survey = none ∧ (s.resume mask).clkmask = nextMask s.clkmask mask ∧
      ∃ x : Party, (s.resume mask).party a = x.resurvey ∧ x.gen = (s.party a).gen ∧ x.hold = [] := by
    obtain ⟨x, hx, hg, hh, hm⟩ := party_resurveyed s ha
    have hc := surveyCore_resume s mask a
    rw [hx, hm] at hc
    simp only [surveyCore, Prod.mk.injEq] at hc
    obtain ⟨h1, h2, h3⟩ := hc
    exact ⟨h1, h2, x, h3, hg, hh⟩
  obtain ⟨h1, h2, -⟩ := hcore 0 (by omega)
  refine ⟨s.resume mask, ?_, h1, h2, fun a ha => ?_⟩
  · rw [exec_resurveyResume, execResurveyResume, hs]
  · obtain ⟨-, -, x, hx, hg, hh⟩ := hcore a ha
    rw [hx, ← hg]
    exact ⟨rfl, rfl, rfl, hh, rfl, rfl, rfl⟩

theorem resurveyResume_none {s : State} (hs : s.survey = none) : exec .resurveyResume s = .next s := by
  rw [exec_resurveyResume, execResurveyResume, hs]

/-! ### Snapshots -/

/-- What the packets of a snapshot leave: the snapshots and the journal. -/
def snapCore (s : State) : Option Snap × Option Kept × List Kept × Nat := (s.snap, s.taken, s.kept, s.jseq)

theorem snapCore_freeBytes (n : Nat) (s : State) : snapCore (s.freeBytes n).2 = snapCore s := by
  induction n generalizing s with
  | zero => rfl
  | succ n ih => exact ih _

theorem snapCore_snapSend (s : State) (x : Snap) (i : Nat) : snapCore (s.snapSend x i) = snapCore s :=
  snapCore_freeBytes _ s

theorem snapCore_foldl {α : Type} {f : State → α → State} (h : ∀ s a, snapCore (f s a) = snapCore s) (l : List α) (s : State) :
    snapCore (l.foldl f s) = snapCore s := by
  induction l generalizing s with
  | nil => rfl
  | cons a l ih => exact (ih _).trans (h _ _)

theorem snapStart_begins (s : State) (x : Snap) : (s.snapStart x).taken = some (s.keep x) ∧
    (s.snapStart x).snap = some { x with begun := true, wait := (List.range (s.snapCount (s.keep x))).map fun i => (i, 0) } := by
  have hc : snapCore (s.snapStart x) = _ := snapCore_foldl (f := fun (u : State) i => u.snapSend x i)
    (fun u i => snapCore_snapSend u x i) (List.range (s.snapCount (s.keep x)))
    { s with snap := some { x with begun := true, wait := (List.range (s.snapCount (s.keep x))).map fun i => (i, 0) }
             taken := some (s.keep x) }
  simp only [snapCore, Prod.mk.injEq] at hc
  obtain ⟨hs, ht, -, -⟩ := hc
  exact ⟨ht, hs⟩

theorem snapshotBegin_begins {s : State} {x : Snap} (hx : s.snap = some x) (hb : x.begun = false) (hr : s.snapReady x = true)
    (hm : s.maySnap = true) : ∃ r, exec .snapshotBegin s = .next r ∧ r.taken = some (s.keep x) ∧
      r.snap = some { x with begun := true, wait := (List.range (s.snapCount (s.keep x))).map fun i => (i, 0) } ∧
      r.dmem = s.dmem := by
  obtain ⟨ht, hs⟩ := snapStart_begins s x
  have hmem : (s.snapStart x).mem = s.mem := by simp
  refine ⟨s.snapStart x, ?_, ht, hs, congrArg Prod.fst hmem⟩
  rw [exec_snapshotBegin, execSnapshotBegin, hx]
  refine if_pos ?_
  rw [hb, hr, hm]
  rfl

theorem snapshotResend_again {s : State} {x : Snap} {i k c : Nat} (hx : s.snap = some x) (hw : x.wait[i]? = some (k, c))
    (hc : c < 3) : ∃ r, exec (.snapshotResend i) s = .next r ∧ r.snap = some { x with wait := x.wait.set i (k, c + 1) } := by
  refine ⟨({ s with snap := some { x with wait := x.wait.set i (k, c + 1) } } : State).snapSend x k, ?_,
    congrArg Prod.fst (snapCore_snapSend { s with snap := some { x with wait := x.wait.set i (k, c + 1) } } x k)⟩
  rw [exec_snapshotResend, execSnapshotResend, hx]
  dsimp only
  rw [hw]
  exact if_pos hc

theorem snapshotResend_fails {s : State} {x : Snap} {i k c : Nat} (hx : s.snap = some x) (hw : x.wait[i]? = some (k, c))
    (hc : 3 ≤ c) : ∃ r, exec (.snapshotResend i) s = .next r ∧ r.snap = none ∧ r.taken = none ∧ r.jseq = s.jseq + 1 := by
  refine ⟨s.snapFail x, ?_, rfl, rfl, rfl⟩
  rw [exec_snapshotResend, execSnapshotResend, hx]
  dsimp only
  rw [hw]
  exact if_neg (by omega)

/-- Each snapshot taken is kept, sealed by its manifest, and the snapshot is over. -/
theorem snapDone_keeps (s : State) (x : Snap) : (s.snapDone x).snap = none ∧ (s.snapDone x).jseq = s.jseq + 1 ∧
    ∀ k, s.taken = some k → k.seal ∈ (s.snapDone x).kept := by
  have hc := snapCore_foldl (f := fun (u : State) k => u.sendManifest x k) (fun _ _ => rfl) (s.taken.toList.map Kept.seal)
    { s with snap := none, taken := none
             kept := (s.kept.filter fun k => !(k.buddy == x.buddy && k.base == x.base)) ++ s.taken.toList.map Kept.seal }
  simp only [snapCore, Prod.mk.injEq] at hc
  obtain ⟨h1, -, h3, h4⟩ := hc
  refine ⟨h1, congrArg (· + 1) h4, fun k hk => ?_⟩
  have hkept : (s.snapDone x).kept = _ := h3
  rw [hkept, hk]
  simp

theorem snapshotAckReceive_completes {s : State} {x : Snap} {w : Nat × Nat} {p q : Nat} (hx : s.snap = some x)
    (hq : s.peerOf p = some q) (hb : x.begun = true) (hu : (s.port p).up = true) (hm : s.maySnap = true) (hw : x.wait = [w]) :
    ∃ r, exec (.snapshotAckReceive p) s = .next r ∧ r.snap = none ∧ r.jseq = s.jseq + 1 ∧
      ∀ k, s.taken = some k → k.seal ∈ r.kept := by
  refine ⟨s.freeNat.2.snapDone x, ?_, snapDone_keeps s.freeNat.2 x⟩
  have hack : s.snapAck x = s.freeNat.2.snapDone x := by
    unfold State.snapAck
    dsimp only
    rw [hw, List.length_singleton, Nat.mod_one]
    rfl
  rw [exec_snapshotAckReceive, execSnapshotAckReceive, hx]
  refine (if_pos ?_).trans (congrArg _ hack)
  rw [hb, hq, hu, hm]
  rfl

theorem snapshot_waits {s : State} (h : s.maySnap = false) (p : Nat) :
    exec .snapshotBegin s = .next s ∧ exec (.snapshotAckReceive p) s = .next s := by
  rw [exec_snapshotBegin, exec_snapshotAckReceive, execSnapshotBegin, execSnapshotAckReceive, h]
  cases s.snap with
  | none => exact ⟨rfl, rfl⟩
  | some x => exact ⟨if_neg (by simp), if_neg (by simp)⟩

theorem snapshotPacketReceive_takes {s : State} {p q : Nat} (hq : s.peerOf p = some q) (hu : (s.port p).up = true)
    (hc : s.cutOff = false) : ∃ m, pkgGroup m = pkgGroup s.own ∧
      exec (.snapshotPacketReceive p) s = .next (({ s with free := s.free + 1 } : State).snapTake m) := by
  refine ⟨512 * pkgGroup s.own + s.freeNat.1 % 384, ?_, ?_⟩
  · unfold pkgGroup
    omega
  · rw [exec_snapshotPacketReceive, execSnapshotPacketReceive, hq, hu, hc]
    exact if_pos rfl

/-- Settles O52: one lemma for each move. -/
theorem recoveryMoves : Obligations.RecoveryMoves := by
  intro s d i p q
  exact ⟨fun hd hs hv => debugHold_holds hd (.inl hs) hv, fun hs hv => debugHold_holds (by omega) (.inr ⟨hs, rfl⟩) hv,
    fun _ n hn hd => holdDie_holds s hn hd, fun hd hs => debugRelease_serves hd hs,
    fun _ _ hd hq hr => dieQuiesceTimeout_leaves hd hq hr, fun ok _ hd hq hr => dieRetrainDone_ends ok hd hq hr,
    fun hd he h2 h3 => dieDropThreshold_drops hd he h2 h3, fun hd he => dieDropThreshold_below hd he,
    fun _ hp hx => holdTimeout_reports hp hx, fun _ => rfl, fun hp hq hn h1 h2 => interdieLinkError_reports hp hq hn h1 h2,
    rfl, fun h0 hp hm => ⟨_, removalOfAParty_triggers h0 hp hm, rfl⟩, fun hs => resurveyResume_none hs,
    fun _ hs => resurveyResume_resets hs, fun _ hx hb hr hm => snapshotBegin_begins hx hb hr hm,
    fun _ _ _ hx hw => ⟨fun hc => snapshotResend_again hx hw hc, fun hc => snapshotResend_fails hx hw hc⟩,
    fun _ _ hx hq hb hu hm hw => snapshotAckReceive_completes hx hq hb hu hm hw, fun h => snapshot_waits h p,
    fun hq hu hc => snapshotPacketReceive_takes hq hu hc⟩

end Sys2Proof.Laws

end

section

/-! # The host: its service, its queues and their commands (21) -/

namespace Sys2Proof.Laws
open Sys2Proof.Machine Sys2Proof.Claim

/-! ### Training, full service and the package's number -/

/-- A change made once to each die of a list. -/
theorem die_modDies (f : DieSt → DieSt) (d : Nat) (l : List Nat) (hl : l.Nodup) (s : State) :
    (l.foldl (fun s d => s.modDie d f) s).die d = if d ∈ l then f (s.die d) else s.die d := by
  induction l generalizing s with
  | nil => rfl
  | cons e l ih =>
    obtain ⟨he, hn⟩ := List.nodup_cons.1 hl
    rw [List.foldl_cons, ih hn]
    by_cases hd : d = e
    · subst hd
      have hs : (s.modDie d f).die d = f (s.die d) := die_modDie rfl
      rw [if_neg he, hs, if_pos List.mem_cons_self]
    · have hs : (s.modDie e f).die d = s.die d := tget_tset_ne _ _ _ _ _ hd
      rw [hs]
      simp [hd]

/-- Changes of dies leave full service and device memory. -/
theorem full_modDies (f : DieSt → DieSt) (l : List Nat) (s : State) :
    (l.foldl (fun s d => s.modDie d f) s).full = s.full ∧ (l.foldl (fun s d => s.modDie d f) s).dmem = s.dmem := by
  induction l generalizing s with
  | nil => exact ⟨rfl, rfl⟩
  | cons e l ih => exact ih _

/-- A die that waits for full service takes part in it. -/
def serveDie (x : DieSt) : DieSt := { x with stat := if x.stat = 4 then 0 else x.stat }

theorem fullServiceBegin_serves {s : State} (ht : s.trained = true) (hf : s.full = false) (hr : s.runs = []) :
    ∃ r, exec .fullServiceBegin s = .next r ∧ r.full = true ∧ r.dmem = s.dmem ∧
      ∀ d, d < 4 → (r.die d).stat = (if (s.die d).stat = 4 then 0 else (s.die d).stat) := by
  obtain ⟨hfull, hmem⟩ := full_modDies serveDie (List.range 4) { s with full := true }
  refine ⟨(List.range 4).foldl (fun s d => s.modDie d serveDie) { s with full := true }, ?_, hfull, hmem, fun d hd => ?_⟩
  · rw [exec_fullServiceBegin, execFullServiceBegin, ht, hf, hr]
    exact if_pos rfl
  · have hdie := die_modDies serveDie d (List.range 4) List.nodup_range { s with full := true }
    rw [if_pos (List.mem_range.2 hd)] at hdie
    exact congrArg DieSt.stat hdie

theorem fullServiceBegin_waits {s : State} (h : s.trained = false ∨ s.full = true ∨ s.runs ≠ []) :
    exec .fullServiceBegin s = .next s := by
  rw [exec_fullServiceBegin, execFullServiceBegin]
  refine if_neg ?_
  rcases h with h | h | h <;> simp [h]

/-- A place of the address plan: group and member within their limits. -/
theorem badPkg_number (g : BitVec 17) (m : BitVec 9) :
    badPkg (g.toNat * 512 + m.toNat) = (decide (73728 < g.toNat) || decide (383 < m.toNat)) := by
  have hm := m.isLt
  unfold badPkg
  congr 2 <;> simp <;> omega

theorem packageNumberAssign_assigns {s : State} {g : BitVec 17} {m : BitVec 9} (hf : s.full = true) (hg : g.toNat ≤ 73728)
    (hm : m.toNat ≤ 383) : exec (.packageNumberAssign g m) s = .next { s with pval := true, group := g, member := m } := by
  rw [exec_packageNumberAssign, execPackageNumberAssign, badPkg_number]
  exact if_pos (by simp [hf, hg, hm])

theorem packageNumberAssign_refused {s : State} {g : BitVec 17} {m : BitVec 9}
    (h : s.full = false ∨ 73728 < g.toNat ∨ 383 < m.toNat) : exec (.packageNumberAssign g m) s = .next s := by
  rw [exec_packageNumberAssign, execPackageNumberAssign, badPkg_number]
  refine if_neg ?_
  rcases h with h | h | h <;> simp [h]

theorem debuggerAttach_marks (s : State) {p : Nat} (hp : p < 64) :
    exec (.debuggerAttach p true) s = .next { s with dbg := s.dbg.filter (· != p) ++ [p] } ∧
      exec (.debuggerAttach p false) s = .next { s with dbg := s.dbg.filter (· != p) } := by
  rw [exec_debuggerAttach, exec_debuggerAttach, execDebuggerAttach, execDebuggerAttach, Nat.mod_eq_of_lt hp]
  exact ⟨rfl, rfl⟩

/-! ### The queue registers -/

theorem qKey_eq {fn q : Nat} (hf : fn < 64) (hq : q < 16) : qKey fn q = 16 * fn + q := by
  rw [qKey, Nat.mod_eq_of_lt hf, Nat.mod_eq_of_lt hq]

/-- A queue's 32 bytes of registers read as they stand. -/
theorem bar0_queue {s : State} {fn q : Nat} (hf : fn < 64) (hq : q < 16) (hv : (s.party 0).viral = false) :
    s.bar0 fn (0x1000 + 32 * q) 32 = some (s.queue (16 * fn + q)).bytes := by
  unfold State.bar0
  rw [hv, if_neg Bool.false_ne_true]
  refine congrArg some (List.ext_getElem (by rw [List.length_map, List.length_range, Queue.bytes_length]) fun i h1 h2 => ?_)
  have hi : i < 32 := by simpa [Queue.bytes_length] using h2
  have hin : 0x1000 ≤ 0x1000 + 32 * q + i ∧ 0x1000 + 32 * q + i < 0x1200 := by omega
  have hreg : (0x1000 + 32 * q + i - 0x1000) / 32 = q := by omega
  have hoff : (0x1000 + 32 * q + i) % 32 = i := by omega
  rw [List.getElem_map, List.getElem_range]
  dsimp only
  rw [if_pos hin, hreg, hoff, qKey_eq hf hq, List.getD_eq_getElem _ _ h2]

theorem qtailWrite_queue (s : State) {fn q : Nat} (hf : fn < 64) (hq : q < 16) (v : BitVec 32) :
    exec (.qtailWrite fn q v) s = .next (s.setQueue (16 * fn + q) ((s.queue (16 * fn + q)).setTail v)) := by
  rw [exec_qtailWrite, execQtailWrite, qKey_eq hf hq]

theorem queueRestart_queue (s : State) {fn q : Nat} (hf : fn < 64) (hq : q < 16) :
    exec (.queueRestart fn q) s = .next (s.setQueue (16 * fn + q) (s.queue (16 * fn + q)).restart) := by
  rw [exec_queueRestart, execQueueRestart, qKey_eq hf hq]

theorem hostRegWrite_queue (s : State) {fn q off : Nat} (hf : fn < 64) (hq : q < 16) (ho : off < 32) (v : W64) :
    exec (.hostRegWrite fn (0x1000 + 32 * q + off) v) s =
      .next (s.setQueue (16 * fn + q) ((s.queue (16 * fn + q)).put off v)) := by
  have hreg : (0x1000 + 32 * q + off - 0x1000) / 32 = q := by omega
  have hoff : (0x1000 + 32 * q + off) % 32 = off := by omega
  rw [exec_hostRegWrite, execHostRegWrite, if_pos (by omega), hreg, hoff, qKey_eq hf hq]

theorem Queue.setTail_running {x : Queue} (h : x.stop = false) (v : BitVec 32) : x.setTail v = { x with tail := v } :=
  if_neg (by rw [h]; exact Bool.false_ne_true)

theorem Queue.setTail_stopped {x : Queue} (h : x.stop = true) (v : BitVec 32) : x.setTail v = { x with late := some v } := if_pos h

theorem Queue.restart_stopped {x : Queue} (h : x.stop = true) :
    x.restart = { x with stop := false, tail := x.late.getD x.tail, late := none } := if_pos h

theorem Queue.put_size (x : Queue) {v : W64} (h1 : 8 ≤ fld v 0 5) (h2 : fld v 0 5 ≤ 20) :
    x.put 8 v = { x with size := fld v 0 5 } := if_pos ⟨h1, h2⟩

theorem Queue.put_head {x : Queue} (h : x.stop = true) (v : W64) : x.put 16 v = { x with head := v.setWidth 32 } := if_pos h

/-- Settles O53: one lemma for each move and register. -/
theorem hostMoves : Obligations.HostMoves := by
  intro s fn q v x g m hf hq k u
  refine ⟨rfl, fun ht hfull hr => fullServiceBegin_serves ht hfull hr, fun h => fullServiceBegin_waits h,
    fun hfull hg hm => packageNumberAssign_assigns hfull hg hm, fun h => packageNumberAssign_refused h,
    fun _ hp => debuggerAttach_marks s hp, fun hv => bar0_queue hf hq hv, fun hs => ?_, fun hs => ?_, fun hs => ?_,
    hostRegWrite_queue s hf hq (by omega : 0 < 32) v, fun h1 h2 => ?_, fun hs => ?_, _, rfl, rfl⟩
  · exact (qtailWrite_queue s hf hq x).trans (congrArg (fun y => Host.Outcome.next (s.setQueue k y)) (Queue.setTail_running hs x))
  · exact (qtailWrite_queue s hf hq x).trans (congrArg (fun y => Host.Outcome.next (s.setQueue k y)) (Queue.setTail_stopped hs x))
  · exact (queueRestart_queue s hf hq).trans (congrArg (fun y => Host.Outcome.next (s.setQueue k y)) (Queue.restart_stopped hs))
  · exact (hostRegWrite_queue s hf hq (by omega : 8 < 32) v).trans
      (congrArg (fun y => Host.Outcome.next (s.setQueue k y)) (Queue.put_size u h1 h2))
  · exact (hostRegWrite_queue s hf hq (by omega : 16 < 32) v).trans
      (congrArg (fun y => Host.Outcome.next (s.setQueue k y)) (Queue.put_head hs v))

/-! ### The commands of a queue -/

/-- What a command's packet that is read comes to: accepted with its effect, refused for its form, refused by its check. -/
def Settles (s : State) (x : Packet) (i : Instr) (cmd len : Nat) (pf : Bool) (chk rcd : Nat) (eff : Nat → State → State) : Prop :=
  x.cmd = cmd →
    (x.formErr len len pf = 0 → chk = 0 → exec i s = .next (eff (s.accept x rcd).1 (s.accept x rcd).2)) ∧
    (x.formErr len len pf ≠ 0 → exec i s = .next (s.reject x rcd (x.formErr len len pf))) ∧
    (x.formErr len len pf = 0 → chk ≠ 0 → exec i s = .next (s.reject x rcd chk))

theorem settleCmd_accepted (s : State) (x : Packet) (rcd : Nat) (eff : Nat → State → State) {e : Nat} (h : e = 0) :
    s.settleCmd x rcd e eff = eff (s.accept x rcd).1 (s.accept x rcd).2 := if_neg (not_not.2 h)

theorem settleCmd_refused (s : State) (x : Packet) (rcd : Nat) (eff : Nat → State → State) {e : Nat} (h : e ≠ 0) :
    s.settleCmd x rcd e eff = s.reject x rcd e := if_pos h

theorem settles_of_settleCmd {s : State} {x : Packet} {i : Instr} {cmd len : Nat} {pf : Bool} {chk rcd : Nat}
    {eff : Nat → State → State} (h : x.cmd = cmd → exec i s =
      .next (s.settleCmd x rcd (if x.formErr len len pf ≠ 0 then x.formErr len len pf else chk) eff)) :
    Settles s x i cmd len pf chk rcd eff := by
  intro hc
  rw [h hc]
  refine ⟨fun h0 hk => ?_, fun h0 => ?_, fun h0 hk => ?_⟩
  · rw [settleCmd_accepted]
    rw [if_neg (not_not.2 h0), hk]
  · rw [if_pos h0, settleCmd_refused _ _ _ _ h0]
  · rw [if_neg (not_not.2 h0), settleCmd_refused _ _ _ _ hk]

section
variable {s : State} {fn q : Nat} {x : Packet} (hv : (s.party 0).viral = false) (hs : s.snapHolds fn = false)
  (hp : s.packet fn q = some x)
include hv hs hp

theorem command_of_packet {cmd : Nat} (hc : x.cmd = cmd) : s.command fn q cmd = some x := by
  unfold State.command
  rw [hv, hs, hp]
  simp [hc]

theorem runCmd_settles {cmd : Nat} (hc : x.cmd = cmd) (len : Nat) (pf : Bool) (rcd chk : Packet → Nat)
    (eff : Packet → Nat → State → State) : s.runCmd fn q cmd len pf rcd chk eff =
      s.settleCmd x (rcd x) (if x.formErr len len pf ≠ 0 then x.formErr len len pf else chk x) (eff x) := by
  unfold State.runCmd
  rw [command_of_packet hv hs hp hc]

/-- A command that is run from its queue settles. -/
theorem settles_of_runCmd {i : Instr} {cmd len : Nat} {pf : Bool} {rcds chks : Packet → Nat} {effs : Packet → Nat → State → State}
    (h : exec i s = .next (s.runCmd fn q cmd len pf rcds chks effs)) {chk rcd : Nat} {eff : Nat → State → State}
    (hchk : chk = chks x) (hrcd : rcd = rcds x) (heff : eff = effs x) : Settles s x i cmd len pf chk rcd eff := by
  subst hchk hrcd heff
  exact settles_of_settleCmd fun hc => h.trans (congrArg _ (runCmd_settles hv hs hp hc len pf rcds chks effs))

theorem settles_capsRead : Settles s x (.capsRead fn q) 0x09 2 false (s.capsErr x) noRec fun _ s =>
    (s.openView x.capSlot x.capView x.capPart).toHost x.fn x.b
      (((s.viewBytes x.capSlot x.capView x.capPart).drop (x.lo 1).toNat).take (x.hi 1).toNat) := by
  refine settles_of_runCmd hv hs hp ((exec_capsRead fn q s).trans (if_neg ?_)) rfl rfl rfl
  rw [hv]
  exact Bool.false_ne_true

theorem settles_diereset (hf : fn < 64) : Settles s x (.diereset fn q) 0x25 1 true (dieErr x) noRec fun j s =>
    s.quiesce x.a false [j] :=
  settles_of_runCmd hv hs hp ((exec_diereset fn q s).trans (if_neg (by omega))) rfl rfl rfl

omit hv hs in
theorem settles_pkgreset (hf : fn < 64) (hw : (s.viral.all fun v => v.done) = true) :
    Settles s x (.pkgreset fn q) 0x29 1 true 0 noRec fun _ s => s.warm := by
  have hn : (s.viral.any fun v => !v.done) = false := by
    cases hvir : s.viral with
    | none => rfl
    | some v => simpa [hvir] using hw
  refine settles_of_settleCmd fun hc => ?_
  have hx : (some x).filter (fun y => y.cmd == 0x29) = some x := by
    rw [Option.filter_some, hc]
    rfl
  have he : (if x.formErr 1 1 true ≠ 0 then x.formErr 1 1 true else 0) = x.formErr 1 1 true := by
    split
    · rfl
    · next h => exact (not_not.1 h).symm
  rw [he, exec_pkgreset, execPkgreset, hn, if_neg Bool.false_ne_true, if_neg (by omega), hp, hx]

/-! ### An unknown command, and CMD_NOP -/

theorem cmdNop_unknown (hk : knownCmd x.cmd = false) : exec (.cmdNop fn q) s = .next (s.reject x noRec 2) := by
  rw [exec_cmdNop, execCmdNop, hv, hs, hp]
  simp [hk]

theorem cmdNop_settles (hc : x.cmd = 0) : exec (.cmdNop fn q) s =
    .next (s.settleCmd x noRec (x.formErr 1 17 false) fun _ s => s) := by
  rw [exec_cmdNop, execCmdNop, hv, hs, hp]
  simp [hc, knownCmd]

end

/-! ### FABSET -/

/-- The bits of a FABSET that are zero. -/
def FabClear (x : Packet) : Prop := x.a / 2 ^ 10 % 2 ^ 6 = 0 ∧ x.a / 2 ^ 18 = 0 ∧ x.lo 1 = 0 ∧ x.hi 1 = 0

/-- What a FABSET of register `reg` and of check `chk` is refused for, or 0. -/
def fabErr (x : Packet) (chk : Packet → Nat) : Nat :=
  let zero := x.a / 2 ^ 10 % 2 ^ 6 != 0 || x.a / 2 ^ 18 != 0 || x.lo 1 != 0 || x.hi 1 != 0
  if x.formErr 2 2 true ≠ 0 then x.formErr 2 2 true
  else if zero then 1
  else if x.a / 2 ^ 16 % 4 = 3 ∨ !x.portOk then 5
  else chk x

theorem fabErr_form {x : Packet} (h : x.formErr 2 2 true ≠ 0) (chk : Packet → Nat) : fabErr x chk = x.formErr 2 2 true := if_pos h

theorem fabErr_reserved {x : Packet} (h : x.formErr 2 2 true = 0) (hc : ¬ FabClear x) (chk : Packet → Nat) : fabErr x chk = 1 := by
  refine (if_neg (not_not.2 h)).trans (if_pos ?_)
  by_contra hn
  exact hc (by simpa [FabClear, and_assoc] using hn)

/-- A FABSET whose reserved bits are zero is refused for its register or port, or by its check. -/
theorem fabErr_clear {x : Packet} (h : x.formErr 2 2 true = 0) (hc : FabClear x) (chk : Packet → Nat) :
    fabErr x chk = if x.a / 2 ^ 16 % 4 = 3 ∨ !x.portOk then 5 else chk x := by
  obtain ⟨h1, h2, h3, h4⟩ := hc
  refine (if_neg (not_not.2 h)).trans (if_neg ?_)
  rw [h1, h2, h3, h4]
  decide

theorem portOk_of {x : Packet} (h : x.a % 1024 < 576 ∨ x.a % 1024 = 0x3FF) : x.portOk = true := by
  rcases h with h | h <;> simp [Packet.portOk, h]

theorem portOk_none {x : Packet} (h : 576 ≤ x.a % 1024 ∧ x.a % 1024 ≠ 0x3FF) : x.portOk = false := by
  obtain ⟨h1, h2⟩ := h
  simp [Packet.portOk, h1, h2]

theorem fabErr_place {x : Packet} (h : x.formErr 2 2 true = 0) (hc : FabClear x)
    (hp : x.a / 2 ^ 16 % 4 = 3 ∨ (576 ≤ x.a % 1024 ∧ x.a % 1024 ≠ 0x3FF)) (chk : Packet → Nat) : fabErr x chk = 5 := by
  rw [fabErr_clear h hc]
  exact if_pos (hp.imp id fun hp => by rw [portOk_none hp]; rfl)

theorem fabErr_value {x : Packet} (h : x.formErr 2 2 true = 0) (hc : FabClear x) {chk : Packet → Nat} (hk : chk x = 5) :
    fabErr x chk = 5 := by
  rw [fabErr_clear h hc, hk, ite_self]

theorem fabErr_none {x : Packet} (h : x.formErr 2 2 true = 0) (hc : FabClear x) (hr : x.a / 2 ^ 16 % 4 ≠ 3)
    (hp : x.a % 1024 < 576 ∨ x.a % 1024 = 0x3FF) {chk : Packet → Nat} (hk : chk x = 0) : fabErr x chk = 0 := by
  rw [fabErr_clear h hc, portOk_of hp, if_neg (fun h => h.elim hr Bool.false_ne_true), hk]

/-- The check of a FABSET's value: neither threshold of a port is zero. -/
def fabChk (reg : Nat) (x : Packet) : Nat :=
  if reg = 0 ∨ reg = 3 then (if fld x.b 0 8 = 0 ∨ fld x.b 8 16 = 0 then 5 else 0) else 0

theorem fabChk_zero {reg : Nat} {x : Packet} (hr : reg = 0) (hz : fld x.b 0 8 = 0 ∨ fld x.b 8 16 = 0) : fabChk reg x = 5 :=
  (if_pos (.inl hr)).trans (if_pos hz)

theorem fabChk_set {reg : Nat} {x : Packet} (hr : reg = 0) (h1 : fld x.b 0 8 ≠ 0) (h2 : fld x.b 8 16 ≠ 0) : fabChk reg x = 0 :=
  (if_pos (.inl hr)).trans (if_neg fun h => h.elim h1 h2)

theorem fabChk_other {reg : Nat} {x : Packet} (hr : reg = 1 ∨ reg = 2) : fabChk reg x = 0 := if_neg (by omega)

/-- The effect of a FABSET. -/
def fabEff (reg : Nat) (x : Packet) (s : State) : State :=
  if reg = 1 then { s with fab := { s.fab with rcfg := x.b &&& 0xFFFF#64 } }
  else if reg = 2 then { s with fab := { s.fab with tcw := x.b } }
  else s.putPctl (x.a % 1024) x.b

theorem fabEff_pctl {reg : Nat} (hr : reg = 0) (x : Packet) (s : State) : fabEff reg x s = s.putPctl (x.a % 1024) x.b :=
  (if_neg (by omega)).trans (if_neg (by omega))

/-- One port takes its thresholds. -/
theorem fabEff_port {reg : Nat} {x : Packet} (hr : reg = 0) (hp : x.a % 1024 < 576) (s : State) : fabEff reg x s =
    s.setPort (x.a % 1024) { s.port (x.a % 1024) with symth := fld x.b 0 8, rrth := fld x.b 8 16 } :=
  (fabEff_pctl hr x s).trans (if_neg (by omega))

/-- Every port takes its thresholds. -/
theorem fabEff_ports {reg : Nat} {x : Packet} (hr : reg = 0) (hp : x.a % 1024 = 0x3FF) (s : State) : fabEff reg x s =
    (List.range 576).foldl (fun s p => s.setPort p { s.port p with symth := fld x.b 0 8, rrth := fld x.b 8 16 }) s :=
  (fabEff_pctl hr x s).trans (if_pos hp)

section
variable {s : State} {fn q : Nat} {x : Packet} (hv : (s.party 0).viral = false) (hs : s.snapHolds fn = false)
  (hp : s.packet fn q = some x) (hc : x.cmd = 0x2A)
include hv hs hp hc

theorem fabset_settles {reg : Nat} (hr : x.a / 2 ^ 16 % 4 = reg ∨ (x.a / 2 ^ 16 % 4 = 3 ∧ reg = 0)) (chk : Packet → Nat)
    (eff : Packet → State → State) : s.fabset fn q reg chk eff = s.settleCmd x noRec (fabErr x chk) fun _ s => eff x s := by
  unfold State.fabset
  rw [command_of_packet hv hs hp hc]
  refine if_neg fun ⟨h1, h2⟩ => ?_
  rcases hr with hr | hr
  · exact h1 hr
  · rw [decide_eq_true hr] at h2
    exact Bool.false_ne_true h2

/-- The FABSET of the register that a packet names; register 3 goes with register 0. -/
theorem fabset_exec {i : Instr} (hi : i = if x.a / 2 ^ 16 % 4 = 1 then .fabsetRcfg fn q
      else if x.a / 2 ^ 16 % 4 = 2 then .fabsetTcw fn q else .fabsetPctl fn q) : exec i s =
    .next (s.settleCmd x noRec (fabErr x (fabChk (x.a / 2 ^ 16 % 4))) fun _ s => fabEff (x.a / 2 ^ 16 % 4) x s) := by
  subst hi
  have hreg : x.a / 2 ^ 16 % 4 < 4 := Nat.mod_lt _ (by omega)
  have hset := fun {reg : Nat} h chk eff => fabset_settles hv hs hp hc (reg := reg) h chk eff
  generalize x.a / 2 ^ 16 % 4 = reg at hreg hset
  interval_cases reg
  · exact congrArg Host.Outcome.next (hset (.inl rfl) _ _)
  · exact congrArg Host.Outcome.next (hset (.inl rfl) _ _)
  · exact congrArg Host.Outcome.next (hset (.inl rfl) _ _)
  · exact congrArg Host.Outcome.next (hset (.inr ⟨rfl, rfl⟩) _ _)

theorem fabset_refused {i : Instr} (hi : i = if x.a / 2 ^ 16 % 4 = 1 then .fabsetRcfg fn q
      else if x.a / 2 ^ 16 % 4 = 2 then .fabsetTcw fn q else .fabsetPctl fn q) {e : Nat}
    (he : fabErr x (fabChk (x.a / 2 ^ 16 % 4)) = e) (h0 : e ≠ 0) : exec i s = .next (s.reject x noRec e) := by
  rw [fabset_exec hv hs hp hc hi, he, settleCmd_refused _ _ _ _ h0]

theorem fabset_accepted {i : Instr} (hi : i = if x.a / 2 ^ 16 % 4 = 1 then .fabsetRcfg fn q
      else if x.a / 2 ^ 16 % 4 = 2 then .fabsetTcw fn q else .fabsetPctl fn q)
    (he : fabErr x (fabChk (x.a / 2 ^ 16 % 4)) = 0) : exec i s = .next (fabEff (x.a / 2 ^ 16 % 4) x (s.accept x noRec).2) := by
  rw [fabset_exec hv hs hp hc hi, settleCmd_accepted _ _ _ _ he]

end

/-! ### What each command leaves of its queue -/

theorem accept_counts (s : State) (x : Packet) (rcd : Nat) : (s.accept x rcd).2.jseq = s.jseq + 1 ∧ (s.accept x rcd).1 = s.jseq + 1 ∧
    ((s.accept x rcd).2.queue (qKey x.fn x.q)).head = x.que.head + BitVec.ofNat 32 x.len ∧
    ((s.accept x rcd).2.queue (qKey x.fn x.q)).used = x.que.used + x.len :=
  ⟨rfl, rfl, congrArg Queue.head (tget_tset_same _ _ _ _), congrArg Queue.used (tget_tset_same _ _ _ _)⟩

/-- An entry of the journal makes no party viral. -/
theorem journal_viral (s : State) (queue state cmd rcd qseq ref detail p : Nat) :
    ((s.journal queue state cmd rcd qseq ref detail).party p).viral = (s.party p).viral :=
  party_modParty_keeps Party.viral p 0 (s.freeNat.2.dieCount 0 5 (s.freeNat.1 * (s.party 0).hold.length))
    (f := fun x => { x with cyc := x.cyc + s.freeNat.1 }) fun _ => rfl

theorem irq_raised {s : State} (hv : (s.party 0).viral = false) (fn kind : Nat) : (s.irq fn kind).queues = s.queues ∧
    (fn, kind) ∈ (s.irq fn kind).irqs := by
  have h : s.irq fn kind = { s with irqs := s.irqs ++ [(fn, kind)] } :=
    if_neg fun h : (s.party 0).viral = true => Bool.false_ne_true (hv.symm.trans h)
  rw [h]
  exact ⟨rfl, List.mem_append_right _ List.mem_cons_self⟩

theorem reject_stops {s : State} (hv : (s.party 0).viral = false) (x : Packet) (rcd e : Nat) :
    (s.reject x rcd e).queue (qKey x.fn x.q) = { x.que with err := e, stop := true } ∧ (x.fn, 1) ∈ (s.reject x rcd e).irqs := by
  have hj : ((s.journal x.queueNo jRejected x.cmd rcd x.que.used 0 e).party 0).viral = false :=
    (journal_viral s _ _ _ _ _ _ _ 0).trans hv
  generalize hu : s.journal x.queueNo jRejected x.cmd rcd x.que.used 0 e = u at hj
  obtain ⟨hq, hi⟩ := irq_raised (s := u.setQueue (qKey x.fn x.q) { x.que with err := e, stop := true }) hj x.fn 1
  have hr : s.reject x rcd e =
      ((u.setQueue (qKey x.fn x.q) { x.que with err := e, stop := true }).irq x.fn 1).report 23 14 (unitParty 0) 0 0 e := by
    rw [← hu]
    rfl
  rw [hr]
  exact ⟨(congrArg (fun l => tget l Queue.reset (qKey x.fn x.q)) hq).trans (tget_tset_same _ _ _ _), hi⟩

/-- A grant that waited takes effect once it may. -/
theorem partsetDone_grants {s : State} {p j k : Nat} {e : PartE} (hf : s.psets.find? (fun y => y.1 == k) = some (p, e, j))
    (hm : s.mayGrant p e = true) : exec (.partsetDone k) s = .next (s.granted p j e) := by
  rw [exec_partsetDone, execPartsetDone, hf]
  exact if_pos hm

/-- Settles O54: each command settles as `settles_of_runCmd` says; FABSET's cases follow from its check. -/
theorem queueCommands : Obligations.QueueCommands := by
  intro s fn q x hf hq hv hs hp acc r ok
  have run {i : Instr} {cmd len : Nat} {pf : Bool} {chk rcd : Nat} {eff : Nat → State → State}
      (h : Settles s x i cmd len pf chk rcd eff) : acc i cmd len pf chk rcd eff := h
  refine ⟨fun hk => cmdNop_unknown hv hs hp hk, fun hc h0 => ?_, fun hc h0 => ?_,
    run (settles_of_runCmd hv hs hp (exec_build fn q s) rfl rfl rfl),
    run (settles_of_runCmd hv hs hp (exec_arm fn q s) rfl rfl rfl),
    run (settles_of_runCmd hv hs hp (exec_release fn q s) rfl rfl rfl),
    run (settles_of_runCmd hv hs hp (exec_preempt fn q s) rfl rfl rfl),
    run (settles_of_runCmd hv hs hp (exec_resolve fn q s) rfl rfl rfl),
    run (settles_of_runCmd hv hs hp (exec_inval fn q s) rfl rfl rfl),
    run (settles_of_runCmd hv hs hp (exec_jread fn q s) rfl rfl rfl),
    run (settles_of_runCmd hv hs hp (exec_capsList fn q s) rfl rfl rfl),
    run (settles_capsRead hv hs hp),
    run (settles_of_runCmd hv hs hp (exec_partset fn q s) rfl rfl rfl),
    fun _ _ _ hfind hm => partsetDone_grants hfind hm,
    run (settles_of_runCmd hv hs hp (exec_sevset fn q s) rfl rfl rfl),
    run (settles_of_runCmd hv hs hp (exec_tmoset fn q s) rfl rfl rfl),
    run (settles_of_runCmd hv hs hp (exec_wdset fn q s) rfl rfl rfl),
    run (settles_of_runCmd hv hs hp (exec_power fn q s) rfl rfl rfl),
    run (settles_diereset hv hs hp hf),
    run (settles_of_runCmd hv hs hp (exec_diedrop fn q s) rfl rfl rfl),
    run (settles_of_runCmd hv hs hp (exec_snapshot fn q s) rfl rfl rfl),
    run (settles_of_runCmd hv hs hp (exec_snaprest fn q s) rfl rfl rfl),
    fun hw => run (settles_pkgreset hp hf hw),
    fun hc h0 => fabset_refused hv hs hp hc rfl (fabErr_form h0 _) h0,
    fun hc h0 => ⟨fun hn => fabset_refused hv hs hp hc rfl (fabErr_reserved h0 hn _) (by omega),
      fun hcl hpl => fabset_refused hv hs hp hc rfl (fabErr_place h0 hcl hpl _) (by omega),
      fun hcl hr hz => fabset_refused hv hs hp hc rfl (fabErr_value h0 hcl (fabChk_zero hr hz)) (by omega),
      fun hcl hr h1 h2 => ⟨fun hport => ?_, fun hport => ?_⟩, fun hcl hport => ⟨fun hr => ?_, fun hr => ?_⟩⟩,
    fun rcd => accept_counts s x rcd, fun rcd e => ?_⟩
  · rw [cmdNop_settles hv hs hp hc, settleCmd_accepted _ _ _ _ h0]
  · rw [cmdNop_settles hv hs hp hc, settleCmd_refused _ _ _ _ h0]
  · exact (fabset_accepted hv hs hp hc rfl (fabErr_none h0 hcl (by omega) (.inl hport) (fabChk_set hr h1 h2))).trans
      (congrArg _ (fabEff_port hr hport _))
  · exact (fabset_accepted hv hs hp hc rfl (fabErr_none h0 hcl (by omega) (.inr hport) (fabChk_set hr h1 h2))).trans
      (congrArg _ (fabEff_ports hr hport _))
  · exact (fabset_accepted hv hs hp hc rfl (fabErr_none h0 hcl (by omega) hport (fabChk_other (.inl hr)))).trans
      (congrArg _ (if_pos hr))
  · exact (fabset_accepted hv hs hp hc rfl (fabErr_none h0 hcl (by omega) hport (fabChk_other (.inr hr)))).trans
      (congrArg _ ((if_neg (by omega)).trans (if_pos hr)))
  · obtain ⟨hque, hirq⟩ := reject_stops hv x rcd e
    rw [hque]
    exact ⟨rfl, rfl, rfl, hirq⟩

end Sys2Proof.Laws

end
